-- ==== Sys2Proof/Word.lean ====
section
/-! DEFINITION. The word types of the VX2 (R3 to R6): bytes, 16-, 32- and 64-bit words. -/
namespace Sys2Proof

/-- A byte. -/
abbrev Byte := BitVec 8
/-- A halfword. -/
abbrev Half := BitVec 16
/-- A 32-bit word: an instruction, an f32, a thread mask. -/
abbrev W32 := BitVec 32
/-- A 64-bit word: one register. -/
abbrev Word := BitVec 64

/-- A 64-bit word whose bits are all set. -/
def allOnes64 : Word := BitVec.allOnes 64

end Sys2Proof
end

