-- ==== Sys2Proof/Syntax.lean ====
section
/-! DEFINITION. The instructions and events of the VX2, one constructor for each row of the opcode table.
An instruction word keeps its fields as the format lays them out (R149, R150). An event is a step of the part that no word
encodes; it carries the data its step needs. -/
namespace Sys2Proof

/-- Who issues instruction words (R25): a caravan of a block, or a block's sequencer. -/
inductive Who where
  | car (blk n : Nat)
  | seq (blk : Nat)
deriving DecidableEq, Repr

/-- A register name as the scoreboard sees it (R144). -/
inductive Reg where
  | v (n : Nat)
  | u (n : Nat)
  | p (n : Nat)
  | c (n : Nat)
deriving DecidableEq, Repr

/-- What a fault record says of a trap, apart from who and when (R299, R335). -/
structure Trap where
  code : Nat
  sub : Nat
  addr : Word
  synd : Word
  lanes : W32
  lreason : BitVec 128
deriving DecidableEq, Repr

/-- Where an uncorrectable error lies (R397). -/
inductive EccError where
  /-- A register written since the oldest uncommitted checkpoint, or a speculative store. -/
  | fresh (blk car : Nat)
  /-- A shadow, or state no shadow covers; the array number of R397. -/
  | lasting (who : Who) (array : Nat)
  /-- A cached or memory line's bytes. -/
  | line (pa len : Nat)
deriving DecidableEq, Repr

/-- A flit at a receiver (R398), with its source and the incarnation number it carries (R399). -/
structure Flit where
  bad : Bool
  source : Nat
  inc : BitVec 16
  cause : Nat
  line : Nat
  first : Nat
  last : Nat
deriving DecidableEq, Repr

/-- Who sends a request to a home slice (R387): its cache, the incarnation number the request carries (R399), and the tenant that another
package names. A request of another package carries the bytes its write stores or an owner returns, from an offset in the line (R17,
R387; log 43); a package of another pod sends the destination chunks of its message copies so. -/
structure Requester where
  cache : Nat
  inc : BitVec 16
  tenant : Nat := 0
  store : Option (Nat × List (BitVec 8)) := none
deriving DecidableEq, Repr

/-- An invalidation: the cache it reaches, the source that sends it, and the number that the source had (R392, R399). -/
structure Inval where
  cache : Nat
  source : Nat
  inc : BitVec 16
deriving DecidableEq, Repr

/-- Where a host request to a register comes from: the function it names, and whether it comes on that function's IDE stream (R419, R420). -/
structure HostFrom where
  vf : Nat
  onIde : Bool
deriving DecidableEq, Repr

/-- A host access to device memory (R412). -/
structure HostAccess where
  vf : Nat
  onIde : Bool
  pa : Nat
  len : Nat
  store : Option (List Byte)
deriving DecidableEq, Repr

/-- A register the host reaches (R365, R407, R422, R426). -/
inductive HostReg where
  | qcount | evbase | sliceshape
  | qbase (q : Nat) | qctl (q : Nat) | qstat (q : Nat)
  | evtail | qhead (q : Nat)
  | bar (n : Nat) | msgCtl | msixTable (off : Nat) | pba (off : Nat)
  | pfVfBar (n : Nat) | pfNumVfs | pfPageSize | pfVfEnable
  | atomicEnable | cxlCache | ikcmd | ikstat
deriving DecidableEq, Repr

/-- An innkeeper command (R408): target function, SEQ, and its arguments in the order the table lists them. -/
structure Command where
  vf : Nat
  seq : W32
  args : List Nat
  cores : List Nat
deriving DecidableEq, Repr

/-- A TDISP request for a function, inside an SPDM session (R420). -/
structure TdispMsg where
  vf : Nat
  session : Nat
  offset : Nat
  len : Nat
deriving DecidableEq, Repr

/-- An SPDM request (R418): its session, a selector (slot, index or function) and its body. -/
structure SpdmMsg where
  session : Nat
  sel : Nat
  body : List Byte
deriving DecidableEq, Repr

/-- R format with a size field (R150); the M format too: a is base6, b is idx6. -/
structure FmtR where
  (st sz : BitVec 2)
  (pr : BitVec 3)
  (d a b : BitVec 6)
deriving DecidableEq, Repr

/-- R format whose size is fixed by the instruction. -/
structure FmtW where
  (st : BitVec 2)
  (pr : BitVec 3)
  (d a b : BitVec 6)
deriving DecidableEq, Repr

/-- R format whose size is 2 or 3 (bit 18). -/
structure FmtZ1 where
  (st : BitVec 2)
  (pr : BitVec 3)
  (z1 : BitVec 1)
  (d a b : BitVec 6)
deriving DecidableEq, Repr

/-- Compare into a predicate: condition c, predicate q. -/
structure FmtCmp where
  (st sz : BitVec 2)
  (pr c q : BitVec 3)
  (a b : BitVec 6)
deriving DecidableEq, Repr

/-- bf16 compare into a predicate. -/
structure FmtCmpB where
  (st : BitVec 2)
  (pr c q : BitVec 3)
  (a b : BitVec 6)
deriving DecidableEq, Repr

/-- Destination and source, fixed size. -/
structure FmtDA where
  (st : BitVec 2)
  (pr : BitVec 3)
  (d a : BitVec 6)
deriving DecidableEq, Repr

/-- Destination and source with a size field. -/
structure FmtZDA where
  (st sz : BitVec 2)
  (pr : BitVec 3)
  (d a : BitVec 6)
deriving DecidableEq, Repr

/-- Destination and source, size 2 or 3. -/
structure FmtZ1DA where
  (st : BitVec 2)
  (pr : BitVec 3)
  (z1 : BitVec 1)
  (d a : BitVec 6)
deriving DecidableEq, Repr

/-- Destination only. -/
structure FmtD where
  (st : BitVec 2)
  (pr : BitVec 3)
  (d : BitVec 6)
deriving DecidableEq, Repr

/-- I format (R150). -/
structure FmtI where
  (st : BitVec 2)
  (pr : BitVec 3)
  (d a : BitVec 6)
  (i : BitVec 8)
deriving DecidableEq, Repr

/-- I format with a6 zero. -/
structure FmtDI where
  (st : BitVec 2)
  (pr : BitVec 3)
  (d : BitVec 6)
  (i : BitVec 8)
deriving DecidableEq, Repr

/-- I format with d6 zero. -/
structure FmtAI where
  (st : BitVec 2)
  (pr : BitVec 3)
  (a : BitVec 6)
  (r : BitVec 8)
deriving DecidableEq, Repr

/-- Uniform compare into a condition k. -/
structure FmtCs where
  (st sz k : BitVec 2)
  (pr c : BitVec 3)
  (a b : BitVec 6)
deriving DecidableEq, Repr

/-- Uniform compare with an immediate. -/
structure FmtCsI where
  (st k : BitVec 2)
  (pr c : BitVec 3)
  (a : BitVec 6)
  (i : BitVec 8)
deriving DecidableEq, Repr

/-- cvt between floating formats and from integers. -/
structure FmtCvtF where
  (st sz e : BitVec 2)
  (pr : BitVec 3)
  (d a : BitVec 6)
  (src : BitVec 4)
deriving DecidableEq, Repr

/-- cvt to integers. -/
structure FmtCvtI where
  (st sz src : BitVec 2)
  (pr e : BitVec 3)
  (d a : BitVec 6)
deriving DecidableEq, Repr

/-- Scan; x is the exclusive bit. -/
structure FmtScan where
  (st sz : BitVec 2)
  (pr : BitVec 3)
  (d a : BitVec 6)
  (x : BitVec 1)
deriving DecidableEq, Repr

/-- bf16 scan. -/
structure FmtScanB where
  (st : BitVec 2)
  (pr : BitVec 3)
  (d a : BitVec 6)
  (x : BitVec 1)
deriving DecidableEq, Repr

/-- Source only. -/
structure FmtA where
  (st : BitVec 2)
  (pr : BitVec 3)
  (a : BitVec 6)
deriving DecidableEq, Repr

/-- cbar: a is the convoy slot. -/
structure FmtCb where
  (st a : BitVec 2)
  (pr : BitVec 3)
  (d : BitVec 6)
deriving DecidableEq, Repr

/-- No operand. -/
structure FmtN where
  (st : BitVec 2)
  (pr : BitVec 3)
deriving DecidableEq, Repr

/-- Queue pop: c is the condition or the pipe field. -/
structure FmtQ where
  (st c : BitVec 2)
  (pr : BitVec 3)
  (d a : BitVec 6)
deriving DecidableEq, Repr

/-- B format (R150). -/
structure FmtB where
  (st : BitVec 2)
  (pr : BitVec 3)
  (off : BitVec 20)
deriving DecidableEq, Repr

/-- B format that names no condition. -/
structure FmtBn where
  (st : BitVec 2)
  (off : BitVec 20)
deriving DecidableEq, Repr

/-- T format (R150). -/
structure FmtT where
  (st : BitVec 2)
  (pr : BitVec 3)
  (t : BitVec 5)
  (i m : BitVec 4)
  (v : BitVec 6)
deriving DecidableEq, Repr

/-- `eret.term`: the stall count, condition and NOBP bit (R341). -/
structure FmtTm where
  st : BitVec 2
  pr : BitVec 3
  nobp : BitVec 1
deriving DecidableEq, Repr

/-- setvb. -/
structure FmtVb where
  (st : BitVec 2)
  (pr m : BitVec 3)
deriving DecidableEq, Repr

/-- svc. -/
structure FmtS where
  (st : BitVec 2)
  (pr : BitVec 3)
  (n : BitVec 8)
deriving DecidableEq, Repr

/-- IMM hint (R164). -/
structure FmtImm where
  (v : BitVec 25)
deriving DecidableEq, Repr

/-- REP hint (R165). -/
structure FmtRep where
  (g : BitVec 6)
  (c : BitVec 12)
  (e : BitVec 2)
deriving DecidableEq, Repr

/-- MOD hint (R166). -/
structure FmtMod where
  (r : BitVec 3)
  (t n v : BitVec 1)
  (p : BitVec 2)
  (g : BitVec 6)
deriving DecidableEq, Repr

/-- SCHED hint (R167). -/
structure FmtSched where
  (y k q : BitVec 1)
  (i : BitVec 2)
deriving DecidableEq, Repr

/-- One constructor per row of the opcode table. -/
inductive Instr where
  | scoreboardWriteback (who : Who) -- R159
  | hostAtomicCompletion (blk car : Nat) (ok performed : Bool) -- R298
  | homeRequest (src : Requester) (line first last : Nat) (own : Bool) -- R387
  | invalidation (cache : Inval) (line : Nat) (words : BitVec 64) -- R392
  | epochCommit (blk car : Nat) -- R390
  | coreEscortEnd (core : Nat) -- R395
  | uncorrectableError (e : EccError) -- R397
  | copyTransfer (id : Nat) -- R237
  | matrixTake (core : Nat) -- R267
  | matrixOperandRead (core : Nat) -- R105
  | matrixComplete (core : Nat) -- R268
  | trapEntry (who : Who) (t : Trap) -- R337
  | wfeTimeout (blk car : Nat) -- R348
  | bundleRequestServe (tenant die : Nat) -- R305
  | bundleEntryComplete (blk handle : Nat) -- R88
  | streamAccess (id : Nat) -- R316
  | dhLineCopy (vf proc : Nat) -- R363
  | ingestFrame (port : Nat) (bytes : List (BitVec 8)) -- R321
  | transmitFrame (port : Nat) -- R324
  | packetDispatch -- R371
  | semaphorePoll (vf q : Nat) -- R369
  | sliceEnd -- R371
  | feedQueuePush (vf q : Nat) -- R367
  | launchCompletion (launch : Nat) -- R368
  | chunkSteal (launch die : Nat) -- R374
  | blockAdmission (die : Nat) -- R375
  | energyMeterSample -- R378
  | energyWindowStart -- R377
  | flitReceive (link : Nat) (x : Flit) -- R398
  | linkHeartbeat (link : Nat) -- R400
  | linkFailed (link : Nat) -- R400
  | requestReissue (tag : Nat) -- R401
  | packageFenced (pkg : Nat) -- R402
  | hostAccess (a : HostAccess) -- R412
  | hostLkWrite (vf : HostFrom) (reg : HostReg) (value : BitVec 64) -- R425
  | ideStreamFailure (vf : Nat) -- R425
  | functionLevelReset (vf : Nat) -- R425
  | qtailDoorbell (vf : HostFrom) (q : Nat) (value : BitVec 32) -- R365
  | evheadWrite (vf : HostFrom) (value : BitVec 32) -- R370
  | registerWrite (vf : HostFrom) (reg : HostReg) (value : BitVec 64) -- R8
  | mapQueue (c : Command) -- R408
  | unmapQueue (c : Command) -- R408
  | pause (c : Command) -- R380
  | resume (c : Command) -- R385
  | evict (c : Command) -- R415
  | importContext (c : Command) -- R416
  | setSlice (c : Command) -- R405
  | reassignCores (c : Command) -- R417
  | migrate (c : Command) -- R406
  | setWeight (c : Command) -- R372
  | endGang (c : Command) -- R257
  | discardLaunch (c : Command) -- R408
  | resetQueue (c : Command) -- R366
  | attachPort (c : Command) -- R321
  | resetTenant (c : Command) -- R414
  | installPolicy (c : Command) -- R409
  | assignMemory (c : Command) -- R411
  | releaseMemory (c : Command) -- R411
  | setPodWindow (c : Command) -- R352
  | lockInterface (m : TdispMsg) -- R420
  | startInterface (m : TdispMsg) -- R420
  | stopInterface (m : TdispMsg) -- R420
  | getDeviceInterfaceReport (m : TdispMsg) -- R427
  | getDeviceInterfaceState (m : TdispMsg) -- R427
  | tdispGetVersion (m : TdispMsg) -- R420
  | tdispGetCapabilities (m : TdispMsg) -- R420
  | ifcmdLock (vf : Nat) -- R425
  | ifcmdStart (vf : Nat) -- R425
  | ifcmdStop (vf : Nat) -- R425
  | spdmGetVersion (m : SpdmMsg) -- R418
  | spdmGetCapabilities (m : SpdmMsg) -- R418
  | negotiateAlgorithms (m : SpdmMsg) -- R418
  | getDigests (m : SpdmMsg) -- R418
  | getCertificate (m : SpdmMsg) -- R418
  | challenge (m : SpdmMsg) -- R418
  | getMeasurements (m : SpdmMsg) -- R418
  | keyExchange (m : SpdmMsg) -- R418
  | finish (m : SpdmMsg) -- R418
  | spdmHeartbeat (m : SpdmMsg) -- R418
  | keyUpdate (m : SpdmMsg) -- R418
  | endSession (m : SpdmMsg) -- R418
  | policyKeyRegistration (m : SpdmMsg) -- R418
  | packageReset (why : Nat) -- R429
  | firmwareWatchdog -- R430
  | fwctlReady -- R430
  | fwctlActivate -- R434
  | activationVerified -- R434
  | activationPause -- R434
  | firmwareImageWrite (bytes : List (BitVec 8)) -- R434
  | wake (value : BitVec 64) -- R349
  | stlaunch (core : Nat) (value : BitVec 64) -- R433
  | dhctlSync (vf proc : Nat) -- R363
  | dhctlSwitch (vf proc : Nat) -- R363
  | syzstatRetrain (port : Nat) -- R437
  | pwrcap (value : BitVec 64) -- R438
  | junctionHot (die : Nat) -- R439
  | junctionCool (die : Nat) -- R439
  | thermalTrip -- R439
  | coreRetirement (core : Nat) -- R406
  | unassignedEncoding (w : BitVec 32) -- R169
  | reservedHintWord (w : BitVec 32) -- R163
  | ikdoor (_value : BitVec 64) -- R407
  | ideKmKeyProgramming (m : SpdmMsg) -- R419
  | healthTestFailure -- R413
  | hostSnoop (_addr : Nat) -- R436
  | globalObservationResponse (addr : Nat) -- R114
  | reAdmission (source : Nat) -- R399
  | trainingComplete (port : Nat) -- R437
  | add (f : FmtR) -- R186
  | sub (f : FmtR) -- R186
  | mul (f : FmtR) -- R186
  | mulhI (f : FmtR) -- R186
  | mulhN (f : FmtR) -- R186
  | mad (f : FmtR) -- R186
  | sad (f : FmtR) -- R186
  | minI (f : FmtR) -- R186
  | minN (f : FmtR) -- R186
  | maxI (f : FmtR) -- R186
  | maxN (f : FmtR) -- R186
  | and (f : FmtW) -- R186
  | or (f : FmtW) -- R186
  | xor (f : FmtW) -- R186
  | shl (f : FmtR) -- R186
  | shrN (f : FmtR) -- R186
  | shrI (f : FmtR) -- R186
  | rotl (f : FmtR) -- R186
  | bfx (f : FmtZ1) -- R187
  | bfi (f : FmtZ1) -- R187
  | setp (f : FmtCmp) -- R188
  | sel (f : FmtW) -- R189
  | lea (f : FmtR) -- R190
  | mov (f : FmtDA) -- R191
  | not (f : FmtDA) -- R191
  | neg (f : FmtZDA) -- R191
  | abs (f : FmtZDA) -- R191
  | popc (f : FmtZDA) -- R191
  | clz (f : FmtZDA) -- R191
  | ctz (f : FmtZDA) -- R191
  | brev (f : FmtZDA) -- R191
  | packlI (f : FmtZDA) -- R192
  | packhI (f : FmtZDA) -- R192
  | packlN (f : FmtZDA) -- R192
  | packhN (f : FmtZDA) -- R192
  | unpklI (f : FmtZDA) -- R192
  | unpkhI (f : FmtZDA) -- R192
  | unpklN (f : FmtZDA) -- R192
  | unpkhN (f : FmtZDA) -- R192
  | bcast (f : FmtDA) -- R191
  | pmask (f : FmtDA) -- R191
  | rdtid (f : FmtD) -- R191
  | pnot (f : FmtDA) -- R191
  | addU (f : FmtZDA) -- R195
  | subU (f : FmtZDA) -- R195
  | mulU (f : FmtZDA) -- R195
  | mulhIU (f : FmtZDA) -- R195
  | mulhNU (f : FmtZDA) -- R195
  | madU (f : FmtZDA) -- R195
  | sadU (f : FmtZDA) -- R195
  | minIU (f : FmtZDA) -- R195
  | minNU (f : FmtZDA) -- R195
  | maxIU (f : FmtZDA) -- R195
  | maxNU (f : FmtZDA) -- R195
  | andU (f : FmtDA) -- R195
  | orU (f : FmtDA) -- R195
  | xorU (f : FmtDA) -- R195
  | shlU (f : FmtZDA) -- R195
  | shrNU (f : FmtZDA) -- R195
  | shrIU (f : FmtZDA) -- R195
  | rotlU (f : FmtZDA) -- R195
  | bfxU (f : FmtZ1DA) -- R195
  | leaU (f : FmtZDA) -- R195
  | addImm (f : FmtI) -- R194
  | shlImm (f : FmtI) -- R194
  | shrNImm (f : FmtI) -- R194
  | shrIImm (f : FmtI) -- R194
  | andImm (f : FmtI) -- R194
  | orImm (f : FmtI) -- R194
  | xorImm (f : FmtI) -- R194
  | mulImm (f : FmtI) -- R194
  | movU (f : FmtDA) -- R191
  | notU (f : FmtDA) -- R191
  | negU (f : FmtZDA) -- R191
  | absU (f : FmtZDA) -- R191
  | popcU (f : FmtZDA) -- R191
  | clzU (f : FmtZDA) -- R191
  | ctzU (f : FmtZDA) -- R191
  | brevU (f : FmtZDA) -- R191
  | packlIU (f : FmtZDA) -- R192
  | packhIU (f : FmtZDA) -- R192
  | packlNU (f : FmtZDA) -- R192
  | packhNU (f : FmtZDA) -- R192
  | unpklIU (f : FmtZDA) -- R192
  | unpkhIU (f : FmtZDA) -- R192
  | unpklNU (f : FmtZDA) -- R192
  | unpkhNU (f : FmtZDA) -- R192
  | cnot (f : FmtDA) -- R191
  | csetp (f : FmtCs) -- R196
  | csetpImm (f : FmtCsI) -- R196
  | madUniform (f : FmtR) -- R194
  | rdid (f : FmtDI) -- R60
  | bfiU (f : FmtZ1) -- R194
  | selU (f : FmtW) -- R194
  | fadd (f : FmtR) -- R199
  | fsub (f : FmtR) -- R199
  | fmul (f : FmtR) -- R199
  | fma (f : FmtR) -- R199
  | fmin (f : FmtR) -- R200
  | fmax (f : FmtR) -- R200
  | fsetp (f : FmtCmp) -- R201
  | fneg (f : FmtZDA) -- R202
  | fabs (f : FmtZDA) -- R202
  | fclass (f : FmtZDA) -- R202
  | faddBf16 (f : FmtW) -- R199
  | fsubBf16 (f : FmtW) -- R199
  | fmulBf16 (f : FmtW) -- R199
  | fmaBf16 (f : FmtW) -- R199
  | fminBf16 (f : FmtW) -- R200
  | fmaxBf16 (f : FmtW) -- R200
  | fsetpBf16 (f : FmtCmpB) -- R201
  | fnegBf16 (f : FmtDA) -- R202
  | fabsBf16 (f : FmtDA) -- R202
  | fclassBf16 (f : FmtDA) -- R202
  | rcp (f : FmtDA) -- R204
  | rsq (f : FmtDA) -- R204
  | sqrt (f : FmtDA) -- R204
  | ex2 (f : FmtDA) -- R204
  | lg2 (f : FmtDA) -- R204
  | sinpi (f : FmtDA) -- R204
  | cospi (f : FmtDA) -- R204
  | tanh (f : FmtDA) -- R204
  | cvtFloat (f : FmtCvtF) -- R206
  | cvtInt (f : FmtCvtI) -- R207
  | cvtXF32 (f : FmtW) -- R210
  | cvtF32X (f : FmtW) -- R210
  | qblk (f : FmtW) -- R211
  | dqblk (f : FmtW) -- R212
  | swz (f : FmtW) -- R213
  | lxch (f : FmtR) -- R215
  | lbcast (f : FmtR) -- R215
  | lredAdd (f : FmtZDA) -- R217
  | lredMinI (f : FmtZDA) -- R217
  | lredMinN (f : FmtZDA) -- R217
  | lredMaxI (f : FmtZDA) -- R217
  | lredMaxN (f : FmtZDA) -- R217
  | lredAnd (f : FmtZDA) -- R217
  | lredOr (f : FmtZDA) -- R217
  | lredXor (f : FmtZDA) -- R217
  | lredMinIdxI (f : FmtZDA) -- R217
  | lredMinIdxN (f : FmtZDA) -- R217
  | lredMaxIdxI (f : FmtZDA) -- R217
  | lredMaxIdxN (f : FmtZDA) -- R217
  | lredFadd (f : FmtZDA) -- R141
  | lredFmin (f : FmtZDA) -- R217
  | lredFmax (f : FmtZDA) -- R217
  | lredFminIdx (f : FmtZDA) -- R217
  | lredFmaxIdx (f : FmtZDA) -- R217
  | lredFaddBf16 (f : FmtDA) -- R141
  | lredFminBf16 (f : FmtDA) -- R217
  | lredFmaxBf16 (f : FmtDA) -- R217
  | lredFminIdxBf16 (f : FmtDA) -- R217
  | lredFmaxIdxBf16 (f : FmtDA) -- R217
  | lscanAdd (f : FmtScan) -- R218
  | lscanMinI (f : FmtScan) -- R218
  | lscanMinN (f : FmtScan) -- R218
  | lscanMaxI (f : FmtScan) -- R218
  | lscanMaxN (f : FmtScan) -- R218
  | lscanAnd (f : FmtScan) -- R218
  | lscanOr (f : FmtScan) -- R218
  | lscanXor (f : FmtScan) -- R218
  | lscanFadd (f : FmtScan) -- R218
  | lscanFmin (f : FmtScan) -- R218
  | lscanFmax (f : FmtScan) -- R218
  | lscanFaddBf16 (f : FmtScanB) -- R218
  | lscanFminBf16 (f : FmtScanB) -- R218
  | lscanFmaxBf16 (f : FmtScanB) -- R218
  | lballot (f : FmtDA) -- R219
  | lmatch (f : FmtZDA) -- R220
  | lmatchF (f : FmtZDA) -- R220
  | lmatchBf16 (f : FmtDA) -- R220
  | lcount (f : FmtDA) -- R219
  | ld (f : FmtR) -- R226
  | ldOffset (f : FmtR) -- R226
  | st (f : FmtR) -- R226
  | stOffset (f : FmtR) -- R226
  | ldu (f : FmtR) -- R226
  | stu (f : FmtR) -- R226
  | ldl (f : FmtR) -- R228
  | ldlOffset (f : FmtR) -- R228
  | stl (f : FmtR) -- R228
  | stlOffset (f : FmtR) -- R228
  | ldc (f : FmtR) -- R229
  | ldcU (f : FmtR) -- R229
  | amoAdd (f : FmtZ1DA) -- R232
  | amoMinI (f : FmtZ1DA) -- R232
  | amoMinN (f : FmtZ1DA) -- R232
  | amoMaxI (f : FmtZ1DA) -- R232
  | amoMaxN (f : FmtZ1DA) -- R232
  | amoAnd (f : FmtZ1DA) -- R232
  | amoOr (f : FmtZ1DA) -- R232
  | amoXor (f : FmtZ1DA) -- R232
  | amoExch (f : FmtZ1DA) -- R232
  | amoCas (f : FmtZ1DA) -- R232
  | amouAdd (f : FmtZ1DA) -- R232
  | amouMinI (f : FmtZ1DA) -- R232
  | amouMinN (f : FmtZ1DA) -- R232
  | amouMaxI (f : FmtZ1DA) -- R232
  | amouMaxN (f : FmtZ1DA) -- R232
  | amouAnd (f : FmtZ1DA) -- R232
  | amouOr (f : FmtZ1DA) -- R232
  | amouXor (f : FmtZ1DA) -- R232
  | amouExch (f : FmtZ1DA) -- R232
  | amouCas (f : FmtZ1DA) -- R232
  | aappend (f : FmtZ1) -- R234
  | cpyG2l (f : FmtR) -- R236
  | cpyL2g (f : FmtR) -- R236
  | cpyL2l (f : FmtR) -- R236
  | cpyG2g (f : FmtR) -- R236
  | ringInit (f : FmtDA) -- R241
  | ringAcq (f : FmtDA) -- R242
  | ringPub (f : FmtDA) -- R243
  | ringTake (f : FmtDA) -- R242
  | ringRel (f : FmtDA) -- R243
  | barInit (f : FmtDA) -- R245
  | barArv (f : FmtDA) -- R246
  | barWait (f : FmtDA) -- R245
  | barArw (f : FmtDA) -- R245
  | barInval (f : FmtA) -- R247
  | bbar (f : FmtD) -- R249
  | dbar (f : FmtD) -- R249
  | cbar (f : FmtCb) -- R249
  | fenceIo (f : FmtN) -- R114
  | bdecl (f : FmtDA) -- R252
  | bentr (f : FmtDA) -- R253
  | bleav (f : FmtA) -- R254
  | bstat (f : FmtDA) -- R255
  | qpop (f : FmtQ) -- R258
  | qpopTry (f : FmtQ) -- R258
  | qpush (f : FmtDA) -- R259
  | sgbind (f : FmtDA) -- R261
  | sgstat (f : FmtDA) -- R262
  | rdclk (f : FmtD) -- R264
  | rdptp (f : FmtD) -- R264
  | rdenergy (f : FmtD) -- R264
  | bra (f : FmtB) -- R288
  | brd (f : FmtB) -- R290
  | join (f : FmtBn) -- R291
  | brx (f : FmtA) -- R293
  | brxU (f : FmtA) -- R288
  | ret (f : FmtA) -- R288
  | land (f : FmtBn) -- R293
  | call (f : FmtB) -- R288
  | loop (f : FmtDI) -- R288
  | exit (f : FmtN) -- R292
  | mma (f : FmtW) -- R274
  | mzero (f : FmtDA) -- R273
  | mmag (f : FmtW) -- R274
  | mstS (f : FmtW) -- R276
  | mstSAddF32 (f : FmtW) -- R276
  | mstSAddI32 (f : FmtW) -- R276
  | mmaCv (f : FmtW) -- R277
  | mrowRead (f : FmtT) -- R282
  | mcolRead (f : FmtT) -- R282
  | mrowWrite (f : FmtT) -- R283
  | mcolWrite (f : FmtT) -- R283
  | setvb (f : FmtVb) -- R284
  | svc (f : FmtS) -- R342
  | eret (f : FmtN) -- R338
  | eretNobp (f : FmtN) -- R338
  | eretTerm (f : FmtTm) -- R338
  | mfsr (f : FmtDI) -- R333
  | mtsr (f : FmtAI) -- R333
  | tlbiPage (f : FmtDA) -- R343
  | tlbiSpace (f : FmtDA) -- R343
  | tlbiTenant (f : FmtDA) -- R343
  | scrub (f : FmtDA) -- R347
  | ovld (f : FmtDA) -- R344
  | cacheopDropLine (f : FmtDA) -- R346
  | cacheopWriteback (f : FmtDA) -- R346
  | cacheopDropAll (f : FmtDA) -- R346
  | wfe (f : FmtW) -- R348
  | halt (f : FmtN) -- R349
  | imm (f : FmtImm) -- R164
  | rep (f : FmtRep) -- R165
  | mod (f : FmtMod) -- R166
  | sched (f : FmtSched) -- R167
deriving DecidableEq, Repr

end Sys2Proof
end

