-- ==== Sys2Proof/WellFormed.lean ====
section
/-! DEFINITION. What makes an instruction term one that the table can name. A word's fields are as wide as the encoding, so a
word is ill-formed only where two rows share the word (`tlbi`, `cacheop`: the value in a register tells them apart), where a
slice write's index register would read as another instruction, or where a raw word kept by a refusal is a table row's. -/
namespace Sys2Proof

/-- A port number of the part. -/
def portOk (p : Nat) : Bool := p < 2

/-- An instruction's own well-formedness. -/
def Instr.wf : Instr → Bool
  | .mrowWrite f => f.i != 0
  | .mcolWrite f => f.i != 0
  | .ingestFrame port bytes => portOk port && bytes.length ≤ 9216
  | .transmitFrame port => portOk port
  | .unassignedEncoding w => w.extractLsb' 25 7 != 0x7E || w.extractLsb' 22 3 == 0
  | .reservedHintWord w => (w.extractLsb' 25 7 == 0x7E || w.extractLsb' 25 7 == 0x7F) && w.extractLsb' 22 3 != 0
  | .syzstatRetrain p => p < 16
  | .trainingComplete p => p < 16
  | .functionLevelReset vf => vf < 64
  | .ideStreamFailure vf => vf < 64
  | .ifcmdLock vf => vf < 64
  | .ifcmdStart vf => vf < 64
  | .ifcmdStop vf => vf < 64
  | _ => true

end Sys2Proof
end

