-- ==== Sys2Proof/Decode.lean ====
section
/-! DEFINITION. Reading instruction words (R149, R150, R168, R169) and, after it, writing them. -/
namespace Sys2Proof

/-- The fields of FmtR read from a word. -/
def decodeFmtR (w : BitVec 32) : FmtR :=
  { st := w.extractLsb' 23 2, pr := w.extractLsb' 20 3, sz := w.extractLsb' 18 2, d := w.extractLsb' 12 6, a := w.extractLsb' 6 6, b := w.extractLsb' 0 6 }
/-- The fields of FmtR at their places in a word. -/
def encodeFmtR (f : FmtR) : BitVec 32 :=
  (f.st.setWidth 32 <<< 23) ||| (f.pr.setWidth 32 <<< 20) ||| (f.sz.setWidth 32 <<< 18) ||| (f.d.setWidth 32 <<< 12) ||| (f.a.setWidth 32 <<< 6) ||| f.b.setWidth 32

/-- The fields of FmtW read from a word. -/
def decodeFmtW (w : BitVec 32) : FmtW :=
  { st := w.extractLsb' 23 2, pr := w.extractLsb' 20 3, d := w.extractLsb' 12 6, a := w.extractLsb' 6 6, b := w.extractLsb' 0 6 }
/-- The fields of FmtW at their places in a word. -/
def encodeFmtW (f : FmtW) : BitVec 32 :=
  (f.st.setWidth 32 <<< 23) ||| (f.pr.setWidth 32 <<< 20) ||| (f.d.setWidth 32 <<< 12) ||| (f.a.setWidth 32 <<< 6) ||| f.b.setWidth 32

/-- The fields of FmtZ1 read from a word. -/
def decodeFmtZ1 (w : BitVec 32) : FmtZ1 :=
  { st := w.extractLsb' 23 2, pr := w.extractLsb' 20 3, z1 := w.extractLsb' 18 1, d := w.extractLsb' 12 6, a := w.extractLsb' 6 6, b := w.extractLsb' 0 6 }
/-- The fields of FmtZ1 at their places in a word. -/
def encodeFmtZ1 (f : FmtZ1) : BitVec 32 :=
  (f.st.setWidth 32 <<< 23) ||| (f.pr.setWidth 32 <<< 20) ||| (f.z1.setWidth 32 <<< 18) ||| (f.d.setWidth 32 <<< 12) ||| (f.a.setWidth 32 <<< 6) ||| f.b.setWidth 32

/-- The fields of FmtCmp read from a word. -/
def decodeFmtCmp (w : BitVec 32) : FmtCmp :=
  { st := w.extractLsb' 23 2, pr := w.extractLsb' 20 3, sz := w.extractLsb' 18 2, c := w.extractLsb' 15 3, q := w.extractLsb' 12 3, a := w.extractLsb' 6 6, b := w.extractLsb' 0 6 }
/-- The fields of FmtCmp at their places in a word. -/
def encodeFmtCmp (f : FmtCmp) : BitVec 32 :=
  (f.st.setWidth 32 <<< 23) ||| (f.pr.setWidth 32 <<< 20) ||| (f.sz.setWidth 32 <<< 18) ||| (f.c.setWidth 32 <<< 15) ||| (f.q.setWidth 32 <<< 12) ||| (f.a.setWidth 32 <<< 6) ||| f.b.setWidth 32

/-- The fields of FmtCmpB read from a word. -/
def decodeFmtCmpB (w : BitVec 32) : FmtCmpB :=
  { st := w.extractLsb' 23 2, pr := w.extractLsb' 20 3, c := w.extractLsb' 15 3, q := w.extractLsb' 12 3, a := w.extractLsb' 6 6, b := w.extractLsb' 0 6 }
/-- The fields of FmtCmpB at their places in a word. -/
def encodeFmtCmpB (f : FmtCmpB) : BitVec 32 :=
  (f.st.setWidth 32 <<< 23) ||| (f.pr.setWidth 32 <<< 20) ||| (f.c.setWidth 32 <<< 15) ||| (f.q.setWidth 32 <<< 12) ||| (f.a.setWidth 32 <<< 6) ||| f.b.setWidth 32

/-- The fields of FmtDA read from a word. -/
def decodeFmtDA (w : BitVec 32) : FmtDA :=
  { st := w.extractLsb' 23 2, pr := w.extractLsb' 20 3, d := w.extractLsb' 12 6, a := w.extractLsb' 6 6 }
/-- The fields of FmtDA at their places in a word. -/
def encodeFmtDA (f : FmtDA) : BitVec 32 :=
  (f.st.setWidth 32 <<< 23) ||| (f.pr.setWidth 32 <<< 20) ||| (f.d.setWidth 32 <<< 12) ||| (f.a.setWidth 32 <<< 6)

/-- The fields of FmtZDA read from a word. -/
def decodeFmtZDA (w : BitVec 32) : FmtZDA :=
  { st := w.extractLsb' 23 2, pr := w.extractLsb' 20 3, sz := w.extractLsb' 18 2, d := w.extractLsb' 12 6, a := w.extractLsb' 6 6 }
/-- The fields of FmtZDA at their places in a word. -/
def encodeFmtZDA (f : FmtZDA) : BitVec 32 :=
  (f.st.setWidth 32 <<< 23) ||| (f.pr.setWidth 32 <<< 20) ||| (f.sz.setWidth 32 <<< 18) ||| (f.d.setWidth 32 <<< 12) ||| (f.a.setWidth 32 <<< 6)

/-- The fields of FmtZ1DA read from a word. -/
def decodeFmtZ1DA (w : BitVec 32) : FmtZ1DA :=
  { st := w.extractLsb' 23 2, pr := w.extractLsb' 20 3, z1 := w.extractLsb' 18 1, d := w.extractLsb' 12 6, a := w.extractLsb' 6 6 }
/-- The fields of FmtZ1DA at their places in a word. -/
def encodeFmtZ1DA (f : FmtZ1DA) : BitVec 32 :=
  (f.st.setWidth 32 <<< 23) ||| (f.pr.setWidth 32 <<< 20) ||| (f.z1.setWidth 32 <<< 18) ||| (f.d.setWidth 32 <<< 12) ||| (f.a.setWidth 32 <<< 6)

/-- The fields of FmtD read from a word. -/
def decodeFmtD (w : BitVec 32) : FmtD :=
  { st := w.extractLsb' 23 2, pr := w.extractLsb' 20 3, d := w.extractLsb' 12 6 }
/-- The fields of FmtD at their places in a word. -/
def encodeFmtD (f : FmtD) : BitVec 32 :=
  (f.st.setWidth 32 <<< 23) ||| (f.pr.setWidth 32 <<< 20) ||| (f.d.setWidth 32 <<< 12)

/-- The fields of FmtI read from a word. -/
def decodeFmtI (w : BitVec 32) : FmtI :=
  { st := w.extractLsb' 23 2, pr := w.extractLsb' 20 3, d := w.extractLsb' 14 6, a := w.extractLsb' 8 6, i := w.extractLsb' 0 8 }
/-- The fields of FmtI at their places in a word. -/
def encodeFmtI (f : FmtI) : BitVec 32 :=
  (f.st.setWidth 32 <<< 23) ||| (f.pr.setWidth 32 <<< 20) ||| (f.d.setWidth 32 <<< 14) ||| (f.a.setWidth 32 <<< 8) ||| f.i.setWidth 32

/-- The fields of FmtDI read from a word. -/
def decodeFmtDI (w : BitVec 32) : FmtDI :=
  { st := w.extractLsb' 23 2, pr := w.extractLsb' 20 3, d := w.extractLsb' 14 6, i := w.extractLsb' 0 8 }
/-- The fields of FmtDI at their places in a word. -/
def encodeFmtDI (f : FmtDI) : BitVec 32 :=
  (f.st.setWidth 32 <<< 23) ||| (f.pr.setWidth 32 <<< 20) ||| (f.d.setWidth 32 <<< 14) ||| f.i.setWidth 32

/-- The fields of FmtAI read from a word. -/
def decodeFmtAI (w : BitVec 32) : FmtAI :=
  { st := w.extractLsb' 23 2, pr := w.extractLsb' 20 3, a := w.extractLsb' 8 6, r := w.extractLsb' 0 8 }
/-- The fields of FmtAI at their places in a word. -/
def encodeFmtAI (f : FmtAI) : BitVec 32 :=
  (f.st.setWidth 32 <<< 23) ||| (f.pr.setWidth 32 <<< 20) ||| (f.a.setWidth 32 <<< 8) ||| f.r.setWidth 32

/-- The fields of FmtCs read from a word. -/
def decodeFmtCs (w : BitVec 32) : FmtCs :=
  { st := w.extractLsb' 23 2, pr := w.extractLsb' 20 3, sz := w.extractLsb' 18 2, c := w.extractLsb' 15 3, k := w.extractLsb' 12 2, a := w.extractLsb' 6 6, b := w.extractLsb' 0 6 }
/-- The fields of FmtCs at their places in a word. -/
def encodeFmtCs (f : FmtCs) : BitVec 32 :=
  (f.st.setWidth 32 <<< 23) ||| (f.pr.setWidth 32 <<< 20) ||| (f.sz.setWidth 32 <<< 18) ||| (f.c.setWidth 32 <<< 15) ||| (f.k.setWidth 32 <<< 12) ||| (f.a.setWidth 32 <<< 6) ||| f.b.setWidth 32

/-- The fields of FmtCsI read from a word. -/
def decodeFmtCsI (w : BitVec 32) : FmtCsI :=
  { st := w.extractLsb' 23 2, pr := w.extractLsb' 20 3, c := w.extractLsb' 17 3, k := w.extractLsb' 14 2, a := w.extractLsb' 8 6, i := w.extractLsb' 0 8 }
/-- The fields of FmtCsI at their places in a word. -/
def encodeFmtCsI (f : FmtCsI) : BitVec 32 :=
  (f.st.setWidth 32 <<< 23) ||| (f.pr.setWidth 32 <<< 20) ||| (f.c.setWidth 32 <<< 17) ||| (f.k.setWidth 32 <<< 14) ||| (f.a.setWidth 32 <<< 8) ||| f.i.setWidth 32

/-- The fields of FmtCvtF read from a word. -/
def decodeFmtCvtF (w : BitVec 32) : FmtCvtF :=
  { st := w.extractLsb' 23 2, pr := w.extractLsb' 20 3, sz := w.extractLsb' 18 2, d := w.extractLsb' 12 6, a := w.extractLsb' 6 6, e := w.extractLsb' 4 2, src := w.extractLsb' 0 4 }
/-- The fields of FmtCvtF at their places in a word. -/
def encodeFmtCvtF (f : FmtCvtF) : BitVec 32 :=
  (f.st.setWidth 32 <<< 23) ||| (f.pr.setWidth 32 <<< 20) ||| (f.sz.setWidth 32 <<< 18) ||| (f.d.setWidth 32 <<< 12) ||| (f.a.setWidth 32 <<< 6) ||| (f.e.setWidth 32 <<< 4) ||| f.src.setWidth 32

/-- The fields of FmtCvtI read from a word. -/
def decodeFmtCvtI (w : BitVec 32) : FmtCvtI :=
  { st := w.extractLsb' 23 2, pr := w.extractLsb' 20 3, sz := w.extractLsb' 18 2, d := w.extractLsb' 12 6, a := w.extractLsb' 6 6, e := w.extractLsb' 3 3, src := w.extractLsb' 0 2 }
/-- The fields of FmtCvtI at their places in a word. -/
def encodeFmtCvtI (f : FmtCvtI) : BitVec 32 :=
  (f.st.setWidth 32 <<< 23) ||| (f.pr.setWidth 32 <<< 20) ||| (f.sz.setWidth 32 <<< 18) ||| (f.d.setWidth 32 <<< 12) ||| (f.a.setWidth 32 <<< 6) ||| (f.e.setWidth 32 <<< 3) ||| f.src.setWidth 32

/-- The fields of FmtScan read from a word. -/
def decodeFmtScan (w : BitVec 32) : FmtScan :=
  { st := w.extractLsb' 23 2, pr := w.extractLsb' 20 3, sz := w.extractLsb' 18 2, d := w.extractLsb' 12 6, a := w.extractLsb' 6 6, x := w.extractLsb' 5 1 }
/-- The fields of FmtScan at their places in a word. -/
def encodeFmtScan (f : FmtScan) : BitVec 32 :=
  (f.st.setWidth 32 <<< 23) ||| (f.pr.setWidth 32 <<< 20) ||| (f.sz.setWidth 32 <<< 18) ||| (f.d.setWidth 32 <<< 12) ||| (f.a.setWidth 32 <<< 6) ||| (f.x.setWidth 32 <<< 5)

/-- The fields of FmtScanB read from a word. -/
def decodeFmtScanB (w : BitVec 32) : FmtScanB :=
  { st := w.extractLsb' 23 2, pr := w.extractLsb' 20 3, d := w.extractLsb' 12 6, a := w.extractLsb' 6 6, x := w.extractLsb' 5 1 }
/-- The fields of FmtScanB at their places in a word. -/
def encodeFmtScanB (f : FmtScanB) : BitVec 32 :=
  (f.st.setWidth 32 <<< 23) ||| (f.pr.setWidth 32 <<< 20) ||| (f.d.setWidth 32 <<< 12) ||| (f.a.setWidth 32 <<< 6) ||| (f.x.setWidth 32 <<< 5)

/-- The fields of FmtA read from a word. -/
def decodeFmtA (w : BitVec 32) : FmtA :=
  { st := w.extractLsb' 23 2, pr := w.extractLsb' 20 3, a := w.extractLsb' 6 6 }
/-- The fields of FmtA at their places in a word. -/
def encodeFmtA (f : FmtA) : BitVec 32 :=
  (f.st.setWidth 32 <<< 23) ||| (f.pr.setWidth 32 <<< 20) ||| (f.a.setWidth 32 <<< 6)

/-- The fields of FmtCb read from a word. -/
def decodeFmtCb (w : BitVec 32) : FmtCb :=
  { st := w.extractLsb' 23 2, pr := w.extractLsb' 20 3, d := w.extractLsb' 12 6, a := w.extractLsb' 6 2 }
/-- The fields of FmtCb at their places in a word. -/
def encodeFmtCb (f : FmtCb) : BitVec 32 :=
  (f.st.setWidth 32 <<< 23) ||| (f.pr.setWidth 32 <<< 20) ||| (f.d.setWidth 32 <<< 12) ||| (f.a.setWidth 32 <<< 6)

/-- The fields of FmtN read from a word. -/
def decodeFmtN (w : BitVec 32) : FmtN :=
  { st := w.extractLsb' 23 2, pr := w.extractLsb' 20 3 }
/-- The fields of FmtN at their places in a word. -/
def encodeFmtN (f : FmtN) : BitVec 32 :=
  (f.st.setWidth 32 <<< 23) ||| (f.pr.setWidth 32 <<< 20)

/-- The fields of FmtQ read from a word. -/
def decodeFmtQ (w : BitVec 32) : FmtQ :=
  { st := w.extractLsb' 23 2, pr := w.extractLsb' 20 3, d := w.extractLsb' 12 6, a := w.extractLsb' 6 6, c := w.extractLsb' 4 2 }
/-- The fields of FmtQ at their places in a word. -/
def encodeFmtQ (f : FmtQ) : BitVec 32 :=
  (f.st.setWidth 32 <<< 23) ||| (f.pr.setWidth 32 <<< 20) ||| (f.d.setWidth 32 <<< 12) ||| (f.a.setWidth 32 <<< 6) ||| (f.c.setWidth 32 <<< 4)

/-- The fields of FmtB read from a word. -/
def decodeFmtB (w : BitVec 32) : FmtB :=
  { st := w.extractLsb' 23 2, pr := w.extractLsb' 20 3, off := w.extractLsb' 0 20 }
/-- The fields of FmtB at their places in a word. -/
def encodeFmtB (f : FmtB) : BitVec 32 :=
  (f.st.setWidth 32 <<< 23) ||| (f.pr.setWidth 32 <<< 20) ||| f.off.setWidth 32

/-- The fields of FmtBn read from a word. -/
def decodeFmtBn (w : BitVec 32) : FmtBn :=
  { st := w.extractLsb' 23 2, off := w.extractLsb' 0 20 }
/-- The fields of FmtBn at their places in a word. -/
def encodeFmtBn (f : FmtBn) : BitVec 32 :=
  (f.st.setWidth 32 <<< 23) ||| f.off.setWidth 32

/-- The fields of FmtT read from a word. -/
def decodeFmtT (w : BitVec 32) : FmtT :=
  { st := w.extractLsb' 23 2, pr := w.extractLsb' 20 3, t := w.extractLsb' 15 5, i := w.extractLsb' 10 4, m := w.extractLsb' 6 4, v := w.extractLsb' 0 6 }
/-- The fields of FmtT at their places in a word. -/
def encodeFmtT (f : FmtT) : BitVec 32 :=
  (f.st.setWidth 32 <<< 23) ||| (f.pr.setWidth 32 <<< 20) ||| (f.t.setWidth 32 <<< 15) ||| (f.i.setWidth 32 <<< 10) ||| (f.m.setWidth 32 <<< 6) ||| f.v.setWidth 32

/-- The fields of FmtTm read from a word. -/
def decodeFmtTm (w : BitVec 32) : FmtTm :=
  { st := w.extractLsb' 23 2, pr := w.extractLsb' 20 3, nobp := w.extractLsb' 0 1 }
/-- The fields of FmtTm at their places in a word. -/
def encodeFmtTm (f : FmtTm) : BitVec 32 :=
  (f.st.setWidth 32 <<< 23) ||| (f.pr.setWidth 32 <<< 20) ||| f.nobp.setWidth 32

/-- The fields of FmtVb read from a word. -/
def decodeFmtVb (w : BitVec 32) : FmtVb :=
  { st := w.extractLsb' 23 2, pr := w.extractLsb' 20 3, m := w.extractLsb' 6 3 }
/-- The fields of FmtVb at their places in a word. -/
def encodeFmtVb (f : FmtVb) : BitVec 32 :=
  (f.st.setWidth 32 <<< 23) ||| (f.pr.setWidth 32 <<< 20) ||| (f.m.setWidth 32 <<< 6)

/-- The fields of FmtS read from a word. -/
def decodeFmtS (w : BitVec 32) : FmtS :=
  { st := w.extractLsb' 23 2, pr := w.extractLsb' 20 3, n := w.extractLsb' 0 8 }
/-- The fields of FmtS at their places in a word. -/
def encodeFmtS (f : FmtS) : BitVec 32 :=
  (f.st.setWidth 32 <<< 23) ||| (f.pr.setWidth 32 <<< 20) ||| f.n.setWidth 32

/-- The fields of FmtImm read from a word. -/
def decodeFmtImm (w : BitVec 32) : FmtImm :=
  { v := w.extractLsb' 0 25 }
/-- The fields of FmtImm at their places in a word. -/
def encodeFmtImm (f : FmtImm) : BitVec 32 :=
  f.v.setWidth 32

/-- The fields of FmtRep read from a word. -/
def decodeFmtRep (w : BitVec 32) : FmtRep :=
  { g := w.extractLsb' 19 6, c := w.extractLsb' 7 12, e := w.extractLsb' 5 2 }
/-- The fields of FmtRep at their places in a word. -/
def encodeFmtRep (f : FmtRep) : BitVec 32 :=
  (f.g.setWidth 32 <<< 19) ||| (f.c.setWidth 32 <<< 7) ||| (f.e.setWidth 32 <<< 5)

/-- The fields of FmtMod read from a word. -/
def decodeFmtMod (w : BitVec 32) : FmtMod :=
  { r := w.extractLsb' 19 3, t := w.extractLsb' 18 1, n := w.extractLsb' 17 1, p := w.extractLsb' 15 2, v := w.extractLsb' 14 1, g := w.extractLsb' 8 6 }
/-- The fields of FmtMod at their places in a word. -/
def encodeFmtMod (f : FmtMod) : BitVec 32 :=
  (f.r.setWidth 32 <<< 19) ||| (f.t.setWidth 32 <<< 18) ||| (f.n.setWidth 32 <<< 17) ||| (f.p.setWidth 32 <<< 15) ||| (f.v.setWidth 32 <<< 14) ||| (f.g.setWidth 32 <<< 8)

/-- The fields of FmtSched read from a word. -/
def decodeFmtSched (w : BitVec 32) : FmtSched :=
  { y := w.extractLsb' 21 1, k := w.extractLsb' 20 1, q := w.extractLsb' 19 1, i := w.extractLsb' 17 2 }
/-- The fields of FmtSched at their places in a word. -/
def encodeFmtSched (f : FmtSched) : BitVec 32 :=
  (f.y.setWidth 32 <<< 21) ||| (f.k.setWidth 32 <<< 20) ||| (f.q.setWidth 32 <<< 19) ||| (f.i.setWidth 32 <<< 17)

/-- One encoded row of the opcode table: the bits it fixes, and how its fields are read. `sidx` marks the slice writes, whose
sidx4 0 is `setvb` or nothing (R283, R284). -/
structure DecodeRow where
  mask : W32
  bits : W32
  read : W32 → Instr
  sidx : Bool := false

/-- Does a word belong to the row? -/
def DecodeRow.hits (r : DecodeRow) (w : W32) : Bool :=
  (w &&& r.mask == r.bits) && (!r.sidx || w.extractLsb' 10 4 != 0)

/-- Rows of the opcode table. -/
noncomputable def rows0 : List DecodeRow := [
  { mask := 0xFE000000, bits := 0x00000000, read := fun w => .add (decodeFmtR w) },
  { mask := 0xFE000000, bits := 0x02000000, read := fun w => .sub (decodeFmtR w) },
  { mask := 0xFE000000, bits := 0x04000000, read := fun w => .mul (decodeFmtR w) },
  { mask := 0xFE000000, bits := 0x06000000, read := fun w => .mulhI (decodeFmtR w) },
  { mask := 0xFE000000, bits := 0x08000000, read := fun w => .mulhN (decodeFmtR w) },
  { mask := 0xFE000000, bits := 0x0A000000, read := fun w => .mad (decodeFmtR w) },
  { mask := 0xFE000000, bits := 0x0C000000, read := fun w => .sad (decodeFmtR w) },
  { mask := 0xFE000000, bits := 0x0E000000, read := fun w => .minI (decodeFmtR w) },
  { mask := 0xFE000000, bits := 0x10000000, read := fun w => .minN (decodeFmtR w) },
  { mask := 0xFE000000, bits := 0x12000000, read := fun w => .maxI (decodeFmtR w) },
  { mask := 0xFE000000, bits := 0x14000000, read := fun w => .maxN (decodeFmtR w) },
  { mask := 0xFE0C0000, bits := 0x160C0000, read := fun w => .and (decodeFmtW w) },
  { mask := 0xFE0C0000, bits := 0x180C0000, read := fun w => .or (decodeFmtW w) },
  { mask := 0xFE0C0000, bits := 0x1A0C0000, read := fun w => .xor (decodeFmtW w) },
  { mask := 0xFE000000, bits := 0x1C000000, read := fun w => .shl (decodeFmtR w) },
  { mask := 0xFE000000, bits := 0x1E000000, read := fun w => .shrN (decodeFmtR w) },
  { mask := 0xFE000000, bits := 0x20000000, read := fun w => .shrI (decodeFmtR w) },
  { mask := 0xFE000000, bits := 0x22000000, read := fun w => .rotl (decodeFmtR w) },
  { mask := 0xFE080000, bits := 0x24080000, read := fun w => .bfx (decodeFmtZ1 w) },
  { mask := 0xFE080000, bits := 0x26080000, read := fun w => .bfi (decodeFmtZ1 w) },
  { mask := 0xFE000000, bits := 0x28000000, read := fun w => .setp (decodeFmtCmp w) },
  { mask := 0xFE0C0000, bits := 0x2A0C0000, read := fun w => .sel (decodeFmtW w) },
  { mask := 0xFE000000, bits := 0x2C000000, read := fun w => .lea (decodeFmtR w) },
  { mask := 0xFE0C003F, bits := 0x2E0C0000, read := fun w => .mov (decodeFmtDA w) },
  { mask := 0xFE0C003F, bits := 0x2E0C0001, read := fun w => .not (decodeFmtDA w) }]

/-- Rows of the opcode table. -/
noncomputable def rows1 : List DecodeRow := [
  { mask := 0xFE00003F, bits := 0x2E000002, read := fun w => .neg (decodeFmtZDA w) },
  { mask := 0xFE00003F, bits := 0x2E000003, read := fun w => .abs (decodeFmtZDA w) },
  { mask := 0xFE00003F, bits := 0x2E000004, read := fun w => .popc (decodeFmtZDA w) },
  { mask := 0xFE00003F, bits := 0x2E000005, read := fun w => .clz (decodeFmtZDA w) },
  { mask := 0xFE00003F, bits := 0x2E000006, read := fun w => .ctz (decodeFmtZDA w) },
  { mask := 0xFE00003F, bits := 0x2E000007, read := fun w => .brev (decodeFmtZDA w) },
  { mask := 0xFE00003F, bits := 0x2E000008, read := fun w => .packlI (decodeFmtZDA w) },
  { mask := 0xFE00003F, bits := 0x2E000009, read := fun w => .packhI (decodeFmtZDA w) },
  { mask := 0xFE00003F, bits := 0x2E00000A, read := fun w => .packlN (decodeFmtZDA w) },
  { mask := 0xFE00003F, bits := 0x2E00000B, read := fun w => .packhN (decodeFmtZDA w) },
  { mask := 0xFE00003F, bits := 0x2E00000C, read := fun w => .unpklI (decodeFmtZDA w) },
  { mask := 0xFE00003F, bits := 0x2E00000D, read := fun w => .unpkhI (decodeFmtZDA w) },
  { mask := 0xFE00003F, bits := 0x2E00000E, read := fun w => .unpklN (decodeFmtZDA w) },
  { mask := 0xFE00003F, bits := 0x2E00000F, read := fun w => .unpkhN (decodeFmtZDA w) },
  { mask := 0xFE0C003F, bits := 0x2E0C0010, read := fun w => .bcast (decodeFmtDA w) },
  { mask := 0xFE0C003F, bits := 0x2E0C0011, read := fun w => .pmask (decodeFmtDA w) },
  { mask := 0xFE0C0FFF, bits := 0x2E0C0012, read := fun w => .rdtid (decodeFmtD w) },
  { mask := 0xFE0C003F, bits := 0x2E000013, read := fun w => .pnot (decodeFmtDA w) },
  { mask := 0xFE00003F, bits := 0x70000000, read := fun w => .addU (decodeFmtZDA w) },
  { mask := 0xFE00003F, bits := 0x70000001, read := fun w => .subU (decodeFmtZDA w) },
  { mask := 0xFE00003F, bits := 0x70000002, read := fun w => .mulU (decodeFmtZDA w) },
  { mask := 0xFE00003F, bits := 0x70000003, read := fun w => .mulhIU (decodeFmtZDA w) },
  { mask := 0xFE00003F, bits := 0x70000004, read := fun w => .mulhNU (decodeFmtZDA w) },
  { mask := 0xFE00003F, bits := 0x70000005, read := fun w => .madU (decodeFmtZDA w) },
  { mask := 0xFE00003F, bits := 0x70000006, read := fun w => .sadU (decodeFmtZDA w) }]

/-- Rows of the opcode table. -/
noncomputable def rows2 : List DecodeRow := [
  { mask := 0xFE00003F, bits := 0x70000007, read := fun w => .minIU (decodeFmtZDA w) },
  { mask := 0xFE00003F, bits := 0x70000008, read := fun w => .minNU (decodeFmtZDA w) },
  { mask := 0xFE00003F, bits := 0x70000009, read := fun w => .maxIU (decodeFmtZDA w) },
  { mask := 0xFE00003F, bits := 0x7000000A, read := fun w => .maxNU (decodeFmtZDA w) },
  { mask := 0xFE0C003F, bits := 0x700C000B, read := fun w => .andU (decodeFmtDA w) },
  { mask := 0xFE0C003F, bits := 0x700C000C, read := fun w => .orU (decodeFmtDA w) },
  { mask := 0xFE0C003F, bits := 0x700C000D, read := fun w => .xorU (decodeFmtDA w) },
  { mask := 0xFE00003F, bits := 0x7000000E, read := fun w => .shlU (decodeFmtZDA w) },
  { mask := 0xFE00003F, bits := 0x7000000F, read := fun w => .shrNU (decodeFmtZDA w) },
  { mask := 0xFE00003F, bits := 0x70000010, read := fun w => .shrIU (decodeFmtZDA w) },
  { mask := 0xFE00003F, bits := 0x70000011, read := fun w => .rotlU (decodeFmtZDA w) },
  { mask := 0xFE08003F, bits := 0x70080012, read := fun w => .bfxU (decodeFmtZ1DA w) },
  { mask := 0xFE00003F, bits := 0x70000016, read := fun w => .leaU (decodeFmtZDA w) },
  { mask := 0xFE000000, bits := 0x72000000, read := fun w => .addImm (decodeFmtI w) },
  { mask := 0xFE000000, bits := 0x74000000, read := fun w => .shlImm (decodeFmtI w) },
  { mask := 0xFE000000, bits := 0x76000000, read := fun w => .shrNImm (decodeFmtI w) },
  { mask := 0xFE000000, bits := 0x78000000, read := fun w => .shrIImm (decodeFmtI w) },
  { mask := 0xFE000000, bits := 0x7A000000, read := fun w => .andImm (decodeFmtI w) },
  { mask := 0xFE000000, bits := 0x7C000000, read := fun w => .orImm (decodeFmtI w) },
  { mask := 0xFE000000, bits := 0x7E000000, read := fun w => .xorImm (decodeFmtI w) },
  { mask := 0xFE000000, bits := 0x80000000, read := fun w => .mulImm (decodeFmtI w) },
  { mask := 0xFE0C003F, bits := 0x820C0000, read := fun w => .movU (decodeFmtDA w) },
  { mask := 0xFE0C003F, bits := 0x820C0001, read := fun w => .notU (decodeFmtDA w) },
  { mask := 0xFE00003F, bits := 0x82000002, read := fun w => .negU (decodeFmtZDA w) },
  { mask := 0xFE00003F, bits := 0x82000003, read := fun w => .absU (decodeFmtZDA w) }]

/-- Rows of the opcode table. -/
noncomputable def rows3 : List DecodeRow := [
  { mask := 0xFE00003F, bits := 0x82000004, read := fun w => .popcU (decodeFmtZDA w) },
  { mask := 0xFE00003F, bits := 0x82000005, read := fun w => .clzU (decodeFmtZDA w) },
  { mask := 0xFE00003F, bits := 0x82000006, read := fun w => .ctzU (decodeFmtZDA w) },
  { mask := 0xFE00003F, bits := 0x82000007, read := fun w => .brevU (decodeFmtZDA w) },
  { mask := 0xFE00003F, bits := 0x82000008, read := fun w => .packlIU (decodeFmtZDA w) },
  { mask := 0xFE00003F, bits := 0x82000009, read := fun w => .packhIU (decodeFmtZDA w) },
  { mask := 0xFE00003F, bits := 0x8200000A, read := fun w => .packlNU (decodeFmtZDA w) },
  { mask := 0xFE00003F, bits := 0x8200000B, read := fun w => .packhNU (decodeFmtZDA w) },
  { mask := 0xFE00003F, bits := 0x8200000C, read := fun w => .unpklIU (decodeFmtZDA w) },
  { mask := 0xFE00003F, bits := 0x8200000D, read := fun w => .unpkhIU (decodeFmtZDA w) },
  { mask := 0xFE00003F, bits := 0x8200000E, read := fun w => .unpklNU (decodeFmtZDA w) },
  { mask := 0xFE00003F, bits := 0x8200000F, read := fun w => .unpkhNU (decodeFmtZDA w) },
  { mask := 0xFE0C003F, bits := 0x82000014, read := fun w => .cnot (decodeFmtDA w) },
  { mask := 0xFE004000, bits := 0x84000000, read := fun w => .csetp (decodeFmtCs w) },
  { mask := 0xFE010000, bits := 0x86000000, read := fun w => .csetpImm (decodeFmtCsI w) },
  { mask := 0xFE000000, bits := 0x88000000, read := fun w => .madUniform (decodeFmtR w) },
  { mask := 0xFE003F00, bits := 0x8A000000, read := fun w => .rdid (decodeFmtDI w) },
  { mask := 0xFE080000, bits := 0x8C080000, read := fun w => .bfiU (decodeFmtZ1 w) },
  { mask := 0xFE0C0000, bits := 0x8E0C0000, read := fun w => .selU (decodeFmtW w) },
  { mask := 0xFE000000, bits := 0x30000000, read := fun w => .fadd (decodeFmtR w) },
  { mask := 0xFE000000, bits := 0x32000000, read := fun w => .fsub (decodeFmtR w) },
  { mask := 0xFE000000, bits := 0x34000000, read := fun w => .fmul (decodeFmtR w) },
  { mask := 0xFE000000, bits := 0x36000000, read := fun w => .fma (decodeFmtR w) },
  { mask := 0xFE000000, bits := 0x38000000, read := fun w => .fmin (decodeFmtR w) },
  { mask := 0xFE000000, bits := 0x3A000000, read := fun w => .fmax (decodeFmtR w) }]

/-- Rows of the opcode table. -/
noncomputable def rows4 : List DecodeRow := [
  { mask := 0xFE000000, bits := 0x3C000000, read := fun w => .fsetp (decodeFmtCmp w) },
  { mask := 0xFE00003F, bits := 0x3E000000, read := fun w => .fneg (decodeFmtZDA w) },
  { mask := 0xFE00003F, bits := 0x3E000001, read := fun w => .fabs (decodeFmtZDA w) },
  { mask := 0xFE00003F, bits := 0x3E000002, read := fun w => .fclass (decodeFmtZDA w) },
  { mask := 0xFE0C0000, bits := 0x40040000, read := fun w => .faddBf16 (decodeFmtW w) },
  { mask := 0xFE0C0000, bits := 0x42040000, read := fun w => .fsubBf16 (decodeFmtW w) },
  { mask := 0xFE0C0000, bits := 0x44040000, read := fun w => .fmulBf16 (decodeFmtW w) },
  { mask := 0xFE0C0000, bits := 0x46040000, read := fun w => .fmaBf16 (decodeFmtW w) },
  { mask := 0xFE0C0000, bits := 0x48040000, read := fun w => .fminBf16 (decodeFmtW w) },
  { mask := 0xFE0C0000, bits := 0x4A040000, read := fun w => .fmaxBf16 (decodeFmtW w) },
  { mask := 0xFE0C0000, bits := 0x4C040000, read := fun w => .fsetpBf16 (decodeFmtCmpB w) },
  { mask := 0xFE0C003F, bits := 0x4E040000, read := fun w => .fnegBf16 (decodeFmtDA w) },
  { mask := 0xFE0C003F, bits := 0x4E040001, read := fun w => .fabsBf16 (decodeFmtDA w) },
  { mask := 0xFE0C003F, bits := 0x4E040002, read := fun w => .fclassBf16 (decodeFmtDA w) },
  { mask := 0xFE0C003F, bits := 0x50080000, read := fun w => .rcp (decodeFmtDA w) },
  { mask := 0xFE0C003F, bits := 0x50080001, read := fun w => .rsq (decodeFmtDA w) },
  { mask := 0xFE0C003F, bits := 0x50080002, read := fun w => .sqrt (decodeFmtDA w) },
  { mask := 0xFE0C003F, bits := 0x50080003, read := fun w => .ex2 (decodeFmtDA w) },
  { mask := 0xFE0C003F, bits := 0x50080004, read := fun w => .lg2 (decodeFmtDA w) },
  { mask := 0xFE0C003F, bits := 0x50080005, read := fun w => .sinpi (decodeFmtDA w) },
  { mask := 0xFE0C003F, bits := 0x50080006, read := fun w => .cospi (decodeFmtDA w) },
  { mask := 0xFE0C003F, bits := 0x50080007, read := fun w => .tanh (decodeFmtDA w) },
  { mask := 0xFE000000, bits := 0x52000000, read := fun w => .cvtFloat (decodeFmtCvtF w) },
  { mask := 0xFE000004, bits := 0x54000000, read := fun w => .cvtInt (decodeFmtCvtI w) },
  { mask := 0xFE0C0000, bits := 0x56080000, read := fun w => .cvtXF32 (decodeFmtW w) }]

/-- Rows of the opcode table. -/
noncomputable def rows5 : List DecodeRow := [
  { mask := 0xFE0C0000, bits := 0x58080000, read := fun w => .cvtF32X (decodeFmtW w) },
  { mask := 0xFE0C0000, bits := 0x5A080000, read := fun w => .qblk (decodeFmtW w) },
  { mask := 0xFE0C0000, bits := 0x5C080000, read := fun w => .dqblk (decodeFmtW w) },
  { mask := 0xFE0C0000, bits := 0x5E000000, read := fun w => .swz (decodeFmtW w) },
  { mask := 0xFE000000, bits := 0x60000000, read := fun w => .lxch (decodeFmtR w) },
  { mask := 0xFE000000, bits := 0x62000000, read := fun w => .lbcast (decodeFmtR w) },
  { mask := 0xFE00003F, bits := 0x64000000, read := fun w => .lredAdd (decodeFmtZDA w) },
  { mask := 0xFE00003F, bits := 0x64000001, read := fun w => .lredMinI (decodeFmtZDA w) },
  { mask := 0xFE00003F, bits := 0x64000002, read := fun w => .lredMinN (decodeFmtZDA w) },
  { mask := 0xFE00003F, bits := 0x64000003, read := fun w => .lredMaxI (decodeFmtZDA w) },
  { mask := 0xFE00003F, bits := 0x64000004, read := fun w => .lredMaxN (decodeFmtZDA w) },
  { mask := 0xFE00003F, bits := 0x64000005, read := fun w => .lredAnd (decodeFmtZDA w) },
  { mask := 0xFE00003F, bits := 0x64000006, read := fun w => .lredOr (decodeFmtZDA w) },
  { mask := 0xFE00003F, bits := 0x64000007, read := fun w => .lredXor (decodeFmtZDA w) },
  { mask := 0xFE00003F, bits := 0x64000008, read := fun w => .lredMinIdxI (decodeFmtZDA w) },
  { mask := 0xFE00003F, bits := 0x64000009, read := fun w => .lredMinIdxN (decodeFmtZDA w) },
  { mask := 0xFE00003F, bits := 0x6400000A, read := fun w => .lredMaxIdxI (decodeFmtZDA w) },
  { mask := 0xFE00003F, bits := 0x6400000B, read := fun w => .lredMaxIdxN (decodeFmtZDA w) },
  { mask := 0xFE00003F, bits := 0x64000010, read := fun w => .lredFadd (decodeFmtZDA w) },
  { mask := 0xFE00003F, bits := 0x64000011, read := fun w => .lredFmin (decodeFmtZDA w) },
  { mask := 0xFE00003F, bits := 0x64000012, read := fun w => .lredFmax (decodeFmtZDA w) },
  { mask := 0xFE00003F, bits := 0x64000013, read := fun w => .lredFminIdx (decodeFmtZDA w) },
  { mask := 0xFE00003F, bits := 0x64000014, read := fun w => .lredFmaxIdx (decodeFmtZDA w) },
  { mask := 0xFE0C003F, bits := 0x64040018, read := fun w => .lredFaddBf16 (decodeFmtDA w) },
  { mask := 0xFE0C003F, bits := 0x64040019, read := fun w => .lredFminBf16 (decodeFmtDA w) }]

/-- Rows of the opcode table. -/
noncomputable def rows6 : List DecodeRow := [
  { mask := 0xFE0C003F, bits := 0x6404001A, read := fun w => .lredFmaxBf16 (decodeFmtDA w) },
  { mask := 0xFE0C003F, bits := 0x6404001B, read := fun w => .lredFminIdxBf16 (decodeFmtDA w) },
  { mask := 0xFE0C003F, bits := 0x6404001C, read := fun w => .lredFmaxIdxBf16 (decodeFmtDA w) },
  { mask := 0xFE00001F, bits := 0x66000000, read := fun w => .lscanAdd (decodeFmtScan w) },
  { mask := 0xFE00001F, bits := 0x66000001, read := fun w => .lscanMinI (decodeFmtScan w) },
  { mask := 0xFE00001F, bits := 0x66000002, read := fun w => .lscanMinN (decodeFmtScan w) },
  { mask := 0xFE00001F, bits := 0x66000003, read := fun w => .lscanMaxI (decodeFmtScan w) },
  { mask := 0xFE00001F, bits := 0x66000004, read := fun w => .lscanMaxN (decodeFmtScan w) },
  { mask := 0xFE00001F, bits := 0x66000005, read := fun w => .lscanAnd (decodeFmtScan w) },
  { mask := 0xFE00001F, bits := 0x66000006, read := fun w => .lscanOr (decodeFmtScan w) },
  { mask := 0xFE00001F, bits := 0x66000007, read := fun w => .lscanXor (decodeFmtScan w) },
  { mask := 0xFE00001F, bits := 0x66000010, read := fun w => .lscanFadd (decodeFmtScan w) },
  { mask := 0xFE00001F, bits := 0x66000011, read := fun w => .lscanFmin (decodeFmtScan w) },
  { mask := 0xFE00001F, bits := 0x66000012, read := fun w => .lscanFmax (decodeFmtScan w) },
  { mask := 0xFE0C001F, bits := 0x66040018, read := fun w => .lscanFaddBf16 (decodeFmtScanB w) },
  { mask := 0xFE0C001F, bits := 0x66040019, read := fun w => .lscanFminBf16 (decodeFmtScanB w) },
  { mask := 0xFE0C001F, bits := 0x6604001A, read := fun w => .lscanFmaxBf16 (decodeFmtScanB w) },
  { mask := 0xFE0C003F, bits := 0x680C0000, read := fun w => .lballot (decodeFmtDA w) },
  { mask := 0xFE00003F, bits := 0x6A000000, read := fun w => .lmatch (decodeFmtZDA w) },
  { mask := 0xFE00003F, bits := 0x6A000001, read := fun w => .lmatchF (decodeFmtZDA w) },
  { mask := 0xFE0C003F, bits := 0x6A040002, read := fun w => .lmatchBf16 (decodeFmtDA w) },
  { mask := 0xFE0C003F, bits := 0x6C0C0000, read := fun w => .lcount (decodeFmtDA w) },
  { mask := 0xFE000000, bits := 0x90000000, read := fun w => .ld (decodeFmtR w) },
  { mask := 0xFE000000, bits := 0x92000000, read := fun w => .ldOffset (decodeFmtR w) },
  { mask := 0xFE000000, bits := 0x94000000, read := fun w => .st (decodeFmtR w) }]

/-- Rows of the opcode table. -/
noncomputable def rows7 : List DecodeRow := [
  { mask := 0xFE000000, bits := 0x96000000, read := fun w => .stOffset (decodeFmtR w) },
  { mask := 0xFE000000, bits := 0x98000000, read := fun w => .ldu (decodeFmtR w) },
  { mask := 0xFE000000, bits := 0x9A000000, read := fun w => .stu (decodeFmtR w) },
  { mask := 0xFE000000, bits := 0x9C000000, read := fun w => .ldl (decodeFmtR w) },
  { mask := 0xFE000000, bits := 0x9E000000, read := fun w => .ldlOffset (decodeFmtR w) },
  { mask := 0xFE000000, bits := 0xA0000000, read := fun w => .stl (decodeFmtR w) },
  { mask := 0xFE000000, bits := 0xA2000000, read := fun w => .stlOffset (decodeFmtR w) },
  { mask := 0xFE000000, bits := 0xA4000000, read := fun w => .ldc (decodeFmtR w) },
  { mask := 0xFE000000, bits := 0xA6000000, read := fun w => .ldcU (decodeFmtR w) },
  { mask := 0xFE08003F, bits := 0xA8080000, read := fun w => .amoAdd (decodeFmtZ1DA w) },
  { mask := 0xFE08003F, bits := 0xA8080001, read := fun w => .amoMinI (decodeFmtZ1DA w) },
  { mask := 0xFE08003F, bits := 0xA8080002, read := fun w => .amoMinN (decodeFmtZ1DA w) },
  { mask := 0xFE08003F, bits := 0xA8080003, read := fun w => .amoMaxI (decodeFmtZ1DA w) },
  { mask := 0xFE08003F, bits := 0xA8080004, read := fun w => .amoMaxN (decodeFmtZ1DA w) },
  { mask := 0xFE08003F, bits := 0xA8080005, read := fun w => .amoAnd (decodeFmtZ1DA w) },
  { mask := 0xFE08003F, bits := 0xA8080006, read := fun w => .amoOr (decodeFmtZ1DA w) },
  { mask := 0xFE08003F, bits := 0xA8080007, read := fun w => .amoXor (decodeFmtZ1DA w) },
  { mask := 0xFE08003F, bits := 0xA8080008, read := fun w => .amoExch (decodeFmtZ1DA w) },
  { mask := 0xFE08003F, bits := 0xA8080009, read := fun w => .amoCas (decodeFmtZ1DA w) },
  { mask := 0xFE08003F, bits := 0xAA080000, read := fun w => .amouAdd (decodeFmtZ1DA w) },
  { mask := 0xFE08003F, bits := 0xAA080001, read := fun w => .amouMinI (decodeFmtZ1DA w) },
  { mask := 0xFE08003F, bits := 0xAA080002, read := fun w => .amouMinN (decodeFmtZ1DA w) },
  { mask := 0xFE08003F, bits := 0xAA080003, read := fun w => .amouMaxI (decodeFmtZ1DA w) },
  { mask := 0xFE08003F, bits := 0xAA080004, read := fun w => .amouMaxN (decodeFmtZ1DA w) },
  { mask := 0xFE08003F, bits := 0xAA080005, read := fun w => .amouAnd (decodeFmtZ1DA w) }]

/-- Rows of the opcode table. -/
noncomputable def rows8 : List DecodeRow := [
  { mask := 0xFE08003F, bits := 0xAA080006, read := fun w => .amouOr (decodeFmtZ1DA w) },
  { mask := 0xFE08003F, bits := 0xAA080007, read := fun w => .amouXor (decodeFmtZ1DA w) },
  { mask := 0xFE08003F, bits := 0xAA080008, read := fun w => .amouExch (decodeFmtZ1DA w) },
  { mask := 0xFE08003F, bits := 0xAA080009, read := fun w => .amouCas (decodeFmtZ1DA w) },
  { mask := 0xFE080000, bits := 0xAC080000, read := fun w => .aappend (decodeFmtZ1 w) },
  { mask := 0xFE000000, bits := 0xB8000000, read := fun w => .cpyG2l (decodeFmtR w) },
  { mask := 0xFE000000, bits := 0xBA000000, read := fun w => .cpyL2g (decodeFmtR w) },
  { mask := 0xFE000000, bits := 0xBC000000, read := fun w => .cpyL2l (decodeFmtR w) },
  { mask := 0xFE000000, bits := 0xBE000000, read := fun w => .cpyG2g (decodeFmtR w) },
  { mask := 0xFE0C003F, bits := 0xC00C0000, read := fun w => .ringInit (decodeFmtDA w) },
  { mask := 0xFE0C003F, bits := 0xC00C0001, read := fun w => .ringAcq (decodeFmtDA w) },
  { mask := 0xFE0C003F, bits := 0xC00C0002, read := fun w => .ringPub (decodeFmtDA w) },
  { mask := 0xFE0C003F, bits := 0xC00C0003, read := fun w => .ringTake (decodeFmtDA w) },
  { mask := 0xFE0C003F, bits := 0xC00C0004, read := fun w => .ringRel (decodeFmtDA w) },
  { mask := 0xFE0C003F, bits := 0xC20C0000, read := fun w => .barInit (decodeFmtDA w) },
  { mask := 0xFE0C003F, bits := 0xC20C0001, read := fun w => .barArv (decodeFmtDA w) },
  { mask := 0xFE0C003F, bits := 0xC20C0002, read := fun w => .barWait (decodeFmtDA w) },
  { mask := 0xFE0C003F, bits := 0xC20C0003, read := fun w => .barArw (decodeFmtDA w) },
  { mask := 0xFE0FF03F, bits := 0xC20C0004, read := fun w => .barInval (decodeFmtA w) },
  { mask := 0xFE0C0FFF, bits := 0xC40C0000, read := fun w => .bbar (decodeFmtD w) },
  { mask := 0xFE0C0FFF, bits := 0xC40C0001, read := fun w => .dbar (decodeFmtD w) },
  { mask := 0xFE0C0F3F, bits := 0xC40C0002, read := fun w => .cbar (decodeFmtCb w) },
  { mask := 0xFE0FFFFF, bits := 0xC6000000, read := fun w => .fenceIo (decodeFmtN w) },
  { mask := 0xFE0C003F, bits := 0xC80C0000, read := fun w => .bdecl (decodeFmtDA w) },
  { mask := 0xFE0C003F, bits := 0xC80C0001, read := fun w => .bentr (decodeFmtDA w) }]

/-- Rows of the opcode table. -/
noncomputable def rows9 : List DecodeRow := [
  { mask := 0xFE0FF03F, bits := 0xC80C0002, read := fun w => .bleav (decodeFmtA w) },
  { mask := 0xFE0C003F, bits := 0xC80C0003, read := fun w => .bstat (decodeFmtDA w) },
  { mask := 0xFE0C000F, bits := 0xCA0C0000, read := fun w => .qpop (decodeFmtQ w) },
  { mask := 0xFE0C000F, bits := 0xCA0C0001, read := fun w => .qpopTry (decodeFmtQ w) },
  { mask := 0xFE0C003F, bits := 0xCA0C0002, read := fun w => .qpush (decodeFmtDA w) },
  { mask := 0xFE0C003F, bits := 0xCC0C0000, read := fun w => .sgbind (decodeFmtDA w) },
  { mask := 0xFE0C003F, bits := 0xCC0C0001, read := fun w => .sgstat (decodeFmtDA w) },
  { mask := 0xFE0C0FFF, bits := 0xCE0C0000, read := fun w => .rdclk (decodeFmtD w) },
  { mask := 0xFE0C0FFF, bits := 0xCE0C0001, read := fun w => .rdptp (decodeFmtD w) },
  { mask := 0xFE0C0FFF, bits := 0xCE0C0002, read := fun w => .rdenergy (decodeFmtD w) },
  { mask := 0xFE000000, bits := 0xD0000000, read := fun w => .bra (decodeFmtB w) },
  { mask := 0xFE000000, bits := 0xD2000000, read := fun w => .brd (decodeFmtB w) },
  { mask := 0xFE700000, bits := 0xD4700000, read := fun w => .join (decodeFmtBn w) },
  { mask := 0xFE0FF03F, bits := 0xD60C0000, read := fun w => .brx (decodeFmtA w) },
  { mask := 0xFE0FF03F, bits := 0xD60C0001, read := fun w => .brxU (decodeFmtA w) },
  { mask := 0xFE0FF03F, bits := 0xD60C0002, read := fun w => .ret (decodeFmtA w) },
  { mask := 0xFE700000, bits := 0xD8700000, read := fun w => .land (decodeFmtBn w) },
  { mask := 0xFE000000, bits := 0xDA000000, read := fun w => .call (decodeFmtB w) },
  { mask := 0xFE003F00, bits := 0xDC000000, read := fun w => .loop (decodeFmtDI w) },
  { mask := 0xFE0FFFFF, bits := 0xDE000000, read := fun w => .exit (decodeFmtN w) },
  { mask := 0xFE0C0000, bits := 0xE0080000, read := fun w => .mma (decodeFmtW w) },
  { mask := 0xFE0C003F, bits := 0xE00C0000, read := fun w => .mzero (decodeFmtDA w) },
  { mask := 0xFE0C0000, bits := 0xE2080000, read := fun w => .mmag (decodeFmtW w) },
  { mask := 0xFE0C0000, bits := 0xE4000000, read := fun w => .mstS (decodeFmtW w) },
  { mask := 0xFE0C0000, bits := 0xE4040000, read := fun w => .mstSAddF32 (decodeFmtW w) }]

/-- Rows of the opcode table. -/
noncomputable def rows10 : List DecodeRow := [
  { mask := 0xFE0C0000, bits := 0xE4080000, read := fun w => .mstSAddI32 (decodeFmtW w) },
  { mask := 0xFE0C0000, bits := 0xE6080000, read := fun w => .mmaCv (decodeFmtW w) },
  { mask := 0xFE004000, bits := 0xE8000000, read := fun w => .mrowRead (decodeFmtT w) },
  { mask := 0xFE004000, bits := 0xE8004000, read := fun w => .mcolRead (decodeFmtT w) },
  { mask := 0xFE004000, bits := 0xEA000000, read := fun w => .mrowWrite (decodeFmtT w), sidx := true },
  { mask := 0xFE004000, bits := 0xEA004000, read := fun w => .mcolWrite (decodeFmtT w), sidx := true },
  { mask := 0xFE0FFE3F, bits := 0xEA000000, read := fun w => .setvb (decodeFmtVb w) },
  { mask := 0xFE0FFF00, bits := 0xEC000000, read := fun w => .svc (decodeFmtS w) },
  { mask := 0xFE0FFFFF, bits := 0xEE000000, read := fun w => .eret (decodeFmtN w) },
  { mask := 0xFE0FFFFF, bits := 0xEE000001, read := fun w => .eretNobp (decodeFmtN w) },
  { mask := 0xFE0FFFFE, bits := 0xEE000002, read := fun w => .eretTerm (decodeFmtTm w) },
  { mask := 0xFE003F00, bits := 0xF0000000, read := fun w => .mfsr (decodeFmtDI w) },
  { mask := 0xFE0FC000, bits := 0xF2000000, read := fun w => .mtsr (decodeFmtAI w) },
  { mask := 0xFE0C003F, bits := 0xF40C0000, read := fun w => .tlbiPage (decodeFmtDA w) },
  { mask := 0xFE0C003F, bits := 0xF40C0001, read := fun w => .scrub (decodeFmtDA w) },
  { mask := 0xFE0C003F, bits := 0xF40C0002, read := fun w => .ovld (decodeFmtDA w) },
  { mask := 0xFE0C003F, bits := 0xF40C0003, read := fun w => .cacheopDropLine (decodeFmtDA w) },
  { mask := 0xFE0C0000, bits := 0xF60C0000, read := fun w => .wfe (decodeFmtW w) },
  { mask := 0xFE0FFFFF, bits := 0xF6000000, read := fun w => .halt (decodeFmtN w) },
  { mask := 0xFE000000, bits := 0xF8000000, read := fun w => .imm (decodeFmtImm w) },
  { mask := 0xFE00001F, bits := 0xFA000000, read := fun w => .rep (decodeFmtRep w) },
  { mask := 0xFFC000FF, bits := 0xFC000000, read := fun w => .mod (decodeFmtMod w) },
  { mask := 0xFFC1FFFF, bits := 0xFE000000, read := fun w => .sched (decodeFmtSched w) }]

/-- The opcode table's encoded rows, in its order. -/
noncomputable def decodeRows : List DecodeRow :=
  rows0 ++ rows1 ++ rows2 ++ rows3 ++ rows4 ++ rows5 ++ rows6 ++ rows7 ++ rows8 ++ rows9 ++ rows10

/-- A hint word of a reserved kind: MOD or SCHED with KIND not 0 (R163, R166, R167). -/
def reservedHint (w : W32) : Bool :=
  (w.extractLsb' 25 7 == 0x7E || w.extractLsb' 25 7 == 0x7F) && w.extractLsb' 22 3 != 0

/-- The instruction a word stands for: a row of the table, a reserved hint (R163), or a word that is no instruction (R169). It takes the word
alone, so a caravan's and a sequencer's words are decoded the same way (R440). -/
noncomputable def decode (w : W32) : Instr :=
  if reservedHint w then .reservedHintWord w
  else match decodeRows.find? (·.hits w) with
    | some r => r.read w
    | none => .unassignedEncoding w

/-- The word of an instruction (R149, R150); an event has none. -/
def encode : Instr → Option (BitVec 32)
  | .add f => some (0x00000000 ||| encodeFmtR f)
  | .sub f => some (0x02000000 ||| encodeFmtR f)
  | .mul f => some (0x04000000 ||| encodeFmtR f)
  | .mulhI f => some (0x06000000 ||| encodeFmtR f)
  | .mulhN f => some (0x08000000 ||| encodeFmtR f)
  | .mad f => some (0x0A000000 ||| encodeFmtR f)
  | .sad f => some (0x0C000000 ||| encodeFmtR f)
  | .minI f => some (0x0E000000 ||| encodeFmtR f)
  | .minN f => some (0x10000000 ||| encodeFmtR f)
  | .maxI f => some (0x12000000 ||| encodeFmtR f)
  | .maxN f => some (0x14000000 ||| encodeFmtR f)
  | .and f => some (0x160C0000 ||| encodeFmtW f)
  | .or f => some (0x180C0000 ||| encodeFmtW f)
  | .xor f => some (0x1A0C0000 ||| encodeFmtW f)
  | .shl f => some (0x1C000000 ||| encodeFmtR f)
  | .shrN f => some (0x1E000000 ||| encodeFmtR f)
  | .shrI f => some (0x20000000 ||| encodeFmtR f)
  | .rotl f => some (0x22000000 ||| encodeFmtR f)
  | .bfx f => some (0x24080000 ||| encodeFmtZ1 f)
  | .bfi f => some (0x26080000 ||| encodeFmtZ1 f)
  | .setp f => some (0x28000000 ||| encodeFmtCmp f)
  | .sel f => some (0x2A0C0000 ||| encodeFmtW f)
  | .lea f => some (0x2C000000 ||| encodeFmtR f)
  | .mov f => some (0x2E0C0000 ||| encodeFmtDA f)
  | .not f => some (0x2E0C0001 ||| encodeFmtDA f)
  | .neg f => some (0x2E000002 ||| encodeFmtZDA f)
  | .abs f => some (0x2E000003 ||| encodeFmtZDA f)
  | .popc f => some (0x2E000004 ||| encodeFmtZDA f)
  | .clz f => some (0x2E000005 ||| encodeFmtZDA f)
  | .ctz f => some (0x2E000006 ||| encodeFmtZDA f)
  | .brev f => some (0x2E000007 ||| encodeFmtZDA f)
  | .packlI f => some (0x2E000008 ||| encodeFmtZDA f)
  | .packhI f => some (0x2E000009 ||| encodeFmtZDA f)
  | .packlN f => some (0x2E00000A ||| encodeFmtZDA f)
  | .packhN f => some (0x2E00000B ||| encodeFmtZDA f)
  | .unpklI f => some (0x2E00000C ||| encodeFmtZDA f)
  | .unpkhI f => some (0x2E00000D ||| encodeFmtZDA f)
  | .unpklN f => some (0x2E00000E ||| encodeFmtZDA f)
  | .unpkhN f => some (0x2E00000F ||| encodeFmtZDA f)
  | .bcast f => some (0x2E0C0010 ||| encodeFmtDA f)
  | .pmask f => some (0x2E0C0011 ||| encodeFmtDA f)
  | .rdtid f => some (0x2E0C0012 ||| encodeFmtD f)
  | .pnot f => some (0x2E000013 ||| encodeFmtDA f)
  | .addU f => some (0x70000000 ||| encodeFmtZDA f)
  | .subU f => some (0x70000001 ||| encodeFmtZDA f)
  | .mulU f => some (0x70000002 ||| encodeFmtZDA f)
  | .mulhIU f => some (0x70000003 ||| encodeFmtZDA f)
  | .mulhNU f => some (0x70000004 ||| encodeFmtZDA f)
  | .madU f => some (0x70000005 ||| encodeFmtZDA f)
  | .sadU f => some (0x70000006 ||| encodeFmtZDA f)
  | .minIU f => some (0x70000007 ||| encodeFmtZDA f)
  | .minNU f => some (0x70000008 ||| encodeFmtZDA f)
  | .maxIU f => some (0x70000009 ||| encodeFmtZDA f)
  | .maxNU f => some (0x7000000A ||| encodeFmtZDA f)
  | .andU f => some (0x700C000B ||| encodeFmtDA f)
  | .orU f => some (0x700C000C ||| encodeFmtDA f)
  | .xorU f => some (0x700C000D ||| encodeFmtDA f)
  | .shlU f => some (0x7000000E ||| encodeFmtZDA f)
  | .shrNU f => some (0x7000000F ||| encodeFmtZDA f)
  | .shrIU f => some (0x70000010 ||| encodeFmtZDA f)
  | .rotlU f => some (0x70000011 ||| encodeFmtZDA f)
  | .bfxU f => some (0x70080012 ||| encodeFmtZ1DA f)
  | .leaU f => some (0x70000016 ||| encodeFmtZDA f)
  | .addImm f => some (0x72000000 ||| encodeFmtI f)
  | .shlImm f => some (0x74000000 ||| encodeFmtI f)
  | .shrNImm f => some (0x76000000 ||| encodeFmtI f)
  | .shrIImm f => some (0x78000000 ||| encodeFmtI f)
  | .andImm f => some (0x7A000000 ||| encodeFmtI f)
  | .orImm f => some (0x7C000000 ||| encodeFmtI f)
  | .xorImm f => some (0x7E000000 ||| encodeFmtI f)
  | .mulImm f => some (0x80000000 ||| encodeFmtI f)
  | .movU f => some (0x820C0000 ||| encodeFmtDA f)
  | .notU f => some (0x820C0001 ||| encodeFmtDA f)
  | .negU f => some (0x82000002 ||| encodeFmtZDA f)
  | .absU f => some (0x82000003 ||| encodeFmtZDA f)
  | .popcU f => some (0x82000004 ||| encodeFmtZDA f)
  | .clzU f => some (0x82000005 ||| encodeFmtZDA f)
  | .ctzU f => some (0x82000006 ||| encodeFmtZDA f)
  | .brevU f => some (0x82000007 ||| encodeFmtZDA f)
  | .packlIU f => some (0x82000008 ||| encodeFmtZDA f)
  | .packhIU f => some (0x82000009 ||| encodeFmtZDA f)
  | .packlNU f => some (0x8200000A ||| encodeFmtZDA f)
  | .packhNU f => some (0x8200000B ||| encodeFmtZDA f)
  | .unpklIU f => some (0x8200000C ||| encodeFmtZDA f)
  | .unpkhIU f => some (0x8200000D ||| encodeFmtZDA f)
  | .unpklNU f => some (0x8200000E ||| encodeFmtZDA f)
  | .unpkhNU f => some (0x8200000F ||| encodeFmtZDA f)
  | .cnot f => some (0x82000014 ||| encodeFmtDA f)
  | .csetp f => some (0x84000000 ||| encodeFmtCs f)
  | .csetpImm f => some (0x86000000 ||| encodeFmtCsI f)
  | .madUniform f => some (0x88000000 ||| encodeFmtR f)
  | .rdid f => some (0x8A000000 ||| encodeFmtDI f)
  | .bfiU f => some (0x8C080000 ||| encodeFmtZ1 f)
  | .selU f => some (0x8E0C0000 ||| encodeFmtW f)
  | .fadd f => some (0x30000000 ||| encodeFmtR f)
  | .fsub f => some (0x32000000 ||| encodeFmtR f)
  | .fmul f => some (0x34000000 ||| encodeFmtR f)
  | .fma f => some (0x36000000 ||| encodeFmtR f)
  | .fmin f => some (0x38000000 ||| encodeFmtR f)
  | .fmax f => some (0x3A000000 ||| encodeFmtR f)
  | .fsetp f => some (0x3C000000 ||| encodeFmtCmp f)
  | .fneg f => some (0x3E000000 ||| encodeFmtZDA f)
  | .fabs f => some (0x3E000001 ||| encodeFmtZDA f)
  | .fclass f => some (0x3E000002 ||| encodeFmtZDA f)
  | .faddBf16 f => some (0x40040000 ||| encodeFmtW f)
  | .fsubBf16 f => some (0x42040000 ||| encodeFmtW f)
  | .fmulBf16 f => some (0x44040000 ||| encodeFmtW f)
  | .fmaBf16 f => some (0x46040000 ||| encodeFmtW f)
  | .fminBf16 f => some (0x48040000 ||| encodeFmtW f)
  | .fmaxBf16 f => some (0x4A040000 ||| encodeFmtW f)
  | .fsetpBf16 f => some (0x4C040000 ||| encodeFmtCmpB f)
  | .fnegBf16 f => some (0x4E040000 ||| encodeFmtDA f)
  | .fabsBf16 f => some (0x4E040001 ||| encodeFmtDA f)
  | .fclassBf16 f => some (0x4E040002 ||| encodeFmtDA f)
  | .rcp f => some (0x50080000 ||| encodeFmtDA f)
  | .rsq f => some (0x50080001 ||| encodeFmtDA f)
  | .sqrt f => some (0x50080002 ||| encodeFmtDA f)
  | .ex2 f => some (0x50080003 ||| encodeFmtDA f)
  | .lg2 f => some (0x50080004 ||| encodeFmtDA f)
  | .sinpi f => some (0x50080005 ||| encodeFmtDA f)
  | .cospi f => some (0x50080006 ||| encodeFmtDA f)
  | .tanh f => some (0x50080007 ||| encodeFmtDA f)
  | .cvtFloat f => some (0x52000000 ||| encodeFmtCvtF f)
  | .cvtInt f => some (0x54000000 ||| encodeFmtCvtI f)
  | .cvtXF32 f => some (0x56080000 ||| encodeFmtW f)
  | .cvtF32X f => some (0x58080000 ||| encodeFmtW f)
  | .qblk f => some (0x5A080000 ||| encodeFmtW f)
  | .dqblk f => some (0x5C080000 ||| encodeFmtW f)
  | .swz f => some (0x5E000000 ||| encodeFmtW f)
  | .lxch f => some (0x60000000 ||| encodeFmtR f)
  | .lbcast f => some (0x62000000 ||| encodeFmtR f)
  | .lredAdd f => some (0x64000000 ||| encodeFmtZDA f)
  | .lredMinI f => some (0x64000001 ||| encodeFmtZDA f)
  | .lredMinN f => some (0x64000002 ||| encodeFmtZDA f)
  | .lredMaxI f => some (0x64000003 ||| encodeFmtZDA f)
  | .lredMaxN f => some (0x64000004 ||| encodeFmtZDA f)
  | .lredAnd f => some (0x64000005 ||| encodeFmtZDA f)
  | .lredOr f => some (0x64000006 ||| encodeFmtZDA f)
  | .lredXor f => some (0x64000007 ||| encodeFmtZDA f)
  | .lredMinIdxI f => some (0x64000008 ||| encodeFmtZDA f)
  | .lredMinIdxN f => some (0x64000009 ||| encodeFmtZDA f)
  | .lredMaxIdxI f => some (0x6400000A ||| encodeFmtZDA f)
  | .lredMaxIdxN f => some (0x6400000B ||| encodeFmtZDA f)
  | .lredFadd f => some (0x64000010 ||| encodeFmtZDA f)
  | .lredFmin f => some (0x64000011 ||| encodeFmtZDA f)
  | .lredFmax f => some (0x64000012 ||| encodeFmtZDA f)
  | .lredFminIdx f => some (0x64000013 ||| encodeFmtZDA f)
  | .lredFmaxIdx f => some (0x64000014 ||| encodeFmtZDA f)
  | .lredFaddBf16 f => some (0x64040018 ||| encodeFmtDA f)
  | .lredFminBf16 f => some (0x64040019 ||| encodeFmtDA f)
  | .lredFmaxBf16 f => some (0x6404001A ||| encodeFmtDA f)
  | .lredFminIdxBf16 f => some (0x6404001B ||| encodeFmtDA f)
  | .lredFmaxIdxBf16 f => some (0x6404001C ||| encodeFmtDA f)
  | .lscanAdd f => some (0x66000000 ||| encodeFmtScan f)
  | .lscanMinI f => some (0x66000001 ||| encodeFmtScan f)
  | .lscanMinN f => some (0x66000002 ||| encodeFmtScan f)
  | .lscanMaxI f => some (0x66000003 ||| encodeFmtScan f)
  | .lscanMaxN f => some (0x66000004 ||| encodeFmtScan f)
  | .lscanAnd f => some (0x66000005 ||| encodeFmtScan f)
  | .lscanOr f => some (0x66000006 ||| encodeFmtScan f)
  | .lscanXor f => some (0x66000007 ||| encodeFmtScan f)
  | .lscanFadd f => some (0x66000010 ||| encodeFmtScan f)
  | .lscanFmin f => some (0x66000011 ||| encodeFmtScan f)
  | .lscanFmax f => some (0x66000012 ||| encodeFmtScan f)
  | .lscanFaddBf16 f => some (0x66040018 ||| encodeFmtScanB f)
  | .lscanFminBf16 f => some (0x66040019 ||| encodeFmtScanB f)
  | .lscanFmaxBf16 f => some (0x6604001A ||| encodeFmtScanB f)
  | .lballot f => some (0x680C0000 ||| encodeFmtDA f)
  | .lmatch f => some (0x6A000000 ||| encodeFmtZDA f)
  | .lmatchF f => some (0x6A000001 ||| encodeFmtZDA f)
  | .lmatchBf16 f => some (0x6A040002 ||| encodeFmtDA f)
  | .lcount f => some (0x6C0C0000 ||| encodeFmtDA f)
  | .ld f => some (0x90000000 ||| encodeFmtR f)
  | .ldOffset f => some (0x92000000 ||| encodeFmtR f)
  | .st f => some (0x94000000 ||| encodeFmtR f)
  | .stOffset f => some (0x96000000 ||| encodeFmtR f)
  | .ldu f => some (0x98000000 ||| encodeFmtR f)
  | .stu f => some (0x9A000000 ||| encodeFmtR f)
  | .ldl f => some (0x9C000000 ||| encodeFmtR f)
  | .ldlOffset f => some (0x9E000000 ||| encodeFmtR f)
  | .stl f => some (0xA0000000 ||| encodeFmtR f)
  | .stlOffset f => some (0xA2000000 ||| encodeFmtR f)
  | .ldc f => some (0xA4000000 ||| encodeFmtR f)
  | .ldcU f => some (0xA6000000 ||| encodeFmtR f)
  | .amoAdd f => some (0xA8080000 ||| encodeFmtZ1DA f)
  | .amoMinI f => some (0xA8080001 ||| encodeFmtZ1DA f)
  | .amoMinN f => some (0xA8080002 ||| encodeFmtZ1DA f)
  | .amoMaxI f => some (0xA8080003 ||| encodeFmtZ1DA f)
  | .amoMaxN f => some (0xA8080004 ||| encodeFmtZ1DA f)
  | .amoAnd f => some (0xA8080005 ||| encodeFmtZ1DA f)
  | .amoOr f => some (0xA8080006 ||| encodeFmtZ1DA f)
  | .amoXor f => some (0xA8080007 ||| encodeFmtZ1DA f)
  | .amoExch f => some (0xA8080008 ||| encodeFmtZ1DA f)
  | .amoCas f => some (0xA8080009 ||| encodeFmtZ1DA f)
  | .amouAdd f => some (0xAA080000 ||| encodeFmtZ1DA f)
  | .amouMinI f => some (0xAA080001 ||| encodeFmtZ1DA f)
  | .amouMinN f => some (0xAA080002 ||| encodeFmtZ1DA f)
  | .amouMaxI f => some (0xAA080003 ||| encodeFmtZ1DA f)
  | .amouMaxN f => some (0xAA080004 ||| encodeFmtZ1DA f)
  | .amouAnd f => some (0xAA080005 ||| encodeFmtZ1DA f)
  | .amouOr f => some (0xAA080006 ||| encodeFmtZ1DA f)
  | .amouXor f => some (0xAA080007 ||| encodeFmtZ1DA f)
  | .amouExch f => some (0xAA080008 ||| encodeFmtZ1DA f)
  | .amouCas f => some (0xAA080009 ||| encodeFmtZ1DA f)
  | .aappend f => some (0xAC080000 ||| encodeFmtZ1 f)
  | .cpyG2l f => some (0xB8000000 ||| encodeFmtR f)
  | .cpyL2g f => some (0xBA000000 ||| encodeFmtR f)
  | .cpyL2l f => some (0xBC000000 ||| encodeFmtR f)
  | .cpyG2g f => some (0xBE000000 ||| encodeFmtR f)
  | .ringInit f => some (0xC00C0000 ||| encodeFmtDA f)
  | .ringAcq f => some (0xC00C0001 ||| encodeFmtDA f)
  | .ringPub f => some (0xC00C0002 ||| encodeFmtDA f)
  | .ringTake f => some (0xC00C0003 ||| encodeFmtDA f)
  | .ringRel f => some (0xC00C0004 ||| encodeFmtDA f)
  | .barInit f => some (0xC20C0000 ||| encodeFmtDA f)
  | .barArv f => some (0xC20C0001 ||| encodeFmtDA f)
  | .barWait f => some (0xC20C0002 ||| encodeFmtDA f)
  | .barArw f => some (0xC20C0003 ||| encodeFmtDA f)
  | .barInval f => some (0xC20C0004 ||| encodeFmtA f)
  | .bbar f => some (0xC40C0000 ||| encodeFmtD f)
  | .dbar f => some (0xC40C0001 ||| encodeFmtD f)
  | .cbar f => some (0xC40C0002 ||| encodeFmtCb f)
  | .fenceIo f => some (0xC6000000 ||| encodeFmtN f)
  | .bdecl f => some (0xC80C0000 ||| encodeFmtDA f)
  | .bentr f => some (0xC80C0001 ||| encodeFmtDA f)
  | .bleav f => some (0xC80C0002 ||| encodeFmtA f)
  | .bstat f => some (0xC80C0003 ||| encodeFmtDA f)
  | .qpop f => some (0xCA0C0000 ||| encodeFmtQ f)
  | .qpopTry f => some (0xCA0C0001 ||| encodeFmtQ f)
  | .qpush f => some (0xCA0C0002 ||| encodeFmtDA f)
  | .sgbind f => some (0xCC0C0000 ||| encodeFmtDA f)
  | .sgstat f => some (0xCC0C0001 ||| encodeFmtDA f)
  | .rdclk f => some (0xCE0C0000 ||| encodeFmtD f)
  | .rdptp f => some (0xCE0C0001 ||| encodeFmtD f)
  | .rdenergy f => some (0xCE0C0002 ||| encodeFmtD f)
  | .bra f => some (0xD0000000 ||| encodeFmtB f)
  | .brd f => some (0xD2000000 ||| encodeFmtB f)
  | .join f => some (0xD4700000 ||| encodeFmtBn f)
  | .brx f => some (0xD60C0000 ||| encodeFmtA f)
  | .brxU f => some (0xD60C0001 ||| encodeFmtA f)
  | .ret f => some (0xD60C0002 ||| encodeFmtA f)
  | .land f => some (0xD8700000 ||| encodeFmtBn f)
  | .call f => some (0xDA000000 ||| encodeFmtB f)
  | .loop f => some (0xDC000000 ||| encodeFmtDI f)
  | .exit f => some (0xDE000000 ||| encodeFmtN f)
  | .mma f => some (0xE0080000 ||| encodeFmtW f)
  | .mzero f => some (0xE00C0000 ||| encodeFmtDA f)
  | .mmag f => some (0xE2080000 ||| encodeFmtW f)
  | .mstS f => some (0xE4000000 ||| encodeFmtW f)
  | .mstSAddF32 f => some (0xE4040000 ||| encodeFmtW f)
  | .mstSAddI32 f => some (0xE4080000 ||| encodeFmtW f)
  | .mmaCv f => some (0xE6080000 ||| encodeFmtW f)
  | .mrowRead f => some (0xE8000000 ||| encodeFmtT f)
  | .mcolRead f => some (0xE8004000 ||| encodeFmtT f)
  | .mrowWrite f => some (0xEA000000 ||| encodeFmtT f)
  | .mcolWrite f => some (0xEA004000 ||| encodeFmtT f)
  | .setvb f => some (0xEA000000 ||| encodeFmtVb f)
  | .svc f => some (0xEC000000 ||| encodeFmtS f)
  | .eret f => some (0xEE000000 ||| encodeFmtN f)
  | .eretNobp f => some (0xEE000001 ||| encodeFmtN f)
  | .eretTerm f => some (0xEE000002 ||| encodeFmtTm f)
  | .mfsr f => some (0xF0000000 ||| encodeFmtDI f)
  | .mtsr f => some (0xF2000000 ||| encodeFmtAI f)
  | .tlbiPage f => some (0xF40C0000 ||| encodeFmtDA f)
  | .tlbiSpace f => some (0xF40C0000 ||| encodeFmtDA f)
  | .tlbiTenant f => some (0xF40C0000 ||| encodeFmtDA f)
  | .scrub f => some (0xF40C0001 ||| encodeFmtDA f)
  | .ovld f => some (0xF40C0002 ||| encodeFmtDA f)
  | .cacheopDropLine f => some (0xF40C0003 ||| encodeFmtDA f)
  | .cacheopWriteback f => some (0xF40C0003 ||| encodeFmtDA f)
  | .cacheopDropAll f => some (0xF40C0003 ||| encodeFmtDA f)
  | .wfe f => some (0xF60C0000 ||| encodeFmtW f)
  | .halt f => some (0xF6000000 ||| encodeFmtN f)
  | .imm f => some (0xF8000000 ||| encodeFmtImm f)
  | .rep f => some (0xFA000000 ||| encodeFmtRep f)
  | .mod f => some (0xFC000000 ||| encodeFmtMod f)
  | .sched f => some (0xFE000000 ||| encodeFmtSched f)
  | .scoreboardWriteback _ => none
  | .hostAtomicCompletion _ _ _ _ => none
  | .homeRequest _ _ _ _ _ => none
  | .invalidation _ _ _ => none
  | .epochCommit _ _ => none
  | .coreEscortEnd _ => none
  | .uncorrectableError _ => none
  | .copyTransfer _ => none
  | .matrixTake _ => none
  | .matrixOperandRead _ => none
  | .matrixComplete _ => none
  | .trapEntry _ _ => none
  | .wfeTimeout _ _ => none
  | .bundleRequestServe _ _ => none
  | .bundleEntryComplete _ _ => none
  | .streamAccess _ => none
  | .dhLineCopy _ _ => none
  | .ingestFrame _ _ => none
  | .transmitFrame _ => none
  | .packetDispatch => none
  | .semaphorePoll _ _ => none
  | .sliceEnd => none
  | .feedQueuePush _ _ => none
  | .launchCompletion _ => none
  | .chunkSteal _ _ => none
  | .blockAdmission _ => none
  | .energyMeterSample => none
  | .energyWindowStart => none
  | .flitReceive _ _ => none
  | .linkHeartbeat _ => none
  | .linkFailed _ => none
  | .requestReissue _ => none
  | .packageFenced _ => none
  | .hostAccess _ => none
  | .hostLkWrite _ _ _ => none
  | .ideStreamFailure _ => none
  | .functionLevelReset _ => none
  | .qtailDoorbell _ _ _ => none
  | .evheadWrite _ _ => none
  | .registerWrite _ _ _ => none
  | .mapQueue _ => none
  | .unmapQueue _ => none
  | .pause _ => none
  | .resume _ => none
  | .evict _ => none
  | .importContext _ => none
  | .setSlice _ => none
  | .reassignCores _ => none
  | .migrate _ => none
  | .setWeight _ => none
  | .endGang _ => none
  | .discardLaunch _ => none
  | .resetQueue _ => none
  | .attachPort _ => none
  | .resetTenant _ => none
  | .installPolicy _ => none
  | .assignMemory _ => none
  | .releaseMemory _ => none
  | .setPodWindow _ => none
  | .lockInterface _ => none
  | .startInterface _ => none
  | .stopInterface _ => none
  | .getDeviceInterfaceReport _ => none
  | .getDeviceInterfaceState _ => none
  | .tdispGetVersion _ => none
  | .tdispGetCapabilities _ => none
  | .ifcmdLock _ => none
  | .ifcmdStart _ => none
  | .ifcmdStop _ => none
  | .spdmGetVersion _ => none
  | .spdmGetCapabilities _ => none
  | .negotiateAlgorithms _ => none
  | .getDigests _ => none
  | .getCertificate _ => none
  | .challenge _ => none
  | .getMeasurements _ => none
  | .keyExchange _ => none
  | .finish _ => none
  | .spdmHeartbeat _ => none
  | .keyUpdate _ => none
  | .endSession _ => none
  | .policyKeyRegistration _ => none
  | .packageReset _ => none
  | .firmwareWatchdog => none
  | .fwctlReady => none
  | .fwctlActivate => none
  | .activationVerified => none
  | .activationPause => none
  | .firmwareImageWrite _ => none
  | .wake _ => none
  | .stlaunch _ _ => none
  | .dhctlSync _ _ => none
  | .dhctlSwitch _ _ => none
  | .syzstatRetrain _ => none
  | .pwrcap _ => none
  | .junctionHot _ => none
  | .junctionCool _ => none
  | .thermalTrip => none
  | .coreRetirement _ => none
  | .unassignedEncoding w => some w
  | .reservedHintWord w => some w
  | .ikdoor _ => none
  | .ideKmKeyProgramming _ => none
  | .healthTestFailure => none
  | .hostSnoop _ => none
  | .globalObservationResponse _ => none
  | .reAdmission _ => none
  | .trainingComplete _ => none

/-- The word of an instruction, 0 for an event: what a fault record's syndrome holds (R335). -/
def wordOf (i : Instr) : W32 := (encode i).getD 0

/-- The bytes of a word as the scratchpad stores it (R149, R5). -/
def wordBytes (w : W32) : List Byte :=
  [w.extractLsb' 0 8, w.extractLsb' 8 8, w.extractLsb' 16 8, w.extractLsb' 24 8]

/-- A word from its four stored bytes. -/
def wordOfBytes : List Byte → Option W32
  | [a, b, c, d] => some (d ++ c ++ b ++ a)
  | _ => none

/-- The instruction the decoder reads from a table word: 32 bits, stored little-endian; every word decodes. -/
noncomputable def decodeTableWord (nbits w : Nat) : Option Instr :=
  if nbits ≤ 32 then (wordOfBytes (wordBytes (BitVec.ofNat 32 w))).map decode else none

end Sys2Proof
end

