-- ==== Sys2Proof/Config.lean ====
section
/-! DEFINITION. Values the spec leaves open: constants with no body, so that no proof can use a value of one. Each is named in
the assumption log. -/
namespace Sys2Proof

/-- Free choice number n: an early reader of a fixed-latency result gets the old value (R158). Log 6. -/
opaque Config.readsOld (n : Nat) : Bool
/-- Free byte number n: what memory under a discarded key reads as (R414). Log 6. -/
opaque Config.freeByte (n : Nat) : BitVec 8
/-- The result of a special function where rational bounds of the model's precision do not settle its rounding (R203). -/
opaque Config.specialF32 (op : Nat) (x : BitVec 32) : BitVec 32
/-- Does a signature verify: modulus, message, signature (R409, R429). Log 7. -/
opaque Config.rsaPssOk (modulus msg sig : List (BitVec 8)) : Bool
/-- SHA-512 of a byte string (R409, R410, R418). Log 7. -/
opaque Config.sha512 (msg : List (BitVec 8)) : List (BitVec 8)
/-- AES-256-GCM seal of a body under key number k: ciphertext and 16-byte tag (R415). Log 7. -/
opaque Config.gcmSeal (key : Nat) (header body : List (BitVec 8)) : List (BitVec 8)
/-- AES-256-GCM open of a blob: its body, or none if the tag is wrong (R416). Log 7. -/
opaque Config.gcmOpen (key : Nat) (header rest : List (BitVec 8)) : Option (List (BitVec 8))
/-- The boot ROM, which a measurement reports (R418). Log 7. -/
opaque Config.bootRom : List (BitVec 8)
/-- The innkeeper's image, which a measurement reports (R418). Log 7. -/
opaque Config.innkeeperImage : List (BitVec 8)
/-- The key hash fused at manufacture (R429). Log 7. -/
opaque Config.bootKey : List (BitVec 8)
/-- Does memory training succeed: 0 second tier, 1 to 4 the compute dies (R429, R431)? Log 7. -/
opaque Config.trains (unit : Nat) : Bool
/-- The fields of a firmware image: version, entry, activation entry, SVEC (R429, R434). Log 7. -/
opaque Config.imageField (image : List (BitVec 8)) (field : Nat) : BitVec 64
/-- Where in steward memory an image is copied (R429). Log 7. -/
opaque Config.imageBase : Nat
/-- The body of an SPDM or TDISP answer (R418, R420): request kind, state number, request body. Log 7. -/
opaque Config.answer (kind n : Nat) (body : List (BitVec 8)) : List (BitVec 8)
/-- Does an SPDM message's proof verify (R418)? Log 7. -/
opaque Config.messageOk (kind n : Nat) (body : List (BitVec 8)) : Bool
/-- Does a NEGOTIATE_ALGORITHMS request offer an algorithm: of table 0 signatures, 1 hashes, 2 key exchange, 3 encryption, by the number of
its bit (R418)? Log 37. -/
opaque Config.offersAlgorithm (body : List (BitVec 8)) (table bit : Nat) : Bool
/-- Which tenant a message names (R418). Log 7. -/
opaque Config.messageTenant (body : List (BitVec 8)) : Nat
/-- The arguments of an innkeeper command, which the spec names and does not place (R408). Log 7. -/
opaque Config.commandArgs (op : Nat) (bytes : List (BitVec 8)) : List Nat
/-- The core list of an innkeeper command (R408). Log 7. -/
opaque Config.commandCores (op : Nat) (bytes : List (BitVec 8)) : List Nat
/-- The stream slots and image addresses a launch packet's `.stream` directives bind (R176, R441), which the spec gives no place in
the packet. Log 7. -/
opaque Config.streamBinds (packet : List (BitVec 8)) : List (Nat × Nat)
/-- The root table the innkeeper assigns to a process of a function (R358). Log 7. -/
opaque Config.ptroot (vf proc : Nat) : BitVec 64
/-- Millijoules measured at sample n for a unit: cores by number, then stacks and links (R378). Log 7. -/
opaque Config.energy (sample unit : Nat) : Nat
/-- Bytes a memory stack or link moved for a launch in sample n (R378). -/
opaque Config.bytesMoved (sample unit launch : Nat) : Nat
/-- Cycles the steward cores pause for at activation number n, where that is within 150 µs (R434). Log 6. -/
opaque Config.pauseCycles (n : Nat) : Nat
/-- Free choice number n: a slot that may be gated is gated (R438). Log 33. -/
opaque Config.gates (n : Nat) : Bool
/-- Watts averaged at sample n (R438). Log 7. -/
opaque Config.watts (sample : Nat) : Nat
/-- Does the heartbeat flit a link sends at a time pass its check (R398, R400)? Log 16. -/
opaque Config.heartbeatGood (link now : Nat) : Bool
/-- Where firmware steps the PTP clock in microsecond n: to these seconds and nanoseconds (R325). Log 15. -/
opaque Config.ptpStep (n : Nat) : Option (Nat × Nat)
/-- The package a Syzin port finds at its other end when it trains (R437). Log 7. -/
opaque Config.syzinPeer (port : Nat) : Nat
/-- The owner of a frame of another package, in its own table (R352, R357): pod, package, frame. Log 56. -/
opaque Config.podOwner (pod pkg frame : Nat) : Nat
/-- The offset in a function's configuration space of a register: 0 Message Control, 1 + n its BAR n (R422, R424). Log 7. -/
opaque Config.configOffset (reg : Nat) : Nat

end Sys2Proof
end

