-- ==== Sys2Proof/Machine/State.lean ====
section
/-! DEFINITION. Everything the spec gives the machine, as plain data, and its value right after package reset. The names are
the spec's; INVENTORY.md lists each item with the rule that names it and its reset value. -/
namespace Sys2Proof.Machine
open Sys2Proof

/-- Why a run stops where the spec gives no step. -/
inductive Fault where
  /-- Raised by an instruction or step that names a caravan or sequencer the part does not hold. Safe: nothing is issued. -/
  | noAgent
  /-- Raised by a step that names a core, block, launch or other unit that does not exist. Safe: nothing happens. -/
  | noUnit
deriving DecidableEq, Repr

/-- Why the model gives an instruction no step. -/
inductive Refusal where
  /-- Raised by an arm of `exec` whose instruction has no meaning yet. Safe: no state is claimed. -/
  | notModelled (mnemonic : String)
deriving DecidableEq, Repr

/-- Memory: cells in strictly rising address, none equal to what an unlisted address reads as. -/
abbrev Memory := List Host.Cell

/-- A byte's place: a physical address, or an offset in a block's local store. -/
inductive Loc where
  | glob (pa : Nat)
  | ls (blk off : Nat)
deriving DecidableEq, Repr

/-- A leaf translation (R355), as a TLB holds it (R359). -/
structure Leaf where
  base : Nat
  size : Nat
  pa : Nat
  pa2 : Option Nat
  slot : Nat
  fmt : Nat
  tracked : Bool
  sup : Bool
  w : Bool
  r : Bool
  far : Option (Nat × Nat × Nat)
deriving DecidableEq, Repr

/-- A run of an access's bytes on one page or in one local store, checked (R93): its offset in the access, length, address, place,
leaf, and the address of its lane, which a record names (R299). -/
structure Seg where
  off : Nat
  len : Nat
  va : Nat
  loc : Loc
  leaf : Option Leaf
  lane : Option Nat := none
deriving DecidableEq, Repr

/-- One v register of a caravan: a word for each thread (R30). -/
abbrev VReg := Vector Word 32
/-- One tile: 64 rows of 64 elements (R144). -/
abbrev Tile := Vector (Vector W32 64) 64

/-- An entry of the divergence stack (R289). -/
structure StackEntry where
  pc : W32
  mask : W32
  rpc : W32
  path : Bool
deriving DecidableEq, Repr

/-- The state of a caravan that a checkpoint keeps (R391). -/
structure CRegs where
  pc : Word
  v : Vector VReg 64
  s : Vector Word 64
  s2 : Vector Word 8
  p : Vector W32 7
  c : Vector Bool 4
  m : W32
  e : W32
  stack : List StackEntry
  gs : Word
deriving DecidableEq, Repr

/-- A lane's part of an accepted copy, one repetition (R237): where its bytes come from and go to, the packages of places in
other pods, the place of the shift count of a formatted source's block (R81, R238), the second homes of the destination, the source and
that place (R362), stream slots with the offsets in their pages (R109), both addresses, and the lane's thread. -/
structure Piece where
  src : Loc
  dst : Loc
  len : Nat
  srcFar : Option (Nat × Nat) := none
  dstFar : Option (Nat × Nat) := none
  scale : Option Nat := none
  second : Option Nat := none
  srcSecond : Option Nat := none
  scaleSecond : Option Nat := none
  srcGraph : Nat := 0
  dstGraph : Nat := 0
  srcPos : Nat := 0
  dstPos : Nat := 0
  srcVa : Nat := 0
  dstVa : Nat := 0
  lane : Nat := 0
deriving DecidableEq, Repr

/-- An accepted copy (R236): its block, tenant, barrier, repetitions of pieces, the slot tag it sets: the block of the ring,
ring, slot and format entry (R80, R238); its caravan, and the incarnation number of its core (R399). -/
structure CopyReq where
  id : Nat
  blk : Nat
  tenant : Nat
  bar : Nat
  reps : List (List Piece)
  tag : Option (Nat × Nat × Nat × Nat)
  car : Nat := 0
  inc : BitVec 16 := 0
deriving DecidableEq, Repr

/-- An operation held until its epoch commits (R103, R390); `sgbind` with the address of its image, or none for an unbind (R261). -/
inductive Held where
  | store (l : Loc) (bytes : List Byte) (second : Option Nat) (tracked : Bool)
  | copy (c : CopyReq)
  | qpush (pipe : Nat) (entry : List Byte)
  | bentr (handle bar : Nat)
  | bleav (handle : Nat)
  | barArv (b d : Nat)
  | sgbind (d vf tenant slot : Nat) (image : Option Nat)
  | ringPub (k slot : Nat)
  | ringRel (k slot : Nat)
deriving DecidableEq, Repr

/-- The value a pending register will take: a uniform value, or the lanes of a v register; none while a held operation has
still to give it (R159, R222). -/
inductive PVal where
  | u (x : Word)
  | v (mask : W32) (x : VReg)
  | p (x : W32)
  | c (x : Bool)
  | held
deriving DecidableEq, Repr

/-- A pending result (R159). -/
structure Pend where
  reg : Reg
  val : PVal
deriving DecidableEq, Repr

/-- A fixed-latency result not yet safely spaced from what follows: the value before it, its producer's pc, the lanes no later
instruction has written, the choice an instruction that waits has made of it (R158), the spacing so far, and whether it must have landed,
since the result of a later scoreboarded instruction in the register has (R157 to R160). -/
structure Fix where
  reg : Reg
  old : PVal
  pc : Word
  gap : Nat
  lanes : W32 := BitVec.allOnes 32
  early : Option Bool := none
  landed : Bool := false
deriving DecidableEq, Repr

/-- An epoch: its checkpoint, and what has been done since (R389 to R392). -/
structure Epoch where
  snap : CRegs
  closed : Bool
  count : Nat
  acts : List Held
  marks : List Loc
  vw : List Nat
  pend : List Pend
  target : Bool
  nobp : Bool := false
deriving DecidableEq, Repr

/-- What a waiting caravan or sequencer waits for (R58); a ring's waiters keep the number of their request, the earlier one
served first (R242). -/
inductive Wait where
  | phase (b ph : Nat)
  | scope (arg ph : Nat)
  | ringFree (k since : Nat)
  | ringFull (k since : Nat)
  | pipe (q : Nat)
  | place (q : Nat)
  | tile (lo n : Nat)
  | array
  | meet
  | copies
  | chunk
  | stream (id : Nat)
  | hostAtomic
  | fence
  | halt
  | scrub (core : Nat)
  | epoch
deriving DecidableEq, Repr

/-- Does an agent issue? -/
inductive Status where
  | running
  | waiting (w : Wait)
  | ended
deriving DecidableEq, Repr

/-- A phase wait whose arrival has been made (R250, R384): scope, destination register, phase. -/
structure PhaseWait where
  arg : Nat
  d : Nat
  ph : W32
deriving DecidableEq, Repr

/-- A `wfe` wait: the chunk, the end time, and whether a write has ended it (R348). -/
structure WfeWait where
  chunk : Loc
  deadline : Option Nat
  woken : Bool
  timedOut : Bool
deriving DecidableEq, Repr

/-- A lane of an atomic that takes several steps (R233, R298): its thread, its place, and the values it carries. -/
structure AmoLane where
  lane : Nat
  seg : Seg
  operand : Nat
  swap : Nat
deriving DecidableEq, Repr

/-- An atomic with lanes at the host (R298): operation, size, the lanes a failure is reported for where it is not the failing lane alone,
its lanes in ascending order, and how many of its host lanes have completed. It keeps what its checks found (R93). -/
structure HostReq where
  op : Nat
  bytes : Nat
  report : Option W32
  lanes : List AmoLane
  done : Nat
deriving DecidableEq, Repr

/-- Where an access puts its lanes' values: a v register's lanes, a uniform register, or nowhere. -/
inductive Dest where
  | v (r : Nat) (mask : W32)
  | u (r : Nat)
  | none
deriving DecidableEq, Repr

/-- An access that takes several steps (R109, R298): the values its lanes have got, the host atomic on its way, where the values go,
and for `aappend` its size and each thread's sum of the increments below it (R234). -/
structure IoWait where
  got : List (Nat × Word)
  pending : Option HostReq
  dest : Dest
  sums : Option (Nat × List (Nat × Nat)) := none
deriving DecidableEq, Repr

/-- A multi-cycle instruction that is its caravan's last issued word (R184): its destination, the pc of its hint group and the
generator's state before it, which an abandonment restores, and whether its caravan waits for its result, as `| sb` asks (R156). -/
structure Multi where
  reg : Reg
  pc : Word
  gs : Word
  sb : Bool
deriving DecidableEq, Repr

/-- One caravan (R32, R384); `late` holds operations of committed epochs from a bind or unbind on that has still to wait (R326, R444);
`yieldTo` is the cycle until which a yield keeps it from issuing (R167). -/
structure Caravan where
  n : Nat
  vector : Bool
  regs : CRegs
  cst : Word
  vb : Nat
  epc : Word
  ecst : Word
  emask : W32
  frec : Vector Word 8
  nobp : Bool
  hints : List W32
  status : Status
  scope : Vector W32 6
  phase : Option PhaseWait
  epochs : List Epoch
  rbCur : Nat
  rbEsc : Bool
  rbTotal : W32
  fix : List Fix
  nextIssue : Nat
  quarter : Nat
  slot : Nat
  wfe : Option WfeWait
  io : Option IoWait
  multi : Option Multi
  late : List Held := []
  yieldTo : Nat := 0
deriving DecidableEq, Repr

/-- A block's sequencer (R265, R383); `yield` counts the takes that a yield still waits for (R167). -/
structure Sequencer where
  pc : Word
  g : Vector Word 16
  c : Vector Bool 4
  cv : Vector W32 4
  given : Bool
  hints : List W32
  status : Status
  scope : Vector W32 6
  phase : Option PhaseWait
  fix : List Fix
  yield : Nat
  nextIssue : Nat
deriving DecidableEq, Repr

/-- A stage ring (R239): the `ring.init` word (0 uninitialised), its counters, its slots' states (0 FREE, 1 ACQUIRED,
2 PUBLISHED, 3 TAKEN), their tags (R238) and the shift counts recorded for them. -/
structure Ring where
  init : Word
  acquired : W32
  published : W32
  taken : W32
  released : W32
  states : Vector Nat 16
  tags : Vector Nat 16
  shifts : List (Nat × Nat × Byte)
deriving DecidableEq, Repr

/-- A hardware barrier (R244): N (0 uninitialised), the count of the phase, and the phase number P. -/
structure Barrier where
  n : Nat
  count : Nat
  p : W32
deriving DecidableEq, Repr

/-- A block's entry of a bundle (R253, R383): the barrier owed while it is pending. -/
structure Entry where
  handle : Nat
  pending : Option Nat
  leave : Bool
deriving DecidableEq, Repr

/-- A convoy slot of a block (R49). -/
structure ConvoySlot where
  index : Nat
  rank : Nat
  members : List Nat
deriving DecidableEq, Repr

/-- A resident block (R25, R383). `closing` holds the records to deliver while a terminated block drains (R339, R340). -/
structure Block where
  id : Nat
  launch : Nat
  kernel : Nat
  lin : Nat
  core : Nat
  slot : Nat
  porters : Nat
  vectors : Nat
  tilesPer : Nat
  vbp : Nat
  vbv : Nat
  nbar : Nat
  nring : Nat
  lsg : Nat
  cars : List Caravan
  seq : Option Sequencer
  tiles : Vector Tile 32
  ls : Memory
  lsPoison : List Nat
  rings : Vector Ring 8
  bars : Vector Barrier 64
  entries : List Entry
  convoys : List (Option ConvoySlot)
  closing : Option (List (Vector Word 8))
  ended : Bool
deriving DecidableEq, Repr

/-- Which matrix instruction (R272). -/
inductive MxKind where
  | mma | mmag | mzero | mst | mstF | mstI | mmaCv
deriving DecidableEq, Repr

/-- A row of a matrix operand as its read event found it: its bytes, and the shift count of each of its 4-byte words where a
ring slot's tag records them (R271). -/
structure MxRow where
  bytes : List Byte
  shifts : List Byte
deriving DecidableEq, Repr

/-- A matrix instruction from its issue to its completion (R266, R267): its tile fields, the g registers it named, SAT, whether
the sequencer waits for completion, how far it is (0 issued, 1 taken, 2 operands read), whether the members of an `mma.cv` have met,
its number among the convoy's `mma.cv` (R277), the element formats of A and B, the rows of A and the column blocks of B it has, and its index vector. -/
structure MxOp where
  blk : Nat
  kind : MxKind
  d : Nat
  a : Nat
  ga : Word
  ga1 : Word
  gb : Word
  sat : Bool
  hold : Bool
  stage : Nat
  met : Bool
  nth : W32
  aFmt : Nat
  bFmt : Nat
  rows : List (Nat × MxRow)
  cols : List (Nat × List MxRow)
  index : List Nat
deriving DecidableEq, Repr

/-- An overlay in a core's instruction scratchpad, oldest load first in the core's list (R285, R344). -/
structure Overlay where
  launch : Nat
  n : Nat
  words : List W32
deriving DecidableEq, Repr

/-- A TLB entry: the space (virtual function, process) and the leaf. -/
structure TlbEntry where
  vf : Nat
  proc : Nat
  va : Nat
  leaf : Leaf
deriving DecidableEq, Repr

/-- A core (R14); steward core k is core 256 + k, the core at site s of compute die d is 64 d + s; `tenant` is that of the block
it took last (R417); `gated` counts the slots each quarter, and the takings the array, has gated in a row (R438). -/
structure CoreSt where
  id : Nat
  tenant : Nat
  l : Vector Nat 4
  arrayLast : Nat
  array : List MxOp
  overlays : List Overlay
  images : List (Nat × List W32)
  l1 : List (Nat × List Byte)
  consts : List (Nat × Nat × List Byte)
  tlb : List TlbEntry
  rbWindow : Nat
  rbCount : Nat
  rbTotal : Word
  escEnd : Nat
  svec : Word
  halted : Bool
  stlaunch : Nat
  scrubEnd : Nat
  retired : Bool
  copies : List CopyReq
  gated : Vector Nat 5 := Vector.replicate 5 0
deriving DecidableEq, Repr

/-- A bundle (R84 to R91, R302 to R306): 0 absent, 1 loading, 2 resident. -/
structure Bundle where
  handle : Nat
  launch : Nat
  tenant : Nat
  die : Nat
  lines : List Nat
  state : Nat
  entryTime : Nat
deriving DecidableEq, Repr

/-- A request that needs new bundle lines (R305): from a block's `bentr`, or from an admission, which needs its entry bundles
together (no block yet). A served admission pins its bundles until its blocks start. `kept` are the lines it shares with bundles evicted
for it, which stay resident (R304). -/
structure BundleReq where
  tenant : Nat
  die : Nat
  handles : List Nat
  blk : Option Nat
  served : Bool
  kept : List Nat := []
deriving DecidableEq, Repr

/-- A gang pipe (R53, R256 to R259, R367). -/
structure Pipe where
  depth : Nat
  popk : Nat
  pushk : Nat
  feed : Nat
  drain : Nat
  feedq : Nat
  entries : List (List Byte)
  closed : Bool
deriving DecidableEq, Repr

/-- A kernel of a launch (R367). -/
structure Kernel where
  p : Nat
  v : Nat
  s : Nat
  vbp : Nat
  vbv : Nat
  t : Nat
  lsz : Nat
  nbar : Nat
  nring : Nat
  chk : Bool
  blocks : Nat
  pentry : Nat
  ventry : Nat
  sentry : Nat
  convoys : List (Nat × List Nat)
  consts : List (Nat × Nat)
  bundles : List (Nat × Bool)
deriving DecidableEq, Repr

/-- A chunk of a grid (R27): its number, the die that owns it, the next block to issue in it, and whether one has issued (R374). -/
structure Chunk where
  c : Nat
  die : Nat
  next : Nat
  last : Nat
  issued : Bool
deriving DecidableEq, Repr

/-- A block issued for admission and not placed (R374): the dense die that issued it, its kernel and linear index. -/
structure Cand where
  die : Nat
  kernel : Nat
  lin : Nat
deriving DecidableEq, Repr

/-- A dispatched launch (R52 to R56, R366 to R369); `binds` are the slots its directives bound (R176). A steward kernel is a launch of its own (R433). -/
structure Launch where
  id : Nat
  vf : Nat
  queue : Nat
  proc : Nat
  gang : Bool
  eclass : Nat
  facnt : Nat
  farea : Nat
  cimg : Nat
  grid : Nat × Nat × Nat
  kernels : List Kernel
  pipes : List Pipe
  sigsem : Nat
  sigval : Word
  compl : Nat
  chunks : List Chunk
  unplaced : List Cand
  total : Nat
  endedBlocks : List (Nat × Nat)
  dbarDone : Vector Nat 4
  records : Nat
  started : Nat
  energy : Nat
  paused : Bool
  silent : Bool
  discarded : Bool
  binds : List Nat := []
deriving DecidableEq, Repr

/-- A block saved in a context region (R383): its number, which its bundle requests name (R382), the physical address and length of
its area, and the bundle entries it keeps (R90). -/
structure Saved where
  blk : Nat
  launch : Nat
  kernel : Nat
  lin : Nat
  vf : Nat
  area : Nat
  len : Nat
  entries : List Entry
deriving DecidableEq, Repr

/-- A work queue of a function (R365); `ready` once a read of its head packet's semaphore has met its value (R369). -/
structure Queue where
  q : Nat
  base : Word
  ctl : Word
  tail : W32
  head : W32
  stat : W32
  emit : List (List Byte)
  emitLost : Bool
  ready : Bool
  slices : Nat
  eventSent : Bool
deriving DecidableEq, Repr

/-- A process of a function: its space (R358, R363) and its weight (R372). -/
structure Proc where
  id : Nat
  ptroot : Word
  fmttab : Word
  dhva : Word
  dhstat : Word
  switched : Bool
  weight : Nat
  served : Nat
deriving DecidableEq, Repr

/-- A virtual function (R365, R404 to R406, R424); `charged` is what this energy window has charged to it (R378), `shelved` the queues that
QCOUNT has taken away, as they stand. -/
structure Vf where
  id : Nat
  tenant : Nat
  qcount : W32
  evbase : Word
  evtail : W32
  evhead : W32
  sliceshape : W32
  events : List (List Byte)
  lost : Nat
  msix : List Nat
  queues : List Queue
  remap : List (BitVec 16)
  tvec : Word
  trapen : Word
  bpa : Vector Word 2
  procs : List Proc
  procLast : Nat
  queueLast : List (Nat × Nat × Nat)
  context : Nat × Nat
  suphash : List Byte
  ifstate : Nat
  cause : Nat
  tcount : BitVec 16
  ifres : Nat
  iflkaddr : W32
  ifrep : Word
  ifnote : Word
  bars : List (Nat × Word)
  msgCtl : Word
  msixTable : Memory
  pba : Memory
  atomicEnable : Bool
  ideKeyed : Bool
  charged : Nat
  shelved : List Queue
deriving DecidableEq, Repr

/-- A graph as it runs at one fabric (R308, R310, R315, R317): the state of each node of its read and write graphs, the write
graph's node values at its last step, its emit count, and the bytes processed and whether any was dropped since its last emit. -/
structure Stream where
  fabric : Nat
  read : List W32
  write : List W32
  last : List W32
  emits : W32
  since : Nat
  dropped : Bool
deriving DecidableEq, Repr

/-- A bound stream graph (R261, R308 to R317): its image, its streams, the chunks passed since the bind (R262), and whether it has
been unbound and serves only the accesses issued before (R444). -/
structure Graph where
  slot : Nat
  vf : Nat
  image : List Byte
  streams : List Stream
  chunks : W32
  closed : Bool
deriving DecidableEq, Repr

/-- A tenant (R404, R409, R413 to R418): `imported` holds the serial and EXPCNT of each blob imported (R416), `handles` each context handle
with its function, its first EXPCNT and its blobs (R410, R415). -/
structure Tenant where
  id : Nat
  policy : Option (List Byte)
  keyHash : Option (List Byte)
  sealKey : Nat
  keyGen : Nat
  windows : List (Nat × Nat × Nat × Nat)
  graphs : List Graph
  reserved : List Nat
  exportCount : Nat
  imported : List (Nat × Nat)
  handles : List (Nat × Nat × Nat × Nat)
deriving DecidableEq, Repr

/-- An Ethernet port (R320 to R325). -/
structure Port where
  enabled : Bool
  vf : Nat
  proc : Nat
  slot : Nat
  ring : Nat
  ringLen : Nat
  wrpos : Nat
  seqn : W32
  lost : Bool
  drops : Word
  paused : Word
  sent : List (List Byte)
  frames : List (Nat × Nat × Nat)
deriving DecidableEq, Repr

/-- An access with streamed bytes, waiting for its stream (R109, R316): whose it is, the tenant, the lanes in ascending order with
what their checks found (R93), the bytes of each lane of a store, whether a load decodes formatted pages, whether it bypasses
L1, and the incarnation number of its core (R399). -/
structure StreamReq where
  id : Nat
  who : Who
  whole : Bool
  tenant : Nat
  lanes : List (Nat × List Seg)
  store : Option (List (Nat × List Byte))
  decode : Bool
  bypass : Bool
  inc : BitVec 16 := 0
deriving DecidableEq, Repr

/-- A home's record of one cache's words of a line (R386), in the order installed (R388). -/
structure Sharer where
  cache : Nat
  valid : Word
  owned : Word
deriving DecidableEq, Repr

/-- A directory entry (R386). -/
structure DirLine where
  line : Nat
  sharers : List Sharer
deriving DecidableEq, Repr

/-- A poisoned byte of memory: where, why (0 an error of R397, else the cause of R398), and the span of words. -/
structure Poison where
  pa : Nat
  cause : Nat
  first : Nat
  last : Nat
deriving DecidableEq, Repr

/-- A session of the SPDM responder (R418). -/
structure Session where
  id : Nat
  tenant : Nat
  established : Bool
  phase : Nat
deriving DecidableEq, Repr

/-- The innkeeper's own state (R407 to R419). -/
structure Innkeeper where
  cmd : Word
  done : Bool
  busy : Bool
  latched : Bool
  owners : List (Nat × Nat)
  keyHalt : Bool
  stage : Nat
  sessions : List Session
  reply : List Byte
  held : List Instr
  log : List (Nat × Nat)
  drawn : Nat
  nextHandle : Nat
deriving DecidableEq, Repr

/-- A firmware slot (R429, R434): version, signed image, and where it is entered. -/
structure FwSlot where
  bytes : List Byte
  version : Nat
deriving DecidableEq, Repr

/-- Which part of a start the package is in (R429 to R431, R434). -/
inductive Phase where
  | rom | entered | running | minimal | paused
deriving DecidableEq, Repr

/-- Firmware and start state (R429 to R435). `missed` lists the slots of earlier images that let their time for READY pass, counted at the
next reset (R435). -/
structure Firmware where
  slots : Vector FwSlot 2
  rollback : Nat
  bootwhy : Word
  fwstat : Word
  sfring : Word
  sfNext : Nat
  phase : Phase
  watchdog : Bool
  activating : Bool
  pauseEnd : Nat
  readyBy : Nat
  mcEvents : Nat
  pwrcap : W32
  missed : List Nat := []
deriving DecidableEq, Repr

/-- A die crossing or Syzin port (R400, R437). -/
structure Link where
  up : Bool
  failed : Bool
  peer : Nat
  retries : W32
  run : Nat
  tries : Nat
  lastFlit : Nat
  training : Bool
deriving DecidableEq, Repr

/-- The physical function's host registers (R407, R426), and whether its IDE stream is keyed (R419). -/
structure PhysFn where
  vfBar : Vector W32 6
  numVfs : W32
  pageSize : W32
  vfEnable : Bool
  msix : List Nat
  ideKeyed : Bool := false
deriving DecidableEq, Repr

/-- What the device last answered to a host access of its memory (R412, R421). -/
inductive HostReply where
  | none
  | data (bytes : List Byte)
  | unsupported
  | abort
deriving DecidableEq, Repr

/-- What a launch has used of a unit with a meter since the last energy sample (R378): issue slots and matrix instructions of a core, or,
once it has ended, the bytes moved for it through a memory or link. -/
structure Meter where
  core : Nat
  vf : Nat
  launch : Nat
  uses : Nat
deriving DecidableEq, Repr

/-- The whole machine. -/
structure State where
  grade : BitVec 16
  uppers : Vector Bool 4
  upper : Bool
  dieen : Vector Word 4
  serial : W32
  mypkg : Nat
  mypod : Nat
  mem : Memory
  far : Memory
  poison : List Poison
  rekeyed : List (Nat × Nat × Nat)
  dir : List DirLine
  cores : List CoreSt
  blocks : List Block
  saved : List Saved
  launches : List Launch
  bundles : List Bundle
  bundleReqs : List BundleReq
  bundleNext : Nat
  vfs : List Vf
  tenants : List Tenant
  ports : Vector Port 2
  streams : List StreamReq
  ik : Innkeeper
  fw : Firmware
  links : List (Nat × Link)
  incarnations : List (Nat × BitVec 16)
  fenced : List Nat
  responses : List Nat
  nacked : List Nat
  cohLog : List (Nat × Nat × Nat)
  pf : PhysFn
  globalWrites : List Nat
  retiring : List Nat
  hostReply : HostReply
  cxl : Bool
  sliceHolder : Nat
  sliceOn : Bool
  sliceStart : Nat
  gateCap : Bool
  gateHot : List Nat
  energyWin : Nat
  samples : Nat
  polls : Nat
  meters : List Meter
  steward : Nat
  clk : Nat
  ptpSec : Nat
  ptpNs : Nat
  ptpClk : Nat
  agenda : List Instr
  turn : Nat
  cur : Who
  nextId : Nat
  free : Nat
deriving DecidableEq, Repr

/-- A v register of zeros. -/
def VReg.zero : VReg := Vector.replicate 32 0
/-- A tile of zeros. -/
def Tile.zero : Tile := Vector.replicate 64 (Vector.replicate 64 0)

/-- Registers as a block start leaves them, before pc and GS are set (R146, R289). -/
def CRegs.start (pc gs : Word) : CRegs :=
  { pc := pc, v := Vector.replicate 64 VReg.zero, s := Vector.replicate 64 0, s2 := Vector.replicate 8 0,
    p := Vector.replicate 7 0, c := Vector.replicate 4 false, m := BitVec.allOnes 32, e := 0, stack := [], gs := gs }

/-- An epoch opened at a checkpoint. -/
def Epoch.start (snap : CRegs) : Epoch :=
  { snap := snap, closed := false, count := 0, acts := [], marks := [], vw := [], pend := [], target := false }

/-- A caravan at its first instruction (R146, R162, R329). -/
def Caravan.start (n : Nat) (vector : Bool) (pc gs cst : Word) (vb quarter slot : Nat) : Caravan :=
  { n := n, vector := vector, regs := CRegs.start pc gs, cst := cst, vb := vb, epc := 0, ecst := 0, emask := 0,
    frec := Vector.replicate 8 0, nobp := false, hints := [], status := .running, scope := Vector.replicate 6 0,
    phase := none, epochs := [Epoch.start (CRegs.start pc gs)], rbCur := 0, rbEsc := false, rbTotal := 0, fix := [],
    nextIssue := 0, quarter := quarter, slot := slot, wfe := none, io := none, multi := none }

/-- A sequencer at its first instruction (R146, R265). -/
def Sequencer.start (pc : Word) : Sequencer :=
  { pc := pc, g := Vector.replicate 16 0, c := Vector.replicate 4 false, cv := Vector.replicate 4 0, given := false,
    hints := [], status := .running, scope := Vector.replicate 6 0, phase := none, fix := [], yield := 0, nextIssue := 0 }

/-- A ring before `ring.init` (R146, R239). -/
def Ring.empty : Ring :=
  { init := 0, acquired := 0, published := 0, taken := 0, released := 0, states := Vector.replicate 16 0,
    tags := Vector.replicate 16 0, shifts := [] }

/-- A barrier before `bar.init` (R146). -/
def Barrier.empty : Barrier := { n := 0, count := 0, p := 0 }

/-- A core with nothing in it (R14, R376). -/
def CoreSt.empty (id : Nat) : CoreSt :=
  { id := id, tenant := 0, l := Vector.replicate 4 7, arrayLast := 3, array := [], overlays := [], images := [], l1 := [],
    consts := [], tlb := [], rbWindow := 0, rbCount := 0, rbTotal := 0, escEnd := 0, svec := 0, halted := false,
    stlaunch := 0, scrubEnd := 0, retired := false, copies := [] }

/-- The block that stands on steward core `k` after reset: one vector caravan at level 2 (R329, R429; log 3), its generator seeded as
R135 says for kernel 0, block k and caravan 0. -/
def Block.boot (k : Nat) : Block :=
  { id := k, launch := 0, kernel := 0, lin := k, core := 256 + k, slot := 0, porters := 0, vectors := 1, tilesPer := 0,
    vbp := 8, vbv := 64, nbar := 0, nring := 0, lsg := 0,
    cars := [{ Caravan.start 0 true 0 (BitVec.ofNat 64 (64 * k + 1) * 0x9E3779B97F4A7C15) 0x20 64 0 0 with status := if k = 0 then .running else .waiting .halt }],
    seq := none, tiles := Vector.replicate 32 Tile.zero, ls := [], lsPoison := [], rings := Vector.replicate 8 Ring.empty,
    bars := Vector.replicate 64 Barrier.empty, entries := [], convoys := [none, none, none, none], closing := none, ended := false }

/-- The kernel of the boot blocks (log 3). -/
def Kernel.boot : Kernel :=
  { p := 0, v := 1, s := 0, vbp := 8, vbv := 64, t := 0, lsz := 0, nbar := 0, nring := 0, chk := false, blocks := 8,
    pentry := 0, ventry := 0, sentry := 0, convoys := [], consts := [], bundles := [] }

/-- The standing record of the boot blocks: launch 0, which never completes (log 3). -/
def Launch.boot : Launch :=
  { id := 0, vf := 64, queue := 0, proc := 0, gang := true, eclass := 0, facnt := 0, farea := 0, cimg := 0, grid := (8, 1, 1),
    kernels := [Kernel.boot], pipes := [], sigsem := 0, sigval := 0, compl := 0, chunks := [], unplaced := [],
    total := 8, endedBlocks := [], dbarDone := Vector.replicate 4 0, records := 0, started := 0, energy := 0,
    paused := false, silent := false, discarded := false }

/-- A virtual function after reset (R365, R332, R424). -/
def Vf.reset (id : Nat) : Vf :=
  { id := id, tenant := 0, qcount := 0, evbase := 0, evtail := 0, evhead := 0, sliceshape := 0, events := [], lost := 0,
    msix := [], queues := [], remap := [], tvec := 0, trapen := 0, bpa := Vector.replicate 2 0, procs := [], procLast := 0,
    queueLast := [], context := (0, 0), suphash := [], ifstate := 0, cause := 0, tcount := 0, ifres := 0, iflkaddr := 0,
    ifrep := 0, ifnote := 0, bars := [], msgCtl := 0, msixTable := [], pba := [], atomicEnable := false, ideKeyed := false,
    charged := 0, shelved := [] }

/-- The steward's standing space, as a function of its own: number 64, one process 0 (log 8). -/
def Vf.steward : Vf :=
  { Vf.reset 64 with
    procs := [{ id := 0, ptroot := 0, fmttab := 0, dhva := 0, dhstat := 0, switched := false, weight := 1, served := 0 }] }

/-- A port after reset (R320, R321): not enabled. -/
def Port.reset : Port :=
  { enabled := false, vf := 0, proc := 0, slot := 0, ring := 0, ringLen := 0, wrpos := 0, seqn := 0, lost := false,
    drops := 0, paused := 0, sent := [], frames := [] }

/-- A link after reset (R400, R437): crossings up, Syzin ports not trained. -/
def Link.reset (up : Bool) : Link :=
  { up := up, failed := false, peer := 0, retries := 0, run := 0, tries := 0, lastFlit := 0, training := false }

/-- The innkeeper after reset (R407). -/
def Innkeeper.reset : Innkeeper :=
  { cmd := 0, done := false, busy := false, latched := false, owners := [], keyHalt := false, stage := 0, sessions := [],
    reply := [], held := [], log := [], drawn := 0, nextHandle := 1 }

/-- Firmware state at power-on (R430, R431, R438): BOOTWHY 0, PWRCAP 2,600; both slots empty (log 4). -/
def Firmware.reset : Firmware :=
  { slots := Vector.replicate 2 { bytes := [], version := 0 }, rollback := 0, bootwhy := 0, fwstat := 0, sfring := 0,
    sfNext := 0, phase := .rom, watchdog := false, activating := false, pauseEnd := 0, readyBy := 0, mcEvents := 0, pwrcap := 2600 }

/-- The physical function's registers (log 3). -/
def PhysFn.reset : PhysFn :=
  { vfBar := Vector.replicate 6 0, numVfs := 0, pageSize := 1, vfEnable := false, msix := [] }

/-- The machine right after package reset: a VX2-176 with upper dies in use, the boot ROM about to run on steward core 0
(R429), no tenant, no launch, memory with nothing listed. Values the spec leaves open are those of logs 2 to 6. -/
def State.reset : State :=
  { grade := 176, uppers := Vector.replicate 4 true, upper := true, dieen := Vector.replicate 4 0x00000FFFFFFFFFFF, serial := 0, mypkg := 0, mypod := 0,
    mem := [], far := [], poison := [], rekeyed := [], dir := [],
    cores := (List.range 8).map (fun k => CoreSt.empty (256 + k)) ++
      (List.range 4).flatMap (fun d => (List.range 44).map (fun i => CoreSt.empty (64 * d + i))),
    blocks := (List.range 8).map Block.boot, saved := [], launches := [Launch.boot], bundles := [], bundleReqs := [],
    bundleNext := 1, vfs := (List.range 64).map Vf.reset ++ [Vf.steward], tenants := [], ports := Vector.replicate 2 Port.reset,
    streams := [], ik := Innkeeper.reset, fw := Firmware.reset,
    links := (List.range 26).map (fun i => (i, Link.reset (16 ≤ i))), incarnations := [], fenced := [], responses := [],
    nacked := [], cohLog := [], pf := PhysFn.reset, globalWrites := [], retiring := [], hostReply := .none, cxl := false, sliceHolder := 0, sliceOn := false, sliceStart := 0,
    gateCap := false, gateHot := [], energyWin := 0, samples := 0, polls := 0, meters := [], steward := 0, clk := 0, ptpSec := 0, ptpNs := 0, ptpClk := 0,
    agenda := [], turn := 0, cur := .car 0 0, nextId := 8, free := 0 }

end Sys2Proof.Machine
end

