-- ==== Sys2Proof/Machine/Base.lean ====
section
/-! DEFINITION. Finding and changing the parts of State, memory as bytes (R5), and numbers read from bytes and words. -/
namespace Sys2Proof.Machine
open Sys2Proof

/-- The outcome of a step of this machine. -/
abbrev Out := Host.Outcome State Fault Refusal

/-! ## Numbers and bytes -/

/-- A number's n bytes, low byte first (R5). -/
def leBytes : Nat → Nat → List Byte
  | 0, _ => []
  | n + 1, x => BitVec.ofNat 8 x :: leBytes n (x / 256)

/-- The number some bytes hold, low byte first (R5). -/
def leNat : List Byte → Nat
  | [] => 0
  | b :: bs => b.toNat + 256 * leNat bs

/-- Bits hi to lo of a number. -/
def bitsOf (x hi lo : Nat) : Nat := x / 2 ^ lo % 2 ^ (hi - lo + 1)

/-- The n bytes from place i of a byte list, zeros past its end, as a number. -/
def fieldAt (bs : List Byte) (i n : Nat) : Nat := leNat ((bs.drop i).take n)

/-- A w-bit number read as two's complement (R6). -/
def sInt (w x : Nat) : Int := if x % 2 ^ w < 2 ^ (w - 1) then (x % 2 ^ w : Int) else (x % 2 ^ w : Int) - 2 ^ w

/-- An integer's w low bits (R6). -/
def wrapInt (w : Nat) (x : Int) : Nat := (x % (2 ^ w : Int)).toNat

/-- An image's words, as the scratchpad holds them. -/
def imageWords (bytes : List Byte) : List W32 :=
  (List.range (bytes.length / 4)).map (fun i => BitVec.ofNat 32 (fieldAt bytes (4 * i) 4))

/-- Keep an item at most once. -/
def insertNew {α : Type} [DecidableEq α] (x : α) (l : List α) : List α := if x ∈ l then l else x :: l

/-- The members of both lists, the second's first. -/
def addAll {α : Type} [DecidableEq α] (xs l : List α) : List α := xs.foldl (fun acc x => insertNew x acc) l

/-- An item put before the first that it does not come after. -/
def insertBy {α : Type} (le : α → α → Bool) (x : α) : List α → List α
  | [] => [x]
  | y :: ys => if le x y then x :: y :: ys else y :: insertBy le x ys

/-- A list in ascending order, items that compare alike in the order they had. -/
def sortBy {α : Type} (le : α → α → Bool) (l : List α) : List α := l.foldr (insertBy le) []
/-- Numbers in ascending order. -/
def sortNat (l : List Nat) : List Nat := sortBy (fun a b => a ≤ b) l

/-- The integer square root of n that agrees with r above its low b bits. -/
def sqrtFrom : Nat → Nat → Nat → Nat
  | 0, _, r => r
  | b + 1, n, r => sqrtFrom b n (if (r + 2 ^ b) * (r + 2 ^ b) ≤ n then r + 2 ^ b else r)
/-- The integer square root, rounded down. -/
def isqrt (n : Nat) : Nat := sqrtFrom (Nat.log2 n / 2 + 1) n 0

/-- Is bit t of a mask set? -/
def bitAt (m : W32) (t : Nat) : Bool := m.getLsbD t

/-- The mask of the threads a test holds of. -/
def maskOf (f : Nat → Bool) : W32 :=
  (List.range 32).foldl (fun m t => if f t then m ||| BitVec.ofNat 32 (2 ^ t) else m) 0

/-- The threads of a mask, ascending. -/
def lanesOf (m : W32) : List Nat := (List.range 32).filter (bitAt m)

/-- Item i of a vector, the first where i is out of range. -/
def vget {α : Type} {n : Nat} (v : Vector α (n + 1)) (i : Nat) : α :=
  v.get ⟨i % (n + 1), Nat.mod_lt _ (Nat.succ_pos n)⟩

/-- A vector with item i replaced; unchanged where i is out of range. -/
def vset {α : Type} {n : Nat} (v : Vector α n) (i : Nat) (x : α) : Vector α n :=
  if h : i < n then v.set i x h else v

/-! ## Memory -/

/-- What a byte that no cell lists reads as: zero (DESIGN CHOICE, log 2). -/
def unlistedByte : Byte := 0

/-- The byte at an address. -/
def Memory.read : Memory → Nat → Byte
  | [], _ => unlistedByte
  | (a, b) :: m, x => if a = x then b else Memory.read m x

/-- A cell put in its place by address. -/
def Memory.insert : Memory → Nat → Byte → Memory
  | [], x, b => [(x, b)]
  | (a, c) :: m, x, b => if x < a then (x, b) :: (a, c) :: m else (a, c) :: Memory.insert m x b

/-- A memory with one byte written, in its canonical form. -/
def Memory.write (m : Memory) (x : Nat) (b : Byte) : Memory :=
  let rest : Memory := m.filter (fun c => c.1 != x)
  if b = unlistedByte then rest else Memory.insert rest x b

/-- The canonical form: addresses strictly rising, no cell equal to what an unlisted address reads as. -/
def Memory.wf : Memory → Bool
  | [] => true
  | [(_, b)] => b != unlistedByte
  | (a, b) :: (a', b') :: m => b != unlistedByte && a < a' && Memory.wf ((a', b') :: m)

/-- n bytes from an address. -/
def Memory.readN (m : Memory) (a n : Nat) : List Byte := (List.range n).map (fun i => m.read (a + i))

/-- A run of bytes written from an address, ascending. -/
def Memory.writeN : Memory → Nat → List Byte → Memory
  | m, _, [] => m
  | m, a, b :: bs => Memory.writeN (m.write a b) (a + 1) bs

/-- A memory without the cells of a range. -/
def Memory.erase (m : Memory) (lo hi : Nat) : Memory := m.filter (fun c => c.1 < lo || hi ≤ c.1)

/-! ## Finding and changing parts of the state -/

/-- The block numbered b. -/
def State.block? (s : State) (b : Nat) : Option Block := s.blocks.find? (fun x => x.id == b)
/-- Change block b. -/
def State.modBlock (s : State) (b : Nat) (f : Block → Block) : State :=
  { s with blocks := s.blocks.map (fun x => if x.id == b then f x else x) }
/-- Caravan n of a block. -/
def Block.car? (x : Block) (n : Nat) : Option Caravan := x.cars.find? (fun c => c.n == n)
/-- Change caravan n of a block. -/
def Block.modCar (x : Block) (n : Nat) (f : Caravan → Caravan) : Block :=
  { x with cars := x.cars.map (fun c => if c.n == n then f c else c) }
/-- Caravan n of block b. -/
def State.car? (s : State) (b n : Nat) : Option Caravan := (s.block? b).bind (fun x => x.car? n)
/-- Change caravan n of block b. -/
def State.modCar (s : State) (b n : Nat) (f : Caravan → Caravan) : State := s.modBlock b (fun x => x.modCar n f)
/-- The sequencer of block b. -/
def State.seq? (s : State) (b : Nat) : Option Sequencer := (s.block? b).bind (fun x => x.seq)
/-- Change the sequencer of block b. -/
def State.modSeq (s : State) (b : Nat) (f : Sequencer → Sequencer) : State :=
  s.modBlock b (fun x => { x with seq := x.seq.map f })
/-- The core numbered c. -/
def State.core? (s : State) (c : Nat) : Option CoreSt := s.cores.find? (fun x => x.id == c)
/-- Change core c. -/
def State.modCore (s : State) (c : Nat) (f : CoreSt → CoreSt) : State :=
  { s with cores := s.cores.map (fun x => if x.id == c then f x else x) }
/-- The launch with a handle. -/
def State.launch? (s : State) (l : Nat) : Option Launch := s.launches.find? (fun x => x.id == l)
/-- Change launch l. -/
def State.modLaunch (s : State) (l : Nat) (f : Launch → Launch) : State :=
  { s with launches := s.launches.map (fun x => if x.id == l then f x else x) }
/-- A virtual function. -/
def State.vf? (s : State) (v : Nat) : Option Vf := s.vfs.find? (fun x => x.id == v)
/-- Change virtual function v. -/
def State.modVf (s : State) (v : Nat) (f : Vf → Vf) : State :=
  { s with vfs := s.vfs.map (fun x => if x.id == v then f x else x) }
/-- A tenant. -/
def State.tenant? (s : State) (t : Nat) : Option Tenant := s.tenants.find? (fun x => x.id == t)
/-- Change tenant t. -/
def State.modTenant (s : State) (t : Nat) (f : Tenant → Tenant) : State :=
  { s with tenants := s.tenants.map (fun x => if x.id == t then f x else x) }
/-- A process of a function. -/
def Vf.proc? (v : Vf) (p : Nat) : Option Proc := v.procs.find? (fun x => x.id == p)
/-- Change a process of a function. -/
def State.modProc (s : State) (v p : Nat) (f : Proc → Proc) : State :=
  s.modVf v (fun x => { x with procs := x.procs.map (fun q => if q.id == p then f q else q) })
/-- A queue of a function. -/
def Vf.queue? (v : Vf) (q : Nat) : Option Queue := v.queues.find? (fun x => x.q == q)
/-- Change a queue of a function. -/
def State.modQueue (s : State) (v q : Nat) (f : Queue → Queue) : State :=
  s.modVf v (fun x => { x with queues := x.queues.map (fun y => if y.q == q then f y else y) })
/-- A bundle. -/
def State.bundle? (s : State) (h : Nat) : Option Bundle := s.bundles.find? (fun x => x.handle == h)
/-- Change a bundle. -/
def State.modBundle (s : State) (h : Nat) (f : Bundle → Bundle) : State :=
  { s with bundles := s.bundles.map (fun x => if x.handle == h then f x else x) }
/-- Put an event last on the agenda. -/
def State.queueEvent (s : State) (i : Instr) : State := { s with agenda := s.agenda ++ [i] }

/-! ## Gating (R438, R439) -/

/-- Are issue slots gated: the average has not fallen under the cap (R438), or a die is hot, which gates as that does (R439)? -/
def State.gating (s : State) : Bool := s.gateCap || !s.gateHot.isEmpty

/-- Is a slot of a core's path gated, 0 to 3 a quarter's issue slot and 4 a taking of its array: a free choice (log 33), but never the eighth
in a row, since at most 7 of every 8 are (R438)? -/
def State.gates (s : State) (core path : Nat) : Bool :=
  s.gating && (match s.core? core with | some k => vget k.gated path < 7 | none => false) && Config.gates s.free

/-- A slot of a path has been gated, or has not: the count of those in a row, and the free choice used. -/
def State.noteGate (s : State) (core path : Nat) (gated : Bool) : State :=
  if s.gating then
    ({ s with free := s.free + 1 } : State).modCore core (fun k => { k with gated := vset k.gated path (if gated then vget k.gated path + 1 else 0) })
  else s

/-! ## Convoy groups (R50, R51) -/

/-- The blocks joined to some by convoys (R50), after n rounds. -/
def groupFrom (cs : List (Nat × List Nat)) : Nat → List Nat → List Nat
  | 0, g => g
  | n + 1, g => groupFrom cs n (cs.foldl (fun acc c => if c.2.any (fun m => acc.contains m) then addAll c.2 acc else acc) g)
/-- The convoy group of a block, ascending (R50). -/
def Kernel.group (k : Kernel) (lin : Nat) : List Nat := sortNat (groupFrom k.convoys k.convoys.length [lin])

/-- The kernel of a block. -/
def State.kernelOf (s : State) (launch kernel : Nat) : Option Kernel := (s.launch? launch).bind (fun l => l.kernels[kernel]?)

/-- Has a gang been admitted, so that its feeds and drains are attached (R327), be it resident or saved? One that is discarded is so while a
block of it has not ended. -/
def State.attached (s : State) (l : Launch) : Bool :=
  l.gang && l.unplaced.isEmpty && (!l.discarded || s.blocks.any (fun x => x.launch == l.id && !x.ended))
/-- Is a gang resident, so that a feed queue's entries go into its pipe (R317, R367): admitted, and not pre-empted? -/
def State.residentGang (s : State) (l : Launch) : Bool := s.attached l && !(s.saved.any (fun v => v.launch == l.id))

/-- Does a block still hold its core's resources (R46, R51): it has not ended, or a block of its convoy group has not, be that one
resident, saved or about to be read back? -/
def State.holds (s : State) (x : Block) : Bool :=
  !x.ended || (match s.launch? x.launch with
    | some l => (match l.kernels[x.kernel]? with
      | some k => k.convoys.any (fun c => c.2.contains x.lin) &&
          (k.group x.lin).any (fun lin => !(l.endedBlocks.contains (x.kernel, lin)))
      | none => false)
    | none => false)

/-- The die a core is on: 0 to 3, or 4 for the hub. -/
def dieOf (core : Nat) : Nat := core / 64
/-- Is a core a steward core? -/
def isSteward (core : Nat) : Bool := 256 ≤ core

/-- Local-store bytes of a core (R18). -/
def State.lscap (s : State) : Nat := if s.upper then 0x400000 else 0x200000

/-! ## Bytes at their places -/

/-- Is a physical address in the first or second tier of this package (R351)? -/
def tierOf (pa : Nat) : Option Nat :=
  if pa < 0x8000000000 then some 1
  else if 0x10000000000 ≤ pa && pa < 0x30000000000 then some 2
  else none

/-- The byte of memory at a physical address: a free value where a discarded key leaves it unpredictable (R414). -/
def State.memByte (s : State) (pa : Nat) : Byte :=
  match s.rekeyed.find? (fun r => r.1 ≤ pa && pa < r.2.1) with
  | some r => Config.freeByte (r.2.2 * 2 ^ 52 + pa)
  | none => s.mem.read pa

/-- The byte at a place. -/
def State.peek (s : State) : Loc → Byte
  | .glob pa => s.memByte pa
  | .ls b o => match s.block? b with | some x => x.ls.read o | none => 0

/-- A place n bytes on. -/
def Loc.add : Loc → Nat → Loc
  | .glob pa, n => .glob (pa + n)
  | .ls b o, n => .ls b (o + n)

/-- The aligned word a place lies in. -/
def Loc.word : Loc → Loc
  | .glob pa => .glob (pa / 4 * 4)
  | .ls b o => .ls b (o / 4 * 4)

/-- The aligned 64-byte chunk a place lies in (R99). -/
def Loc.chunk : Loc → Loc
  | .glob pa => .glob (pa / 64 * 64)
  | .ls b o => .ls b (o / 64 * 64)

/-- The words n bytes from a place touch. -/
def wordsFrom (l : Loc) (n : Nat) : List Loc :=
  (List.range n).foldl (fun acc i => insertNew (l.add i).word acc) []

/-- Remove one byte from the free ranges of discarded keys: it has been written under the new key. -/
def unkey (l : List (Nat × Nat × Nat)) (pa : Nat) : List (Nat × Nat × Nat) :=
  l.flatMap (fun r => if r.1 ≤ pa && pa < r.2.1 then
    [(r.1, pa, r.2.2), (pa + 1, r.2.1, r.2.2)].filter (fun x => x.1 < x.2.1) else [r])

/-- Write bytes of global memory: the bytes' poison clears (R397). -/
def State.writeMem (s : State) (pa : Nat) (bs : List Byte) : State :=
  { s with
    mem := s.mem.writeN pa bs
    rekeyed := if s.rekeyed.isEmpty then [] else (List.range bs.length).foldl (fun r i => unkey r (pa + i)) s.rekeyed
    poison := s.poison.filter (fun p => p.pa < pa || pa + bs.length ≤ p.pa) }

/-- Write bytes at a place, with no effect on any other agent. -/
def State.poke (s : State) (l : Loc) (bs : List Byte) : State :=
  match l with
  | .glob pa => s.writeMem pa bs
  | .ls b o => s.modBlock b (fun x =>
      { x with ls := x.ls.writeN o bs, lsPoison := x.lsPoison.filter (fun p => p < o || o + bs.length ≤ p) })

/-- Bytes from a place. -/
def State.peekN (s : State) (l : Loc) (n : Nat) : List Byte := (List.range n).map (fun i => s.peek (l.add i))

/-- The poison a byte carries: none, or its record (cause 0 for R397). -/
def State.poisonAt (s : State) : Loc → Option Poison
  | .glob pa => s.poison.find? (fun p => p.pa == pa)
  | .ls b o => match s.block? b with
    | some x => if o ∈ x.lsPoison then some { pa := o, cause := 0, first := 0, last := 0 } else none
    | none => none

/-- A number held in memory. -/
def State.memNat (s : State) (pa n : Nat) : Nat := leNat ((List.range n).map (fun i => s.memByte (pa + i)))

/-- The incarnation number of a source (R399). -/
def State.incarnation (s : State) (source : Nat) : BitVec 16 :=
  match s.incarnations.find? (fun x => x.1 == source) with | some x => x.2 | none => 0

/-- The owner of a frame of this package's tiers: a tenant, or 0 for the steward (R411). -/
def State.ownerOf (s : State) (pa : Nat) : Nat :=
  match s.ik.owners.find? (fun o => o.1 == pa / 0x80000) with | some o => o.2 | none => 0

/-! ## A tenant's policy (R409) -/

/-- A field of an installed policy. -/
def Tenant.policyField (t : Tenant) (i n : Nat) : Nat := match t.policy with | some p => fieldAt p i n | none => 0
/-- The policy field of a function's tenant. -/
def State.vfPolicy (s : State) (v i n : Nat) : Nat :=
  match s.vf? v with
  | some f => match s.tenant? f.tenant with | some t => t.policyField i n | none => 0
  | none => 0
/-- Is the function time-shared (R409 FLAGS bit 0)? -/
def State.timeShared (s : State) (v : Nat) : Bool := s.vfPolicy v 23 1 % 2 == 1
/-- BUDGET of a function's policy (R409). -/
def State.budget (s : State) (vf : Nat) : Nat := s.vfPolicy vf 44 4
/-- A function's remaining energy (R378): BUDGET minus its charges in the window, never below 0. -/
def State.energyLeft (s : State) (f : Vf) : Nat := s.budget f.id - f.charged
/-- The entries of a function's remap table (R406), dense core number first. -/
def Vf.dense (v : Vf) : List (Nat × Nat) :=
  (v.remap.zipIdx).filterMap (fun x => if x.1.getLsbD 15 then some (x.2, 64 * bitsOf x.1.toNat 9 8 + bitsOf x.1.toNat 5 0) else none)

/-- The physical dies of a slice, ascending: dense die i is item i (R405). -/
def Vf.dies (v : Vf) : List Nat := (List.range 4).filter (fun d => v.remap.any (fun e => bitsOf e.toNat 9 8 == d))

/-- Bundle quota of a tenant on a physical die, in lines (R87). -/
def Tenant.quota (t : Tenant) (die : Nat) : Nat := t.policyField (24 + 4 * die) 4

end Sys2Proof.Machine
end

