-- ==== Sys2Proof/Machine/Xlate.lean ====
section
/-! DEFINITION. Physical addresses, the tree walk, TLBs and pod windows (R62, R63, R351 to R362). -/
namespace Sys2Proof.Machine
open Sys2Proof

/-- What a physical address reaches (R351). -/
inductive Kind where
  | tier1 | tier2 | pod (pkg : Nat) | host | mmio | window (i : Nat) | unassigned
deriving DecidableEq, Repr

/-- The kind of a physical address (R351). -/
def kindOf (pa : Nat) : Kind :=
  if pa < 0x8000000000 then .tier1
  else if 0x10000000000 ≤ pa && pa < 0x30000000000 then .tier2
  else if 0x1000000000000 ≤ pa && pa < 0x2000000000000 then
    (if (tierOf (pa % 2 ^ 44)).isSome then .pod (bitsOf pa 47 44) else .unassigned)
  else if 0x2000000000000 ≤ pa && pa < 0x3000000000000 then .host
  else if 0x3000000000000 ≤ pa && pa < 0x3000100000000 then .mmio
  else if 0x4000000000000 ≤ pa && pa < 0x8000000000000 then
    (if (tierOf (pa % 2 ^ 44)).isSome then .window (bitsOf pa 49 44) else .unassigned)
  else .unassigned

/-- Is an address device memory of this package? -/
def inTiers (pa : Nat) : Bool := (tierOf pa).isSome

/-- A walk's answer: a leaf, or a fault code and sub-reason (R356). -/
inductive Walk where
  | leaf (l : Leaf)
  | bad (code sub : Nat)
deriving DecidableEq, Repr

/-- PAGE_NOT_PRESENT, sub-reason 1 (R356). -/
def Walk.absent : Walk := .bad 0x10 1
/-- PERMISSION, sub-reason 1 (R356, R357). -/
def Walk.denied : Walk := .bad 0x11 1

/-- Page size of a leaf at a level (R353). -/
def pageSize (level : Nat) : Nat := 2 ^ (19 + 10 * level)
/-- Index of an address in a level's table (R353). -/
def tableIndex (level va : Nat) : Nat :=
  match level with
  | 0 => bitsOf va 28 19
  | 1 => bitsOf va 38 29
  | 2 => bitsOf va 47 39
  | _ => bitsOf va 56 48
/-- Size and alignment of a level's table (R353). -/
def tableSize (level : Nat) : Nat := if level ≤ 1 then 0x4000 else 0x2000

/-- The first address of the local-store region: from it on nothing is translated (R63, R353). -/
def localRegion : Nat := 0x01F0000000000000

/-- Does a tenant own every frame of a range (R357, R411)? -/
def State.ownsAll (s : State) (tenant lo size : Nat) : Bool :=
  (List.range (size / 0x80000)).all (fun i => s.ownerOf (lo + 0x80000 * i) == tenant)

/-- A leaf entry decoded (R355, R351, R352, R357, R362). Every frame of the page must be the tenant's, whichever of them is accessed
(R357). A valid leaf on pod memory with a stream slot fails before the owners are looked at (R93, R356), unless it carries a format
index too (R82). -/
def readLeaf (s : State) (tenant : Nat) (switched : Bool) (level va lo hi : Nat) : Walk :=
  let frame := bitsOf lo 52 20 * 2 ^ 19
  let frame2 := bitsOf hi 52 20 * 2 ^ 19
  let slot := bitsOf lo 17 14
  let fmt := bitsOf lo 13 8
  let dh := bitsOf lo 6 6 == 1
  let w := bitsOf lo 3 3 == 1
  let r := bitsOf lo 2 2 == 1
  let trk := bitsOf lo 5 5 == 1
  let kind := kindOf frame
  let size := pageSize level
  let special := kind == .host || kind == .mmio
  let zeros := bitsOf hi 63 53 == 0 && bitsOf hi 19 0 == 0 && bitsOf lo 63 61 == 0 && bitsOf lo 19 18 == 0 && bitsOf lo 7 7 == 0
  let dhOk := if dh then frame != frame2 && inTiers frame && inTiers frame2 && frame2 % size == 0
      && s.ownsAll tenant frame size && s.ownsAll tenant frame2 size && slot == 0 else frame2 == 0
  let win : Option (Nat × Nat × Nat × Nat) := match kind with
    | .window i => match s.tenant? tenant with
      | some t => t.windows.find? (fun x => x.1 == i)
      | none => none
    | _ => none
  let windowOk : Bool := match kind with
    | .window _ => (match win with | some x => x.2.1 != s.mypod | none => false) && fmt == 0 && slot == 0
    | _ => true
  let podOk := match kind with | .pod p => p != s.mypkg | _ => true
  let ifBlock := 0x3000000100000 ≤ frame + size - 1 && frame ≤ 0x3000000103FFF
  if 3 ≤ level || !zeros || frame % size != 0 || kind == .unassigned || !podOk || !windowOk || !dhOk || (w && !r)
      || (special && (fmt != 0 || slot != 0)) || (kind == .mmio && trk) || ifBlock then .absent
  else if (match kind with | .pod _ => slot != 0 && fmt == 0 | _ => false) then .bad 0x10 4
  else if bitsOf lo 60 53 != tenant then .denied
  else if inTiers frame && !(s.ownsAll tenant frame size) then .denied
  else
    .leaf { base := va - va % size, size := size, pa := if dh && switched then frame2 else frame,
            pa2 := if dh then some (if switched then frame else frame2) else none, slot := slot, fmt := fmt,
            tracked := trk && !special, sup := bitsOf lo 4 4 == 1, w := w, r := r, far := win.map (·.2) }

/-- The walk from a level's table down (R353, R354, R356, R357). -/
def walkFrom (s : State) (tenant : Nat) (switched : Bool) (va : Nat) : Nat → Nat → Walk
  | level, table =>
    if s.ownerOf table != tenant then .denied
    else
      let lo := s.memNat (table + 16 * tableIndex level va) 8
      let hi := s.memNat (table + 16 * tableIndex level va + 8) 8
      if lo % 2 == 0 then .absent
      else if bitsOf lo 1 1 == 1 then readLeaf s tenant switched level va lo hi
      else match level with
        | 0 => .absent
        | l + 1 =>
          let next := bitsOf lo 51 13 * 2 ^ 13
          if hi != 0 || bitsOf lo 63 52 != 0 || bitsOf lo 12 2 != 0 || next % tableSize l != 0 || !inTiers next then .absent
          else walkFrom s tenant switched va l next

/-- The number that stands for the steward's standing space where a virtual function is named. -/
def stewardVf : Nat := 64

/-- The steward's standing space: steward memory at its own addresses, and the interface blocks' page (chapter 21; log 8). -/
def stewardWalk (s : State) (va : Nat) : Walk :=
  let base := va / 0x80000 * 0x80000
  if inTiers va then
    (if s.ownerOf va == 0 then
      .leaf { base := base, size := 0x80000, pa := base, pa2 := none, slot := 0, fmt := 0, tracked := true, sup := false,
              w := true, r := true, far := none }
     else .denied)
  else if base == 0x7F0000000000 then
    .leaf { base := base, size := 0x80000, pa := 0x3000000100000, pa2 := none, slot := 0, fmt := 0, tracked := false, sup := true,
            w := true, r := true, far := none }
  else .absent

/-- The walk of an address in a space (R353); the local-store region is never translated. -/
def State.walk (s : State) (vf proc va : Nat) : Walk :=
  if vf == stewardVf then stewardWalk s va
  else if localRegion ≤ va then .absent
  else match s.vf? vf with
    | none => .absent
    | some f => match f.proc? proc with
      | none => .absent
      | some p => walkFrom s f.tenant p.switched va 3 (bitsOf p.ptroot.toNat 51 13 * 2 ^ 13)

/-- The translation a core uses: its TLB's entry, or a walk (R359, R360). -/
def State.lookup (s : State) (core vf proc va : Nat) : Walk :=
  match (s.core? core).bind (fun c => c.tlb.find? (fun e => e.vf == vf && e.proc == proc && e.va ≤ va && va < e.va + e.leaf.size)) with
  | some e => .leaf e.leaf
  | none => s.walk vf proc va

/-- A core's TLB after an address has been translated: at most 512 entries, the oldest making room (R359). -/
def State.fillTlb (s : State) (core vf proc va : Nat) : State :=
  match s.core? core with
  | none => s
  | some c =>
    if c.tlb.any (fun e => e.vf == vf && e.proc == proc && e.va ≤ va && va < e.va + e.leaf.size) then s
    else match s.walk vf proc va with
      | .leaf l => s.modCore core (fun x => { x with tlb := ({ vf := vf, proc := proc, va := l.base, leaf := l } :: x.tlb).take 512 })
      | .bad _ _ => s

/-- The physical address an address of a leaf's page reaches. -/
def Leaf.paOf (l : Leaf) (va : Nat) : Nat := l.pa + (va - l.base)
/-- The second home of an address, in a dual-home window (R362). -/
def Leaf.secondOf (l : Leaf) (va : Nat) : Option Nat := l.pa2.map (· + (va - l.base))

/-- Does the home package of a frame of pod memory refuse it (R357): is its owner there another than the tenant? -/
def State.podForeign (s : State) (tenant pa : Nat) : Bool :=
  match kindOf pa with
  | .pod pkg => Config.podOwner s.mypod pkg (pa % 2 ^ 44 / 0x80000) != tenant
  | _ => false

/-- A function's tenant, 0 for the steward's standing space. -/
def State.vfTenant (s : State) (vf : Nat) : Nat := match s.vf? vf with | some f => f.tenant | none => 0

/-- A device agent's own translation of an address of a process: no level check, since SUP pages are the supervisor's own
data; reading needs R, writing W (R355, R367). The local-store region is not translated (R353), only `cpy.g2g` reaches a page of
another pod (R352), and a frame of the pod is checked by its home package (R357). -/
def State.deviceXlate (s : State) (vf proc va : Nat) (write : Bool) : Option (Nat × Leaf) :=
  if localRegion ≤ va then none
  else match s.walk vf proc va with
    | .leaf l => if l.far.isNone && (if write then l.w else l.r) && !(s.podForeign (s.vfTenant vf) (l.paOf va)) then some (l.paOf va, l) else none
    | .bad _ _ => none

/-- Bytes a device agent reads at addresses of a process, or none where one cannot be read. -/
def State.deviceRead (s : State) (vf proc va n : Nat) : Option (List Byte) :=
  (List.range n).mapM (fun i => (s.deviceXlate vf proc (va + i) false).map (fun x => s.memByte x.1))

/-! ## Code addresses (R285, R286, R331) -/

/-- The word at a code address on a core, for a launch and a level; or the reason a transfer there fails: 1 outside, 2
misaligned, and 10 for an overlay that is not resident (R285, R294). -/
inductive Code where
  | word (w : W32)
  | outside
  | misaligned
  | missing
deriving DecidableEq, Repr

/-- The length in bytes of an overlay of the launch's code image, as its directory lists it; 0 for an overlay it does not hold
(R345). -/
def State.imageLen (s : State) (l : Launch) (n : Nat) : Nat :=
  match s.deviceRead l.vf l.proc (l.cimg + 8 * n) 8 with
  | some bs => bitsOf (leNat bs) 50 32
  | none => 0

/-- What stands at a code address (R285, R331). -/
def State.codeAt (s : State) (core launch plv : Nat) (addr : Nat) : Code :=
  match s.core? core, s.launch? launch with
  | some c, some l =>
    if 0x10000000 ≤ addr && addr < 0x10008000 then
      (if plv == 0 then .outside
       else match c.images.find? (fun i => i.1 == l.vf) with
        | some i => if addr % 4 != 0 then .misaligned
          else match i.2[(addr - 0x10000000) / 4]? with | some w => .word w | none => .outside
        | none => .outside)
    else if 2 ^ 28 ≤ addr then .outside
    else
      let n := bitsOf addr 27 20
      match c.overlays.find? (fun o => o.launch == launch && o.n == n) with
      | some o =>
        if 4 * o.words.length ≤ addr % 0x100000 then .outside
        else if addr % 4 != 0 then .misaligned
        else match o.words[addr % 0x100000 / 4]? with | some w => .word w | none => .outside
      | none => if addr % 0x100000 < s.imageLen l n then (if addr % 4 != 0 then .misaligned else .missing) else .outside
  | _, _ => .outside

end Sys2Proof.Machine
end

