-- ==== Sys2Proof/Machine/Image.lean ====
section
/-! DEFINITION. Stream graphs (R308 to R317): the image's fields and rules, one byte step of a graph, and binding a graph to a
slot (R261, R309 to R312, R444). -/
namespace Sys2Proof.Machine
open Sys2Proof

/-- The fabric that serves a physical address (R308): 0 to 7 at the HBM controllers, 8 and 9 at the hub's. -/
def fabricOf (pa : Nat) : Nat :=
  if pa < 0x8000000000 then 2 * bitsOf pa 38 37 + bitsOf pa 36 36 else if pa < 0x20000000000 then 8 else 9

/-! ## The image (R311, R313) -/

/-- KIND of an image. -/
def imgKind (g : List Byte) : Nat := fieldAt g 0 1
/-- RN. -/
def imgRn (g : List Byte) : Nat := fieldAt g 1 1
/-- WN. -/
def imgWn (g : List Byte) : Nat := fieldAt g 2 1
/-- ROUT. -/
def imgRout (g : List Byte) : Nat := fieldAt g 3 1
/-- WOUT. -/
def imgWout (g : List Byte) : Nat := fieldAt g 4 1
/-- FLD0 or FLD1. -/
def imgFld (g : List Byte) (i : Nat) : Nat := fieldAt g (5 + i) 1
/-- EQ. -/
def imgEq (g : List Byte) : Nat := fieldAt g 8 2
/-- LEN. -/
def imgLen (g : List Byte) : Nat := fieldAt g 24 4

/-- A node (R313). -/
structure Node where
  op : Nat
  mode : Nat
  a : Nat
  b : Nat
  c : Nat
  imm : W32
deriving DecidableEq, Repr

/-- A node's fields from its 8 bytes. -/
def nodeOf (w : Nat) : Node :=
  { op := bitsOf w 63 59, mode := bitsOf w 58 56, a := bitsOf w 55 48, b := bitsOf w 47 40, c := bitsOf w 39 32,
    imm := BitVec.ofNat 32 w }

/-- The nodes of the read graph, or of the write graph. -/
def imgNodes (g : List Byte) (read : Bool) : List Node :=
  (List.range (if read then imgRn g else imgWn g)).map (fun i =>
    nodeOf (fieldAt g (64 + 8 * (if read then i else imgRn g + i)) 8))

/-- Which inputs an operation reads (R315): a, b, c. -/
def nodeReads (op : Nat) : Bool × Bool × Bool :=
  if op ≤ 4 || op == 5 || op == 6 then (true, true, false)
  else if op == 7 then (true, true, true)
  else if op == 9 || op == 13 || op == 17 then (true, true, false)
  else (true, false, false)

/-- Does a node keep R313 to R315, as node i of n in an image of LEN bytes? -/
def nodeOk (n : Node) (i count len : Nat) : Bool :=
  let r := nodeReads n.op
  let src := fun (x : Nat) => if x < 0x80 then (x < count && (n.op == 10 || x < i)) else x ≤ 0x84
  n.op ≤ 19 && (!r.1 || src n.a) && (!r.2.1 || src n.b) && (!r.2.2 || src n.c) &&
  (match n.op with
   | 5 => n.mode ≤ 2
   | 6 => n.mode ≤ 3
   | 12 => n.mode ≤ 3
   | _ => n.mode == 0) &&
  (match n.op with
   | 8 => 64 ≤ n.imm.toNat && n.imm.toNat + 256 ≤ len
   | 15 => bitsOf n.imm.toNat 13 8 ≤ 32 && bitsOf n.imm.toNat 31 14 == 0
   | _ => true)

/-- Is an image valid (R311, R312), for a slot attached to an ingest port or not, and a test of EQ? -/
def imageOk (g : List Byte) (attached : Bool) (eqOk : Nat → Bool) : Bool :=
  let rn := imgRn g
  let wn := imgWn g
  let kind := imgKind g
  let len := imgLen g
  let nodes := (imgNodes g true).zipIdx.map (fun x => (x.1, x.2, rn)) ++ (imgNodes g false).zipIdx.map (fun x => (x.1, x.2, wn))
  let fld := fun (i : Nat) => imgFld g i == 0xFF || imgFld g i < wn
  kind ≤ 3 && rn ≤ 128 && wn ≤ 128 && rn + wn ≤ 128 &&
  (if rn == 0 then imgRout g == 0 else imgRout g < rn) && (if wn == 0 then imgWout g == 0 else imgWout g < wn) &&
  fld 0 && fld 1 && fieldAt g 7 1 == 0 && fieldAt g 10 14 == 0 && fieldAt g 28 36 == 0 &&
  64 + 8 * (rn + wn) ≤ len && len ≤ 65536 &&
  (kind != 0 || (rn != 0 && wn != 0)) && (kind != 1 || wn == 0) && (kind < 2 || rn == 0) &&
  nodes.all (fun x => nodeOk x.1 x.2.1 x.2.2 len) &&
  !((imgNodes g true).any (fun n => n.op == 19)) && (2 ≤ kind || !((imgNodes g false).any (fun n => n.op == 19))) &&
  (!(nodes.any (fun x => x.1.op == 18)) || (kind != 3 && imgEq g != 0xFFFF)) &&
  (imgEq g == 0xFFFF || eqOk (imgEq g)) && ((kind == 3) == attached)

/-! ## One byte step (R315) -/

/-- The special inputs of a step (R314). -/
structure StepIn where
  byte : Nat
  pos : Nat
  first : Bool
  last : Bool
deriving DecidableEq, Repr

/-- One reflected CRC-32C step of a byte. -/
def crcStep (s : W32) (byte : Nat) : W32 :=
  (List.range 8).foldl (fun x _ => if x.getLsbD 0 then (x >>> 1) ^^^ 0x82F63B78 else x >>> 1) (s ^^^ BitVec.ofNat 32 (byte % 256))

/-- The value of a source. -/
def nodeInput (vals : List W32) (x : StepIn) (imm : W32) (src : Nat) : W32 :=
  if src < 0x80 then vals.getD src 0
  else match src with
    | 0x80 => BitVec.ofNat 32 x.byte
    | 0x81 => BitVec.ofNat 32 x.pos
    | 0x82 => if x.first then 1 else 0
    | 0x83 => if x.last then 1 else 0
    | _ => imm

/-- A node's value and its next state, but a delay's (R315). -/
def nodeValue (g : List Byte) (n : Node) (s : W32) (a b c : W32) : W32 × W32 :=
  let flag := fun (x : Bool) => if x then (1 : W32) else 0
  match n.op with
  | 0 => (a + b, s) | 1 => (a - b, s) | 2 => (a &&& b, s) | 3 => (a ||| b, s) | 4 => (a ^^^ b, s)
  | 5 => (match n.mode with
    | 0 => if 32 ≤ b.toNat then 0 else a <<< b.toNat
    | 1 => if 32 ≤ b.toNat then 0 else a >>> b.toNat
    | _ => a.sshiftRight (min b.toNat 31), s)
  | 6 => (match n.mode with
    | 0 => flag (a == b) | 1 => flag (a != b) | 2 => flag (a.toNat < b.toNat) | _ => flag (a.toNat ≤ b.toNat), s)
  | 7 => (if a != 0 then b else c, s)
  | 8 => (BitVec.ofNat 32 (fieldAt g (n.imm.toNat + a.toNat % 256) 1), s)
  | 9 => let t := (if b != 0 then 0 else s) + flag (a != 0); (t, t)
  | 10 => (s, s)
  | 11 => let t := s * 256 + BitVec.ofNat 32 (a.toNat % 256); (t, t)
  | 12 => (BitVec.ofNat 32 (a.toNat / 256 ^ n.mode % 256), s)
  | 13 => let t := crcStep (if b != 0 then n.imm else s) a.toNat; (t, t)
  | 14 => (BitVec.ofNat 32 (leNat ((leBytes 4 a.toNat).reverse)), s)
  | 15 => (BitVec.ofNat 32 (a.toNat / 2 ^ bitsOf n.imm.toNat 4 0 % 2 ^ bitsOf n.imm.toNat 13 8), s)
  | 16 => (flag ((List.range 4).any (fun i => n.imm.toNat / 256 ^ i % 256 == a.toNat % 256)), s)
  | 17 => let t := (if b != 0 then n.imm else s) + a; (t, t)
  | _ => (a, s)

/-- The state a node has at a bind (R315). -/
def nodeStart (n : Node) : W32 := match n.op with | 10 | 13 | 17 => n.imm | _ => 0

/-- One step of a graph: every node's value, and the states after. -/
def graphStep (g : List Byte) (nodes : List Node) (st : List W32) (x : StepIn) : List W32 × List W32 :=
  let (vals, next) := nodes.zipIdx.foldl (fun (acc : List W32 × List W32) n =>
    let inp := nodeInput acc.1 x n.1.imm
    let (v, s') := nodeValue g n.1 (st.getD n.2 0) (inp n.1.a) (inp n.1.b) (inp n.1.c)
    (acc.1 ++ [v], acc.2 ++ [s'])) ([], [])
  (vals, nodes.zipIdx.map (fun n => if n.1.op == 10 then nodeInput vals x n.1.imm n.1.a else next.getD n.2 0))

/-- What a run of bytes through a graph gives: the output bytes, which are dropped, the positions that emit, and the stream. -/
structure GraphOut where
  bytes : List Byte
  keep : List Bool
  entries : List (List Byte)
  stream : Stream
deriving DecidableEq, Repr

/-- A stream at its bind (R310). -/
def Stream.start (g : List Byte) (fabric : Nat) : Stream :=
  { fabric := fabric, read := (imgNodes g true).map nodeStart, write := (imgNodes g false).map nodeStart,
    last := (imgNodes g false).map (fun _ => 0), emits := 0, since := 0, dropped := false }

/-- The PTP time in seconds and nanoseconds: the time the clock was last set to, and core cycles since at 2.7 GHz (R11,
R325; log 15). -/
def State.ptpNow (s : State) : Nat × Nat :=
  let t := s.ptpSec * 10 ^ 9 + s.ptpNs + (s.clk - s.ptpClk) * 10 / 27
  (t / 10 ^ 9, t % 10 ^ 9)

/-- The 8 bytes of the PTP time (R264, R317, R322). -/
def State.timeBytes (s : State) : List Byte := leBytes 4 s.ptpNow.1 ++ leBytes 4 s.ptpNow.2

/-- FLD0 and FLD1, from the write graph's values. -/
def fieldsBytes (g : List Byte) (vals : List W32) : List Byte :=
  (List.range 2).flatMap (fun i => leBytes 4 (if imgFld g i == 0xFF then 0 else (vals.getD (imgFld g i) 0).toNat))

/-- One byte through one side of a graph: the output, whether it is kept, the entries emitted (R316, R317). FLD0 and FLD1 of an entry are the
write graph's values at its last step, also where a read graph's node emits (DEDUCED, log 26: R317 says "of the write graph at the step", and a
step of the read graph is none of it); 0 before any. -/
def streamStep (time : List Byte) (g : List Byte) (read : Bool) (acc : GraphOut) (x : StepIn) : GraphOut :=
  let nodes := imgNodes g read
  let st := acc.stream
  if nodes.isEmpty then
    { acc with bytes := acc.bytes ++ [BitVec.ofNat 8 x.byte], keep := acc.keep ++ [true], stream := { st with since := st.since + 1 } }
  else
    let (vals, next) := graphStep g nodes (if read then st.read else st.write) x
    let fires := fun (op : Nat) => (nodes.zipIdx.filter (fun n => n.1.op == op && vals.getD n.2 0 != 0)).length
    let drop := fires 19 != 0
    let out := BitVec.ofNat 8 ((vals.getD (if read then imgRout g else imgWout g) 0).toNat % 256)
    let st := { st with
      read := if read then next else st.read
      write := if read then st.write else next
      last := if read then st.last else vals
      since := st.since + 1
      dropped := st.dropped || drop }
    let (entries, st) := (List.range (fires 18)).foldl (fun (e : List (List Byte) × Stream) _ =>
      (e.1 ++ [time ++ leBytes 8 x.pos ++ leBytes 2 e.2.since ++ [0xFF] ++ [if e.2.dropped then 8 else 0] ++
        leBytes 4 e.2.emits.toNat ++ fieldsBytes g e.2.last],
       { e.2 with emits := e.2.emits + 1, since := 0, dropped := false })) (acc.entries, st)
    { bytes := acc.bytes ++ [out], keep := acc.keep ++ [!drop], entries := entries, stream := st }

/-- The bytes of an event, each with its position, through one side of a graph, FIRST and LAST at its ends (R314, R316). -/
def streamRun (time : List Byte) (g : List Byte) (read : Bool) (st : Stream) (bs : List (Nat × Byte)) : GraphOut :=
  bs.zipIdx.foldl (fun acc b => streamStep time g read acc
    { byte := b.1.2.toNat, pos := b.1.1 % 2 ^ 32, first := b.2 == 0, last := b.2 + 1 == bs.length })
    { bytes := [], keep := [], entries := [], stream := st }

/-! ## Binding (R261, R309 to R312, R444) -/

/-- The graph bound to a tenant's slot. -/
def State.graph? (s : State) (tenant slot : Nat) : Option Graph :=
  (s.tenant? tenant).bind (fun t => t.graphs.find? (fun g => g.slot == slot))

/-- Change the graph bound to a tenant's slot. -/
def State.modGraph (s : State) (tenant slot : Nat) (f : Graph → Graph) : State :=
  s.modTenant tenant (fun t => { t with graphs := t.graphs.map (fun g => if g.slot == slot then f g else g) })

/-- Is a slot reserved for an ingest port of the tenant (R312)? -/
def State.slotReserved (s : State) (tenant slot : Nat) : Bool :=
  match s.tenant? tenant with | some t => t.reserved.contains slot | none => false

/-- The port a tenant's slot is attached to. -/
def State.portOfSlot (s : State) (tenant slot : Nat) : Option Port :=
  (List.range 2).findSome? (fun i =>
    let p := vget s.ports i
    let mine := match s.vf? p.vf with | some f => f.tenant == tenant | none => false
    if p.enabled && mine && p.slot == slot then some p else none)

/-- The fabrics a graph is placed on (R309). A port whose ring has no translation at the bind gives fabric 0 (DEDUCED, log 26). -/
def State.graphFabrics (s : State) (tenant slot kind : Nat) : List Nat :=
  if kind != 3 then List.range 10
  else match s.portOfSlot tenant slot with
    | some p => (match s.deviceXlate p.vf p.proc p.ring false with | some (pa, _) => [fabricOf pa] | none => [0])
    | none => [0]

/-- Does a fabric lack a graph place, or function units for n nodes (R308)? -/
def State.fabricFull (s : State) (fab n : Nat) : Bool :=
  let here := (s.tenants.flatMap (·.graphs)).filter (fun g => g.streams.any (fun x => x.fabric == fab))
  16 ≤ here.length || 128 < here.foldl (fun acc g => acc + imgRn g.image + imgWn g.image) n

end Sys2Proof.Machine
end

