-- ==== Sys2Proof/Machine/Mem.lean ====
section
/-! DEFINITION. The operations on registers and memory that every meaning is written over: registers, speculation and rollback (R386 to
R396), the directory, write events and whom they wake or roll back, and L1. -/
namespace Sys2Proof.Machine
open Sys2Proof

/-! ## Registers -/

/-- A caravan's level, CST.PLV (R162, R329). -/
def Caravan.plv (c : Caravan) : Nat := bitsOf c.cst.toNat 5 4
/-- CST.CHK (R162). -/
def Caravan.chk (c : Caravan) : Bool := c.cst.getLsbD 0

/-- Uniform register r as a caravan at a level reads it: s0 is zero (R145), s56 to s63 banked (R330). -/
def CRegs.rd (x : CRegs) (plv r : Nat) : Word :=
  if r = 0 then 0 else if plv ≠ 0 ∧ 56 ≤ r then vget x.s2 (r - 56) else vget x.s r
/-- Uniform register r written by a caravan at a level: writes to s0 are discarded (R145). -/
def CRegs.wr (x : CRegs) (plv r : Nat) (w : Word) : CRegs :=
  if r = 0 then x else if plv ≠ 0 ∧ 56 ≤ r then { x with s2 := vset x.s2 (r - 56) w } else { x with s := vset x.s r w }
/-- Predicate p: p7 is true in every thread (R145). -/
def CRegs.rdP (x : CRegs) (p : Nat) : W32 := if p < 7 then vget x.p p else BitVec.allOnes 32
/-- Predicate p written: writes to p7 are discarded. -/
def CRegs.wrP (x : CRegs) (p : Nat) (w : W32) : CRegs := { x with p := vset x.p p w }
/-- v register r with the lanes of a mask replaced (R153). -/
def CRegs.wrV (x : CRegs) (r : Nat) (mask : W32) (w : VReg) : CRegs :=
  { x with v := vset x.v r (Vector.ofFn (fun t : Fin 32 => if bitAt mask t.val then w.get t else (vget x.v r).get t)) }
/-- A v register whose lane t is f t. -/
def vtab (f : Nat → Word) : VReg := Vector.ofFn (fun t : Fin 32 => f t.val)

/-- A sequencer's g register: g0 is zero (R145). -/
def Sequencer.rd (q : Sequencer) (r : Nat) : Word := if r = 0 then 0 else vget q.g r
/-- A g register written. -/
def Sequencer.wr (q : Sequencer) (r : Nat) (w : Word) : Sequencer := if r = 0 then q else { q with g := vset q.g r w }

/-- The block an agent belongs to. -/
def blkOf : Who → Nat | .car b _ => b | .seq b => b

/-- Uniform register r of an agent (R144, R152). -/
def State.urd (s : State) (w : Who) (r : Nat) : Word :=
  match w with
  | .car b n => match s.car? b n with | some c => c.regs.rd c.plv r | none => 0
  | .seq b => match s.seq? b with | some q => q.rd r | none => 0
/-- Uniform register r of an agent written. -/
def State.uwr (s : State) (w : Who) (r : Nat) (x : Word) : State :=
  match w with
  | .car b n => s.modCar b n (fun c => { c with regs := c.regs.wr c.plv r x })
  | .seq b => s.modSeq b (fun q => q.wr r x)
/-- Condition k of an agent (R154). -/
def State.crd (s : State) (w : Who) (k : Nat) : Bool :=
  match w with
  | .car b n => match s.car? b n with | some c => vget c.regs.c k | none => false
  | .seq b => match s.seq? b with | some q => vget q.c k | none => false
/-- Condition k of an agent written. -/
def State.cwr (s : State) (w : Who) (k : Nat) (x : Bool) : State :=
  match w with
  | .car b n => s.modCar b n (fun c => { c with regs := { c.regs with c := vset c.regs.c k x } })
  | .seq b => s.modSeq b (fun q => { q with c := vset q.c k x })
/-- An agent's pc. -/
def State.pcOf (s : State) (w : Who) : Nat :=
  match w with
  | .car b n => match s.car? b n with | some c => c.regs.pc.toNat | none => 0
  | .seq b => match s.seq? b with | some q => q.pc.toNat | none => 0
/-- An agent's open hint group (R163). -/
def State.hintsOf (s : State) (w : Who) : List W32 :=
  match w with
  | .car b n => match s.car? b n with | some c => c.hints | none => []
  | .seq b => match s.seq? b with | some q => q.hints | none => []
/-- Set an agent's pc and open hint group. -/
def State.setPc (s : State) (w : Who) (pc : Nat) (hints : List W32) : State :=
  match w with
  | .car b n => s.modCar b n (fun c => { c with regs := { c.regs with pc := BitVec.ofNat 64 pc }, hints := hints })
  | .seq b => s.modSeq b (fun q => { q with pc := BitVec.ofNat 64 pc, hints := hints })
/-- Set an agent's status. -/
def State.setStatus (s : State) (w : Who) (x : Status) : State :=
  match w with
  | .car b n => s.modCar b n (fun c => { c with status := x })
  | .seq b => s.modSeq b (fun q => { q with status := x })
/-- An agent's status, none where there is no such agent. -/
def State.statusOf (s : State) (w : Who) : Option Status :=
  match w with
  | .car b n => (s.car? b n).map (·.status)
  | .seq b => (s.seq? b).map (·.status)
/-- An agent's level: the sequencer runs at caravan level. -/
def State.plvOf (s : State) (w : Who) : Nat :=
  match w with
  | .car b n => match s.car? b n with | some c => c.plv | none => 0
  | .seq _ => 0
/-- The core an agent runs on. -/
def State.coreOf (s : State) (w : Who) : Nat := match s.block? (blkOf w) with | some x => x.core | none => 0
/-- The launch of an agent's block. -/
def State.launchOf (s : State) (w : Who) : Option Launch := (s.block? (blkOf w)).bind (fun x => s.launch? x.launch)

/-- A register's value as the scoreboard keeps it. -/
def State.regVal (s : State) (w : Who) (r : Reg) : PVal :=
  match r with
  | .u n => .u (s.urd w n)
  | .c n => .c (s.crd w n)
  | .v n => match w with
    | .car b k => match s.car? b k with | some c => .v (BitVec.allOnes 32) (vget c.regs.v n) | none => .held
    | .seq _ => .held
  | .p n => match w with
    | .car b k => match s.car? b k with | some c => .p (c.regs.rdP n) | none => .held
    | .seq _ => .held

/-- Write a register from a scoreboard value (R159). -/
def State.putVal (s : State) (w : Who) (r : Reg) (x : PVal) : State :=
  match r, x with
  | .u n, .u y => s.uwr w n y
  | .c n, .c y => s.cwr w n y
  | .v n, .v m y => match w with
    | .car b k => s.modCar b k (fun c => { c with regs := c.regs.wrV n m y })
    | .seq _ => s
  | .p n, .p y => match w with
    | .car b k => s.modCar b k (fun c => { c with regs := c.regs.wrP n y })
    | .seq _ => s
  | _, _ => s

/-! ## Rollback (R392 to R396) -/

/-- Count a rollback on a core, in its window, and start core-wide escort at the 33rd (R395). -/
def State.countRollback (s : State) (core : Nat) : State :=
  let w := s.clk / 27000
  let n := match s.core? core with | some c => (if c.rbWindow = w then c.rbCount + 1 else 1) | none => 0
  s.modCore core (fun c =>
    { c with rbWindow := w, rbCount := n, rbTotal := c.rbTotal + 1, escEnd := if n = 33 then s.clk + 27000 else c.escEnd })

/-- A caravan at the checkpoint of its epoch k: its registers restored, the later epochs with their stores, marks, held
operations and pending results dropped (R393), and the exemption of its next group from breakpoints (R350); counted towards escort or
not (R394). -/
def Caravan.rollTo (c : Caravan) (k : Nat) (counted : Bool) : Caravan :=
  match c.epochs[k]? with
  | none => c
  | some e =>
    let cur := if counted then (if e.target then c.rbCur + 1 else 1) else c.rbCur
    let esc := c.rbEsc || (counted && 4 ≤ cur)
    { c with
      regs := e.snap, hints := [], fix := [], phase := none, wfe := none, multi := none, status := .running
      nobp := c.nobp || e.nobp
      epochs := (c.epochs.take k).map (fun x => { x with target := false }) ++
        [{ Epoch.start e.snap with target := e.target || counted }]
      rbCur := min cur 4, rbEsc := esc, rbTotal := c.rbTotal + 1
      cst := if esc then c.cst ||| 8 else c.cst }

/-- Roll caravan n of block b back to its oldest uncommitted checkpoint whose epochs hold a mark on one of the words
(R392, R393). -/
def State.rollMarked (s : State) (b n core : Nat) (c : Caravan) (words : List Loc) : State :=
  match c.epochs.findIdx? (fun e => e.marks.any (fun m => words.contains m)) with
  | none => s
  | some k => (s.modCar b n (fun x => x.rollTo k true)).countRollback core

/-- A write or invalidation of words reaches every caravan but the writer: those that read them speculatively roll back. -/
def State.invalidate (s : State) (by_ : Option Who) (words : List Loc) : State :=
  s.blocks.foldl (fun st x =>
    x.cars.foldl (fun st c => if by_ = some (.car x.id c.n) then st else st.rollMarked x.id c.n x.core c words) st) s

/-- Does a `wfe` still wait: neither a write nor its time has ended it (R348)? -/
def WfeWait.open_ (v : WfeWait) (now : Nat) : Bool := !v.timedOut && (match v.deadline with | some d => now < d | none => true)

/-- End the `wfe` waits of other agents on the chunks a write touches (R348); one that its time has ended is not ended by a write. -/
def State.wake (s : State) (by_ : Option Who) (chunks : List Loc) : State :=
  { s with blocks := s.blocks.map (fun x => { x with cars := x.cars.map (fun c =>
      if by_ = some (.car x.id c.n) then c else
      match c.wfe with
      | some w => if w.open_ s.clk && chunks.contains w.chunk then { c with wfe := some { w with woken := true } } else c
      | none => c) }) }

/-! ## The directory (R386 to R388), bundles that have been entered (R89, R91), and writes -/

/-- The lines a run of bytes touches, with the first and last word of each (R386). -/
def lineSpans (pa n : Nat) : List (Nat × Nat × Nat) :=
  if n = 0 then [] else
  (List.range ((pa + n - 1) / 256 + 1 - pa / 256)).map (fun i =>
    let base := 256 * (pa / 256 + i)
    (pa / 256 + i, (max pa base - base) / 4, (min (pa + n) (base + 256) - 1 - base) / 4))

/-- A mask of words first to last of a line (R386). -/
def spanMask (first last : Nat) : Word :=
  (List.range (min 64 (last + 1) - first)).foldl (fun acc i => acc ||| BitVec.ofNat 64 (2 ^ (first + i))) 0

/-- The places of a mask's words. -/
def maskWords (line : Nat) (m : Word) : List Loc :=
  ((List.range 64).filter (fun i => m.getLsbD i)).map (fun i => Loc.glob (256 * line + 4 * i))

/-- The L2 of a die as a cache: 576 and the die's number (log 16). -/
def l2Cache (die : Nat) : Nat := 576 + die
/-- The die a cache of this package stands on (log 16). -/
def cacheDie (cache : Nat) : Option Nat :=
  if cache < 512 then some (dieOf cache) else if 576 ≤ cache && cache < 580 then some (cache - 576) else none

/-- Does a cache serve a core: its own, or the L2 of its die (R72)? -/
def servesCore (cache core : Nat) : Bool := core == cache || (core < 256 && cache == l2Cache (dieOf core))

/-- An invalidation, recall or eviction of words reaches a cache: caravans of the cores it serves with read marks on them roll back
(R388, R392), but on the core for whose own request the L2 gives the words up. -/
def State.reachCache (s : State) (cache line : Nat) (m : Word) (but : Option Nat := none) : State :=
  (s.blocks.filter (fun x => servesCore cache x.core && (x.core == cache || some x.core != but))).foldl (fun st x =>
    x.cars.foldl (fun st c => st.rollMarked x.id c.n x.core c (maskWords line m)) st) s

/-- A record without some words. -/
def Sharer.without (r : Sharer) (m : Word) : Sharer := { r with valid := r.valid &&& ~~~m, owned := r.owned &&& ~~~m }

/-- A directory entry's records changed; entries with no record go. -/
def State.modLine (s : State) (line : Nat) (f : List Sharer → List Sharer) : State :=
  let old := match s.dir.find? (fun d => d.line == line) with | some d => d.sharers | none => []
  let new := (f old).filter (fun r => r.valid != 0)
  let rest := s.dir.filter (fun d => d.line != line)
  { s with dir := if new.isEmpty then rest else rest ++ [{ line := line, sharers := new }] }

/-- The records of a line. -/
def State.sharers (s : State) (line : Nat) : List Sharer :=
  match s.dir.find? (fun d => d.line == line) with | some d => d.sharers | none => []

/-- A cache gives up words of a line: the record loses them and marked readers roll back. -/
def State.giveUp (s : State) (cache line : Nat) (m : Word) (but : Option Nat := none) : State :=
  (s.modLine line (fun rs => rs.map (fun r => if r.cache == cache then r.without m else r))).reachCache cache line m but

/-- Words of every line a run of bytes touches dropped from the records of every cache but one (R387). -/
def State.dropSharers (s : State) (pa n : Nat) (keep : Option Nat) : State :=
  (lineSpans pa n).foldl (fun (st : State) x =>
    { st with dir := st.dir.map (fun d => if d.line == x.1 then
        { d with sharers := (d.sharers.map (fun r => if some r.cache == keep then r
            else r.without (spanMask x.2.1 x.2.2))).filter (fun r => r.valid != 0) }
      else d) }) s

/-- Has some block, resident or saved, entered a bundle (R89, R90)? -/
def State.entered (s : State) (handle : Nat) : Bool :=
  s.blocks.any (fun x => x.entries.any (fun e => e.handle == handle && e.pending.isNone)) ||
  s.saved.any (fun x => x.entries.any (fun e => e.handle == handle && e.pending.isNone))

/-- The die of an entered bundle that holds a line. -/
def State.enteredDie (s : State) (line : Nat) : Option Nat :=
  (s.bundles.find? (fun u => u.lines.contains line && s.entered u.handle)).map (·.die)

/-- May a cache be granted a copy of a line (R89): while a block has entered a bundle that holds it, only caches of the bundle's die? -/
def State.mayHold (s : State) (cache line : Nat) : Bool :=
  match s.enteredDie line with | some d => cache < 256 && cache / 64 == d | none => true

/-- The L2 that becomes a sharer when a core of a compute die reads a line (R72): its own die's, where the line's home is not there. -/
def sharingL2 (core line : Nat) : Option Nat :=
  let pa := 256 * line
  if 256 ≤ core || (pa < 0x8000000000 && bitsOf pa 38 37 == core / 64) then none else some (l2Cache (core / 64))

/-! ## L1 (R14, R73, R74, R389) -/

/-- Every held operation of a caravan not yet performed. -/
def Caravan.held (c : Caravan) : List Held := c.late ++ c.epochs.flatMap (·.acts)

/-- The lines a held store keeps in L1. -/
def Held.lines : Held → List Nat
  | .store (.glob pa) bs _ _ => (lineSpans pa bs.length).map (·.1)
  | _ => []

/-- The lines of a core's L1 that hold speculative stores (R73). -/
def State.storeLines (s : State) (core : Nat) : List Nat :=
  ((s.blocks.filter (fun x => x.core == core)).flatMap (fun x => x.cars.flatMap (·.held))).foldl (fun acc h => addAll h.lines acc) []

/-- The lines of a core's L1 of which it holds tracked words (R386), in the order of the directory. -/
def State.trackedLines (s : State) (core : Nat) : List Nat :=
  (s.dir.filter (fun d => d.sharers.any (fun r => r.cache == core))).map (·.line)

/-- The lines of a core's L1 that hold clean untracked bytes (R74), oldest first. -/
def State.cleanLines (s : State) (core : Nat) : List Nat := match s.core? core with | some c => c.l1.map (·.1) | none => []

/-- The lines of a core's L1 with some more. -/
def State.l1Lines (s : State) (core : Nat) (new : List Nat) : List Nat :=
  addAll new (addAll (s.storeLines core) (addAll (s.trackedLines core) (s.cleanLines core)))

/-- The lines evicted so that some lines fit in the 512 of a core's L1 (R14): clean untracked ones first, then tracked ones, oldest
first; never one that holds a speculative store (DESIGN CHOICE, log 10: the spec names no order). -/
def State.l1Victims (s : State) (core : Nat) (new : List Nat) : List Nat :=
  let stores := s.storeLines core
  ((s.cleanLines core ++ s.trackedLines core).filter (fun l => !(new.contains l) && !(stores.contains l))).eraseDups.take
    ((s.l1Lines core new).length - 512)

/-- Would some lines leave no line of a core's L1 to evict but those that hold speculative stores (R14, R389)? -/
def State.crowded (s : State) (core : Nat) (lines : List Nat) : Bool := 512 < (addAll lines (s.storeLines core)).length

/-- A line evicted from a core's L1: its clean bytes go, and its words as by an invalidation of the whole line (R388, R392). -/
def State.evictLine (s : State) (core line : Nat) : State :=
  (s.modCore core (fun c => { c with l1 := c.l1.filter (fun y => y.1 != line) })).giveUp core line (BitVec.allOnes 64)

/-- Lines evicted to make room for those of a store that issues, each as an event before the next word; a store's lines count from its issue
(R73). -/
def State.evictFor (s : State) (core : Nat) (new : List Nat) : State :=
  (s.l1Victims core new).foldl (fun st l => st.queueEvent (.invalidation ⟨core, core, st.incarnation core⟩ l (BitVec.allOnes 64))) s

/-! ## Requests at the home (R386 to R389) -/

/-- A cache recorded as holding words of a line. A core's L1 makes room for the line first, and does not keep it where speculative stores
leave none (R14, R73); the earliest record is recalled to make room for a 17th (R388). -/
def State.recordWords (s : State) (cache line : Nat) (m : Word) (own : Bool) (by_ : Nat) : State :=
  let rs := s.sharers line
  if rs.any (fun r => r.cache == cache) then
    s.modLine line (fun rs => rs.map (fun r => if r.cache == cache then
      { r with valid := r.valid ||| m, owned := if own then r.owned ||| m else r.owned } else r))
  else if cache < 512 && s.crowded cache [line] then s
  else
    let s := if cache < 512 then (s.l1Victims cache [line]).foldl (fun st l => st.evictLine cache l) s else s
    let s := match rs.head? with
      | some r => if 16 ≤ rs.length then s.giveUp r.cache line (BitVec.allOnes 64) (some by_) else s
      | none => s
    s.modLine line (fun rs => rs ++ [{ cache := cache, valid := m, owned := if own then m else 0 }])

/-- A tracked request performed at the line's home (R386 to R388): for a write every other cache gives up the words, for a read
an owner gives up ownership; then the requester is recorded where it may hold the line (R89, R91), and with a read the L2 it goes
through (R72). -/
def State.homePerform (s : State) (cache line first last : Nat) (own : Bool) : State :=
  let m := spanMask first last
  let s := if own then
      (s.sharers line).foldl (fun st r => if r.cache != cache && r.valid &&& m != 0 then st.giveUp r.cache line m (some cache) else st) s
    else s.modLine line (fun rs => rs.map (fun r => if r.cache != cache then { r with owned := r.owned &&& ~~~m } else r))
  if !(s.mayHold cache line) then s
  else
    let s := if own then s else match sharingL2 cache line with | some k => s.recordWords k line m false cache | none => s
    s.recordWords cache line m own cache

/-- A core comes to own the words of a run of bytes at the home of each line (R387). -/
def State.ownWords (s : State) (core pa n : Nat) : State :=
  (lineSpans pa n).foldl (fun (st : State) (x : Nat × Nat × Nat) => st.homePerform core x.1 x.2.1 x.2.2 true) s

/-- A write event at one place: the bytes are written, other agents' marked readers roll back and waits on the chunks end. -/
def State.writeEvent (s : State) (by_ : Option Who) (l : Loc) (bs : List Byte) : State :=
  let s := (s.poke l bs).invalidate by_ (wordsFrom l bs.length)
  s.wake by_ ((List.range bs.length).foldl (fun acc i => insertNew (l.add i).chunk acc) [])

/-- A write event at one place. No cache keeps the words of a global write that no caravan makes. -/
def State.putAt (s : State) (by_ : Option Who) (l : Loc) (bs : List Byte) : State :=
  let s := match by_, l with | none, .glob pa => s.dropSharers pa bs.length none | _, _ => s
  s.writeEvent by_ l bs

/-- A write event takes its place (R97, R387): the bytes are written, at both homes of a dual-home page, of which the second grants no
copies (R362, R364). -/
def State.put (s : State) (by_ : Option Who) (l : Loc) (bs : List Byte) (second : Option Nat) : State :=
  let s := s.putAt by_ l bs
  match second with | some pa => (s.dropSharers pa bs.length none).writeEvent by_ (.glob pa) bs | none => s

/-- A core's clean untracked line holding an address takes a store its own caravan makes (R74). -/
def State.storeL1 (s : State) (core pa : Nat) (bs : List Byte) : State :=
  s.modCore core (fun c => { c with l1 := c.l1.map (fun ln =>
    if ln.1 * 256 ≤ pa + bs.length && pa < ln.1 * 256 + 256 then
      (ln.1, (List.range 256).map (fun i =>
        if pa ≤ ln.1 * 256 + i && ln.1 * 256 + i < pa + bs.length then bs.getD (ln.1 * 256 + i - pa) 0 else ln.2.getD i 0))
    else ln) })

/-! ## Blocks, escort and traps -/

/-- The members of a convoy slot of a block and its rank there. -/
def Block.convoyOf (x : Block) (slot : Nat) : Option ConvoySlot := x.convoys.getD slot none

/-- The block of a kernel with a linear index. -/
def State.blockAt (s : State) (launch kernel lin : Nat) : Option Block :=
  s.blocks.find? (fun y => y.launch == launch && y.kernel == kernel && y.lin == lin)

/-- Is core-wide escort in force on a core (R395)? -/
def State.coreEscort (s : State) (core : Nat) : Bool := match s.core? core with | some k => s.clk < k.escEnd | none => false
/-- Is an agent escorted (R394, R395)? -/
def State.escorted (s : State) (w : Who) : Bool :=
  match w with
  | .car b n => (match s.car? b n with | some c => c.rbEsc | none => false) || s.coreEscort (s.coreOf w)
  | .seq _ => false
/-- A trap of the whole caravan. -/
def wholeTrap (code sub : Nat) (addr : Nat) (synd : Nat) : Trap :=
  { code := code, sub := sub, addr := BitVec.ofNat 64 addr, synd := BitVec.ofNat 64 synd, lanes := BitVec.allOnes 32, lreason := 0 }

end Sys2Proof.Machine
end

