-- ==== Sys2Proof/Machine/Graph.lean ====
section
/-! DEFINITION. Graphs bound and unbound (R261, R308 to R312, R444), and an access performed through a stream (R316 to R319). -/
namespace Sys2Proof.Machine
open Sys2Proof

/-! ## Binding and unbinding (R261, R308 to R312, R444) -/

/-- Does a segment lie on a page of a stream slot? -/
def Seg.onSlot (g : Seg) (slot : Nat) : Bool := match g.leaf with | some l => l.slot == slot | none => false

/-- Does a copy of a tenant reach pages of a stream slot? -/
def CopyReq.onSlot (y : CopyReq) (tenant slot : Nat) : Bool :=
  y.tenant == tenant && y.reps.any (fun ps => ps.any (fun p => p.srcGraph == slot || p.dstGraph == slot))

/-- Has a streamed access been sent under its core's current incarnation number, or will it never be performed (R399)? -/
def State.currentStream (s : State) (r : StreamReq) : Bool := r.inc == s.incarnation (s.coreOf r.who)

/-- Is an access to a slot's pages issued and not performed (R444): a streamed access on its way, or an accepted copy of a tenant's
block, held by a caravan other than one or committed? -/
def State.slotInUse (s : State) (tenant slot : Nat) (but : Option Who := none) : Bool :=
  s.streams.any (fun r => s.currentStream r && r.tenant == tenant && r.lanes.any (fun l => l.2.any (fun g => g.onSlot slot))) ||
  s.cores.any (fun c => c.copies.any (fun y => y.inc == s.incarnation c.id && y.onSlot tenant slot)) ||
  s.blocks.any (fun x => x.cars.any (fun c => but != some (.car x.id c.n) && c.held.any (fun h => match h with
    | .copy y => y.onSlot tenant slot | _ => false)))

/-- A slot's graph as later accesses find it: none once it is unbound. -/
def State.openGraph? (s : State) (tenant slot : Nat) : Option Graph := (s.graph? tenant slot).filter (fun g => !g.closed)

/-- Graphs unbound whose last access has been performed go. -/
def State.dropClosed (s : State) : State :=
  { s with tenants := s.tenants.map (fun t => { t with graphs := t.graphs.filter (fun g => !g.closed || s.slotInUse t.id g.slot) }) }

/-- Is a slot's graph bound, or unbound with accesses still to pass through it? -/
def State.slotTaken (s : State) (tenant slot : Nat) : Bool := (s.graph? tenant slot).any (fun g => !g.closed || s.slotInUse tenant slot)

/-- A slot unbound for later accesses, while accesses issued before still pass through its graph (R444). -/
def State.closeSlot (s : State) (tenant slot : Nat) : State := s.modGraph tenant slot (fun g => { g with closed := true })

/-- A slot unbound (R261, R444). -/
def State.unbind (s : State) (tenant slot : Nat) : State :=
  s.modTenant tenant (fun t => { t with graphs := t.graphs.filter (fun g => g.slot != slot) })

/-- The checks of an image and its capacity, and the bind (R309 to R312, R444): the status, and the state after. -/
def State.bindImage (s : State) (vf tenant slot : Nat) (img : List Byte) : Nat × State :=
  let eqOk := fun (q : Nat) => match (s.vf? vf).bind (·.queue? q) with | some x => x.ctl.getLsbD 7 | none => false
  if !(imageOk img (s.slotReserved tenant slot) eqOk) then (1, s)
  else
    let s := s.dropClosed
    let fabs := s.graphFabrics tenant slot (imgKind img)
    if fabs.any (fun f => s.fabricFull f (imgRn img + imgWn img)) then (2, s)
    else
      let g : Graph := { slot := slot, vf := vf, image := img, streams := fabs.map (Stream.start img), chunks := 0, closed := false }
      (0, s.modTenant tenant (fun t => { t with graphs := t.graphs ++ [g] }))

/-! ## Accesses through a stream (R316 to R319) -/

/-- An emitted entry goes to the emit buffer of feed queue EQ, or is lost (R317). -/
def State.emitTo (s : State) (vf q : Nat) (e : List Byte) : State :=
  match (s.vf? vf).bind (·.queue? q) with
  | none => s
  | some x =>
    if 256 ≤ x.emit.length then s.modQueue vf q (fun y => { y with emitLost := true })
    else
      let e := if x.emitLost then e.set 19 (e.getD 19 0 ||| 4) else e
      (s.modQueue vf q (fun y => { y with emit := y.emit ++ [e], emitLost := false })).queueEvent (.feedQueuePush vf q)

/-- The chunk runs of [pa, pa + len), ascending (R99). -/
def chunksOf (pa len : Nat) : List (Nat × Nat) :=
  ((List.range (len / 64 + 2)).map (fun i =>
    let lo := max pa (pa / 64 * 64 + 64 * i)
    let hi := min (pa + len) (pa / 64 * 64 + 64 * i + 64)
    (lo, hi - lo))).filter (fun x => x.2 != 0)

/-- Bytes at ascending addresses as runs without gaps. -/
def runsOf : List (Nat × Byte) → List (Nat × List Byte)
  | [] => []
  | (a, b) :: rest => match runsOf rest with
    | (a', bs) :: more => if a' = a + 1 then (a, b :: bs) :: more else (a, [b]) :: (a', bs) :: more
    | [] => [(a, [b])]

/-- One event through a stream, over bytes of one chunk in ascending address, each with its offset in its page: its result bytes (R316).
The bytes a sink keeps are stored at the event's own addresses, in order (log 26). -/
def State.streamEvent (s : State) (tenant slot : Nat) (places : List (Nat × Nat)) (store : Option (List Byte)) : List Byte × State :=
  match s.graph? tenant slot, places.head? with
  | some g, some p0 =>
    let fab := fabricOf p0.1
    let st := (g.streams.find? (fun x => x.fabric == fab)).getD (Stream.start g.image fab)
    let bs := match store with | some b => b | none => places.map (fun p => s.peek (.glob p.1))
    let r := streamRun s.timeBytes g.image store.isNone st ((places.map (·.2)).zip bs)
    let s := s.modGraph tenant slot (fun x => { x with
      streams := x.streams.map (fun y => if y.fabric == fab then r.stream else y)
      chunks := x.chunks + 1 })
    let kept := (r.bytes.zip r.keep).filterMap (fun x => if x.2 then some x.1 else none)
    let s := if store.isNone then s else
      (runsOf ((places.map (·.1)).zip kept)).foldl (fun st x => st.put none (.glob x.1) x.2 none) s
    (r.bytes, r.entries.foldl (fun st e => st.emitTo g.vf (imgEq g.image) e) s)
  | _, _ => ([], s)

/-- The places of a run of bytes of a page. -/
def placesOf (pa page len : Nat) : List (Nat × Nat) := (List.range len).map (fun i => (pa + i, page + i))

/-- An access through a stream: its chunk events in ascending address (R99, R319). -/
def State.streamAccess (s : State) (tenant slot pa page : Nat) (store : Option (List Byte)) (len : Nat) : List Byte × State :=
  (chunksOf pa len).foldl (fun (acc : List Byte × State) c =>
    let (bs, s') := acc.2.streamEvent tenant slot (placesOf c.1 (page + (c.1 - pa)) c.2) (store.map (fun b => (b.drop (c.1 - pa)).take c.2))
    (acc.1 ++ bs, s')) ([], s)

end Sys2Proof.Machine
end

