-- ==== Sys2Proof/Machine/Number.lean ====
section
/-! DEFINITION. Numbers and rounding (R119 to R137): exact values, the formats' codes, Round, conversions to integers, and the
stochastic generator. -/
namespace Sys2Proof.Machine
open Sys2Proof

/-- A value clamped to the range of a signed or unsigned h-bit integer. -/
def clampInt (signed : Bool) (h : Nat) (x : Int) : Int :=
  if signed then max (-(2 ^ (h - 1) : Int)) (min x (2 ^ (h - 1) - 1)) else max 0 (min x (2 ^ h - 1))

/-- An exact value: NaN, an infinity, or (−1)^neg × m × 2^e. A zero keeps its sign. -/
inductive Num where
  | nan
  | inf (neg : Bool)
  | fin (neg : Bool) (m : Nat) (e : Int)
deriving DecidableEq, Repr

/-- A floating format: its width, precision P, bias, largest finite magnitude code, the magnitude code of infinity, whether it
has a sign, and whether it is IEEE-layout (R119, R123 to R126). -/
structure Fmt where
  width : Nat
  prec : Nat
  bias : Int
  top : Nat
  infCode : Option Nat
  signed : Bool
  ieee : Bool
deriving DecidableEq, Repr

/-- An IEEE-layout format of a width and precision (R119). -/
def Fmt.ieeeOf (width prec : Nat) : Fmt :=
  { width := width, prec := prec, bias := 2 ^ (width - prec - 1) - 1, top := (2 ^ (width - prec) - 1) * 2 ^ (prec - 1) - 1,
    infCode := some ((2 ^ (width - prec) - 1) * 2 ^ (prec - 1)), signed := true, ieee := true }
/-- The four IEEE-layout formats. -/
def Fmt.f16 : Fmt := Fmt.ieeeOf 16 11
/-- bf16. -/
def Fmt.bf16 : Fmt := Fmt.ieeeOf 16 8
/-- f32. -/
def Fmt.f32 : Fmt := Fmt.ieeeOf 32 24
/-- f64. -/
def Fmt.f64 : Fmt := Fmt.ieeeOf 64 53
/-- The floating format of a size field: f16, f32, f64 (R198). -/
def Fmt.ofSize (sz : Nat) : Fmt := if sz = 1 then .f16 else if sz = 2 then .f32 else .f64

/-- A format of the binary family: width 8 or 4, precision, unsigned, with infinities (R123 to R126). -/
def Fmt.binary (width p : Nat) (unsigned i : Bool) : Fmt :=
  let ebits := if unsigned then width + 1 - p else width - p
  let last := if unsigned then 2 ^ width - 2 else 2 ^ (width - 1) - 1
  { width := width, prec := p, bias := 2 ^ (ebits - 1), top := if i then last - 1 else last,
    infCode := if i then some last else none, signed := !unsigned, ieee := false }

/-- The code of a format's NaN: the canonical one of R121, or the single one of R124 to R126. -/
def Fmt.nanCode (f : Fmt) : Nat :=
  if f.ieee then (2 ^ (f.width - f.prec) - 1) * 2 ^ (f.prec - 1) + 2 ^ (f.prec - 2)
  else if f.signed then 2 ^ (f.width - 1) else 2 ^ f.width - 1

/-- The value of a magnitude code of a format. -/
def Fmt.magnitude (f : Fmt) (neg : Bool) (c : Nat) : Num :=
  let k := 2 ^ (f.prec - 1)
  let e := c / k
  if e = 0 then .fin neg (c % k) (1 - f.bias - (f.prec - 1 : Nat))
  else .fin neg (k + c % k) ((e : Int) - f.bias - (f.prec - 1 : Nat))

/-- The value of a code (R119, R123 to R126). -/
def Fmt.decode (f : Fmt) (c : Nat) : Num :=
  let c := c % 2 ^ f.width
  let half := 2 ^ (f.width - 1)
  let neg := f.signed && half ≤ c
  let m := if neg then c - half else c
  if !f.ieee && c == f.nanCode then .nan
  else match f.infCode with
    | some i => if m = i then .inf neg else if f.ieee && i < m then .nan else f.magnitude neg m
    | none => f.magnitude neg m

/-- A magnitude code with a sign. -/
def Fmt.signCode (f : Fmt) (neg : Bool) (m : Nat) : Nat := if neg && f.signed then m + 2 ^ (f.width - 1) else m
/-- The zero of a sign; the b8 and b4 formats have one zero (R131). -/
def Fmt.zero (f : Fmt) (neg : Bool) : Nat := if f.ieee then f.signCode neg 0 else 0
/-- The largest finite value of a sign. -/
def Fmt.largest (f : Fmt) (neg : Bool) : Nat := f.signCode neg f.top
/-- The infinity of a sign, the NaN where the format has none. -/
def Fmt.infinity (f : Fmt) (neg : Bool) : Nat := match f.infCode with | some i => f.signCode neg i | none => f.nanCode

/-- y = m × 2^e as a count of units of 2^q, with what is left over as a fraction r / d of a unit. -/
def units (m : Nat) (e q : Int) : Nat × Nat × Nat :=
  if q ≤ e then (m * 2 ^ (e - q).toNat, 0, 1)
  else let d := 2 ^ (q - e).toNat; (m / d, m % d, d)

/-- The choice between a unit count and the next (R131): mode 0 RNE, 1 RTZ, 2 RDN, 3 RUP, 4 SR with its draw. -/
def roundUp (mode draw : Nat) (neg : Bool) (u r d : Nat) : Bool :=
  if r = 0 then false
  else match mode with
    | 0 => d < 2 * r || (d == 2 * r && u % 2 == 1)
    | 1 => false
    | 2 => neg
    | 3 => !neg
    | _ => 2 ^ 16 ≤ r * 2 ^ 16 / d + draw

/-- Overflow of R132. -/
def Fmt.overflow (f : Fmt) (neg : Bool) (mode : Nat) (sat : Bool) : Nat :=
  if sat then f.largest neg
  else match mode with
    | 1 => f.largest neg
    | 2 => if neg then f.infinity neg else f.largest neg
    | 3 => if neg then f.largest neg else f.infinity neg
    | _ => f.infinity neg

/-- Round(x, fmt, mode, sat) of R131, as a code. -/
def Fmt.round (f : Fmt) (mode : Nat) (sat : Bool) (draw : Nat) (x : Num) : Nat :=
  match x with
  | .nan => f.nanCode
  | .inf neg =>
    if !f.signed && neg then (if sat then 0 else f.nanCode)
    else if sat then f.largest neg else f.infinity neg
  | .fin neg m e =>
    if m = 0 then f.zero neg
    else if !f.signed && neg then (if sat then 0 else f.nanCode)
    else
      let lg : Int := (Nat.log2 m : Int) + e
      let low := 1 - f.bias
      let p1 : Int := (f.prec - 1 : Nat)
      let q := (if lg < low then low else lg) - p1
      let (u, r, d) := units m e q
      let u' := if roundUp mode draw neg u r d then u + 1 else u
      let c := if lg < low then u' else (lg - low).toNat * 2 ^ (f.prec - 1) + u'
      if f.top < c then f.overflow neg mode sat
      else if c = 0 then f.zero neg else f.signCode neg c

/-- Conversion to an integer type (R133): the value rounded with q = 1, then clamped; a NaN gives 0. -/
def roundInt (signed : Bool) (w mode draw : Nat) (x : Num) : Nat :=
  match x with
  | .nan => 0
  | .inf neg => wrapInt w (clampInt signed w (if neg then -(2 ^ w) else 2 ^ w))
  | .fin neg m e =>
    let (u, r, d) := units m e 0
    let u' : Int := ((if roundUp mode draw neg u r d then u + 1 else u : Nat) : Int)
    wrapInt w (clampInt signed w (if neg then -u' else u'))

/-! ## Exact arithmetic (R199, R139) -/

/-- An integer as an exact value. -/
def Num.ofInt (x : Int) (e : Int) : Num := .fin (x < 0) x.natAbs e
/-- The integer a finite value is at a given exponent no greater than its own. -/
def scaled (neg : Bool) (m : Nat) (e q : Int) : Int :=
  let y : Int := ((m * 2 ^ (e - q).toNat : Nat) : Int)
  if neg then -y else y
/-- −x. -/
def Num.neg : Num → Num
  | .nan => .nan | .inf s => .inf (!s) | .fin s m e => .fin (!s) m e
/-- x × 2^k (R128). -/
def Num.scale (x : Num) (k : Int) : Num := match x with | .fin s m e => .fin s m (e + k) | y => y

/-- x + y; an exact zero from operands of opposite signs is −0 only where `down`, that is in mode RDN (R199). -/
def Num.add (down : Bool) (x y : Num) : Num :=
  match x, y with
  | .nan, _ | _, .nan => .nan
  | .inf a, .inf b => if a = b then .inf a else .nan
  | .inf a, _ => .inf a
  | _, .inf b => .inf b
  | .fin a m e, .fin b n k =>
    if m = 0 ∧ n = 0 then .fin (if a = b then a else down) 0 0
    else
      let q := min e k
      let z := scaled a m e q + scaled b n k q
      if z = 0 then .fin down 0 0 else Num.ofInt z q

/-- x × y: the sign is the exclusive or of the factors' signs (R199). -/
def Num.mul (x y : Num) : Num :=
  match x, y with
  | .nan, _ | _, .nan => .nan
  | .inf a, .inf b => .inf (a != b)
  | .inf a, .fin b m _ => if m = 0 then .nan else .inf (a != b)
  | .fin a m _, .inf b => if m = 0 then .nan else .inf (a != b)
  | .fin a m e, .fin b n k => .fin (a != b) (m * n) (e + k)

/-- x < y as numbers; +0 equals −0; false where either is a NaN. -/
def Num.lt (x y : Num) : Bool :=
  match x, y with
  | .nan, _ | _, .nan => false
  | .inf a, .inf b => a && !b
  | .inf a, .fin _ _ _ => a
  | .fin _ _ _, .inf b => !b
  | .fin a m e, .fin b n k => let q := min e k; scaled a m e q < scaled b n k q

/-- Is a value a NaN? -/
def Num.isNan : Num → Bool | .nan => true | _ => false
/-- Is a value a zero? -/
def Num.isZero : Num → Bool | .fin _ m _ => m == 0 | _ => false
/-- The sign of a value. -/
def Num.sign : Num → Bool | .nan => false | .inf s => s | .fin s _ _ => s
/-- x < y with −0 below +0 (R200). -/
def Num.below (x y : Num) : Bool := x.lt y || (x.isZero && y.isZero && x.sign && !y.sign)

/-- `fmin` and `fmax` of two codes (R200). -/
def Fmt.pick (f : Fmt) (greatest : Bool) (a b : Nat) : Nat :=
  let x := f.decode a
  let y := f.decode b
  if x.isNan && y.isNan then f.nanCode
  else if x.isNan then b
  else if y.isNan then a
  else if greatest then (if x.below y then b else a) else (if y.below x then b else a)

/-- The condition of `fsetp` (R201). -/
def floatCond (cond : Nat) (x y : Num) : Bool :=
  let un := x.isNan || y.isNan
  match cond with
  | 0 => !un && !(x.lt y) && !(y.lt x)
  | 1 => un || x.lt y || y.lt x
  | 2 => x.lt y
  | 3 => !un && !(y.lt x)
  | 4 => y.lt x
  | 5 => !un && !(x.lt y)
  | 6 => un
  | _ => !un

/-- The class bit of a code (R202). -/
def Fmt.class (f : Fmt) (c : Nat) : Nat :=
  match f.decode c with
  | .nan => 256
  | .inf neg => if neg then 1 else 128
  | .fin neg m _ =>
    if m = 0 then (if neg then 8 else 16)
    else if m < 2 ^ (f.prec - 1) then (if neg then 4 else 32) else (if neg then 2 else 64)

/-! ## Element format codes (R127) -/

/-- An element format: floating or integer. -/
inductive Elem where
  | flt (f : Fmt)
  | int (signed : Bool) (w : Nat)
deriving DecidableEq, Repr

/-- The element format of a code; none where the code is unassigned. -/
def elemOf (c : Nat) : Option Elem :=
  let w := if bitsOf c 5 5 = 1 then 4 else 8
  let un := bitsOf c 4 4 == 1
  let p := bitsOf c 2 0
  match bitsOf c 7 6 with
  | 0 => if p = 0 || (w == 4 && 3 < p) then none else some (.flt (Fmt.binary w p un (bitsOf c 3 3 == 1)))
  | 1 => if bitsOf c 3 0 = 0 then some (.int (!un) w) else none
  | _ => none

/-- An element's width. -/
def Elem.width : Elem → Nat | .flt f => f.width | .int _ w => w
/-- The value of an element code. -/
def Elem.value (x : Elem) (c : Nat) : Num :=
  match x with
  | .flt f => f.decode c
  | .int signed w => Num.ofInt (if signed then sInt w c else (c % 2 ^ w : Nat)) 0
/-- A value as an element code (R131, R133). -/
def Elem.code (x : Elem) (mode : Nat) (sat : Bool) (draw : Nat) (v : Num) : Nat :=
  match x with
  | .flt f => f.round mode sat draw v
  | .int signed w => roundInt signed w mode draw v
/-- MaxFinite of a format, or an integer type's maximum (R211). -/
def Elem.maxFinite : Elem → Num
  | .flt f => f.decode f.top
  | .int signed w => .fin false (if signed then 2 ^ (w - 1) - 1 else 2 ^ w - 1) 0

/-! ## The stochastic generator (R134, R136) -/

/-- Draw16: the 16 bits it gives and the state after it. -/
def draw16 (gs : Word) : Nat × Word :=
  let a := gs ^^^ (gs <<< 13)
  let b := a ^^^ (a >>> 7)
  let c := b ^^^ (b <<< 17)
  (c.toNat / 2 ^ 48, c)

/-- n draws in order, and the state after them. -/
def drawN : Nat → Word → List Nat × Word
  | 0, gs => ([], gs)
  | n + 1, gs => let (x, g) := draw16 gs; let (xs, g') := drawN n g; (x :: xs, g')

/-- The draws of an instruction: one for each of n elements of each active thread, none outside mode SR. -/
def drawsFor (mode n : Nat) (active : W32) (gs : Word) : List Nat × Word :=
  if mode = 4 then drawN (n * (lanesOf active).length) gs else ([], gs)

/-- The draw of element k of thread t. -/
def drawAt (draws : List Nat) (n : Nat) (active : W32) (t k : Nat) : Nat :=
  draws.getD (((List.range t).countP (bitAt active)) * n + k) 0

end Sys2Proof.Machine
end

