-- ==== Sys2Proof/Machine/Format.lean ====
section
/-! DEFINITION. Formatted pages (R76 to R81): the format table's entries and the shift count of an element. -/
namespace Sys2Proof.Machine
open Sys2Proof

/-- An entry of a space's format table (R76). -/
structure FmtEntry where
  elem : Elem
  code : Nat
  base : Nat
  len : Nat
  scales : Nat
  block : Nat
deriving DecidableEq, Repr

/-- Entry i of the format table of a process (R76, R358); none where every access through it traps with FORMAT_MISMATCH. The
table's bytes are read as the device's own; an entry that cannot be read is no entry (log 11). -/
def State.fmtEntry (s : State) (vf proc i : Nat) : Option FmtEntry :=
  match (s.vf? vf).bind (·.proc? proc) with
  | none => none
  | some p =>
    if p.fmttab == 0 then none
    else match s.deviceRead vf proc (p.fmttab.toNat + 32 * i) 32 with
      | none => none
      | some bs =>
        let ctl := fieldAt bs 25 1
        if fieldAt bs 26 6 != 0 || bitsOf ctl 7 7 == 0 || bitsOf ctl 6 2 != 0 then none
        else match elemOf (fieldAt bs 24 1) with
          | none => none
          | some e => some { elem := e, code := fieldAt bs 24 1, base := fieldAt bs 0 8, len := fieldAt bs 8 8,
                             scales := fieldAt bs 16 8, block := 16 * 2 ^ bitsOf ctl 1 0 }

/-- Does an address lie in an entry's region (R77)? -/
def FmtEntry.holds (f : FmtEntry) (va : Nat) : Bool := f.base ≤ va && va < f.base + f.len

/-- The address of the shift count of the block that holds an address (R77). -/
def FmtEntry.scaleAt (f : FmtEntry) (va : Nat) : Nat := f.scales + (va - f.base) * 8 / (f.elem.width * f.block)

/-- A shift count's byte that marks an all-zero block (R129). -/
def zeroBlock (b : Byte) : Bool := b == 0x80

/-- An element of a block as an f32 code (R78, R128, R129). -/
def elemF32 (e : Elem) (code : Nat) (shift : Byte) : Nat :=
  if zeroBlock shift then 0 else Fmt.f32.round 0 false 0 ((e.value code).scale (sInt 8 shift.toNat))

end Sys2Proof.Machine
end

