-- ==== Sys2Proof/Machine/Check.lean ====
section
/-! DEFINITION. The checks of R93 on a lane's address, what stops a request after them, the bytes an agent sees, and structures read as
loads (R62 to R96, R221 to R230, R309, R316, R397 to R402). -/
namespace Sys2Proof.Machine
open Sys2Proof

/-- The place in `far` of an address of a package of another pod. -/
def farAddr (pod pkg pa : Nat) : Nat := (pod * 16 + pkg) * 2 ^ 52 + pa

/-- IFSTATE of a function (R424). -/
def Vf.ifWord (f : Vf) : Nat := f.ifstate + 2 ^ 8 * f.cause + 2 ^ 16 * f.tcount.toNat

/-- A read of an MMIO address (R230, R424): the field's register, or 0 where no register lies. -/
def State.mmioRead (s : State) (pa n : Nat) : Nat :=
  if 0x3000000100000 ≤ pa && pa < 0x3000000104000 then
    match s.vf? ((pa - 0x3000000100000) / 0x100) with
    | none => 0
    | some f =>
      let regs := leBytes 4 f.ifWord ++ leBytes 4 f.ifres ++ leBytes 4 0 ++ leBytes 4 f.iflkaddr.toNat ++
        leBytes 8 f.ifrep.toNat ++ leBytes 8 0 ++ leBytes 8 f.ifnote.toNat
      fieldAt regs (pa % 0x100) n
  else 0

/-! ## Checks (R93) -/

/-- A failure of a lane: its place in the order of R93, and what the record says. -/
structure Fail where
  rank : Nat
  code : Nat
  sub : Nat
  addr : Nat
  synd : Nat
deriving DecidableEq, Repr

/-- What an access wants: to read, to write, the operation code of an atomic (R300), whether addresses are local-store offsets,
whether it reads constant segments, whether it is a copy,
whether it may reach another pod, whether it decodes a formatted page, and its bytes. -/
structure Want where
  read : Bool := false
  write : Bool := false
  atomic : Option Nat := none
  own : Bool := false
  const : Bool := false
  copy : Bool := false
  far : Bool := false
  decode : Bool := false
  size : Nat
deriving DecidableEq, Repr

/-- The space of an agent: its function and process. -/
def State.spaceOf (s : State) (w : Who) : Nat × Nat := match s.launchOf w with | some l => (l.vf, l.proc) | none => (0, 0)
/-- The tenant of an agent's space. -/
def State.tenantOfWho (s : State) (w : Who) : Nat := s.vfTenant (s.spaceOf w).1

/-- The constant segments of an agent's launch, of whichever kernel, but for unused entries (R70, R367). -/
def State.segments (s : State) (w : Who) : List (Nat × Nat) :=
  match s.launchOf w with | some l => (l.kernels.flatMap (·.consts)).filter (fun g => g.2 != 0) | none => []

/-- The parts of an access on each 512 KiB page it touches. -/
def pageParts (va n : Nat) : List (Nat × Nat) :=
  let edge := (va / 0x80000 + 1) * 0x80000
  if va + n ≤ edge then [(0, n)] else [(0, edge - va), (edge - va, va + n - edge)]

/-- LOCAL_STORE_RANGE at an address or offset. -/
def rangeFail (a : Nat) : Fail := { rank := 1, code := 0x16, sub := 0, addr := a, synd := 0 }
/-- The rank of a walk's failure. -/
def walkFail (code sub a : Nat) : Fail := { rank := if code = 0x10 then 1 else 2, code := code, sub := sub, addr := a, synd := 0 }

/-- Is a page read through a graph that lets an access pass (R83, R316)? The failure if not. -/
def streamFail (s : State) (w : Who) (want : Want) (l : Leaf) (va : Nat) : List Fail :=
  if l.slot = 0 || l.fmt != 0 then []
  else match s.openGraph? (s.tenantOfWho w) l.slot with
    | none => [{ rank := 1, code := 0x10, sub := 3, addr := va, synd := 0 }]
    | some g =>
      let kind := imgKind g.image
      if kind == 3 || (kind == 1 && want.write) || (kind == 2 && want.read) then
        [{ rank := 6, code := 0x15, sub := 0, addr := va, synd := 0 }] else []

/-- Does the home package of a frame of pod memory refuse it (R352, R357): is its owner there another than the tenant, or than the tenant
that the window entry names? A page behind a window is checked only for an access that reaches it, a `cpy.g2g`'s. -/
def State.podRefuses (s : State) (w : Who) (l : Leaf) (pa : Nat) (far : Bool) : Bool :=
  match l.far with
  | some (pod, pkg, ten) => far && Config.podOwner pod pkg (pa % 2 ^ 44 / 0x80000) != ten
  | none => s.podForeign (s.tenantOfWho w) pa

/-- Failures of a scale byte's own page (R77). An address with bits [63:57] set, or in the local-store region, has no valid translation
(DESIGN CHOICE, log 54: R77 speaks of the page only). A page of another pod, and a register, are refused as any access of a byte there
is (R227, R230). -/
def scaleFail (s : State) (w : Who) (a : Nat) : List Fail :=
  let (vf, proc) := s.spaceOf w
  if localRegion ≤ a then [walkFail 0x10 1 a]
  else match s.lookup (s.coreOf w) vf proc a with
    | .bad c sub => [walkFail c sub a]
    | .leaf l =>
      (if !l.r || (l.sup && s.plvOf w == 0) || s.podRefuses w l (l.paOf a) false then [walkFail 0x11 1 a] else []) ++
      (if l.far.isSome then [walkFail 0x11 5 a] else []) ++
      (if kindOf (l.paOf a) == .mmio then [{ rank := 3, code := 0x12, sub := 0, addr := a, synd := 0 }] else []) ++
      (if l.fmt != 0 || l.slot != 0 then [{ rank := 4, code := 0x13, sub := 0, addr := a, synd := 0 }] else [])

/-- Failures of a formatted page (R76 to R78, R82, R227, R229): `va0` is the lane's address, `va` that of its n bytes on the page. -/
def formatFail (s : State) (w : Who) (want : Want) (l : Leaf) (va0 va n : Nat) : List Fail :=
  let bad : Fail := { rank := 4, code := 0x13, sub := 0, addr := va0, synd := 0 }
  if l.fmt != 0 && l.slot != 0 then [bad]
  else if want.const && (l.fmt != 0 || l.slot != 0) then [bad]
  else if l.fmt = 0 then []
  else
    let (vf, proc) := s.spaceOf w
    match s.fmtEntry vf proc l.fmt with
    | none => [bad]
    | some e =>
      let two := e.elem.width / 4
      (if !(e.holds va && e.holds (va + n - 1)) then [bad] else
        (if want.read && want.atomic.isNone then
          ([va, va + n - 1].foldl (fun acc a => insertNew (e.scaleAt a) acc) []).flatMap (scaleFail s w) else [])) ++
      (if want.decode && want.size != two then [bad] else []) ++
      (if want.decode && va0 % two != 0 then [{ rank := 3, code := 0x12, sub := 0, addr := va0, synd := 0 }] else [])

/-- Failures of an atomic at its target (R92, R298, R300). -/
def atomicFail (s : State) (w : Who) (want : Want) (l : Leaf) (va pa : Nat) : List Fail :=
  match want.atomic with
  | none => []
  | some op =>
    let fail := fun (sub kind idx : Nat) => [({ rank := 5, code := 0x14, sub := sub, addr := va, synd := op + 2 ^ 8 * kind + 2 ^ 16 * idx } : Fail)]
    if l.fmt != 0 then fail 1 1 l.fmt
    else if l.slot != 0 then fail 1 2 l.slot
    else match kindOf pa with
      | .mmio => fail 1 3 0
      | .host =>
        if !(op == 0 || op == 8 || op == 9 || op == 0x40) then fail 2 4 0
        else if !(match s.vf? (s.spaceOf w).1 with | some f => f.atomicEnable | none => false) then fail 3 4 0 else []
      | _ => []

/-- Failures and place of a run of bytes at an address (R62 to R66, R93, R227, R230, R356). A
failure names the lane's address, `va0` (R299), but for a scale byte's (R77). Any load but `ldc` takes a constant segment's page as the
page says (R71; DEDUCED, log 55: R328 says that a label's address is readable only with `ldc`). A register is reached by 4 or 8 bytes alone, in a
copy's lane as in a load, so that a lane of 16 there is MISALIGNED (DEDUCED, log 13: R227 says so of loads and stores, R235 lets a copy's
address be any). All of an `ldc` lane's bytes on a page lie in one constant segment, or it traps as outside every one (DESIGN CHOICE, log 41:
R70 and R229 speak of its address alone). -/
def State.segAt (s : State) (w : Who) (want : Want) (va0 : Nat) (off n : Nat) : List Fail × List Seg :=
  let va := va0 + off
  match s.block? (blkOf w) with
  | none => ([walkFail 0x10 1 va0], [])
  | some x =>
    let outside := if want.const then [({ rank := 2, code := 0x11, sub := 3, addr := va0, synd := 0 } : Fail)] else []
    let here := fun (b o : Nat) => (outside, [({ off := off, len := n, va := va, loc := .ls b o, leaf := none, lane := some va0 } : Seg)])
    if want.own then (if va + n ≤ x.lsg then here x.id va else ([rangeFail va0], []))
    else if 2 ^ 57 ≤ va then ([walkFail 0x10 2 va0], [])
    else if 0x01F0000000000000 ≤ va && va < 0x01F0000000400000 then
      (let o := va - 0x01F0000000000000; if o + n ≤ x.lsg then here x.id o else ([rangeFail va0], []))
    else if 0x01F8000000000000 ≤ va && va < 0x01F8000040000000 then
      (let o := va % 0x400000
       let k := (va - 0x01F8000000000000) / 0x400000
       match x.convoyOf 0 with
       | none => ([rangeFail va0], [])
       | some cv => match (cv.members[k]?).bind (s.blockAt x.launch x.kernel) with
         | some y => if o + n ≤ y.lsg then here y.id o else ([rangeFail va0], [])
         | none => ([rangeFail va0], []))
    else if localRegion ≤ va then ([rangeFail va0], [])
    else
      let (vf, proc) := s.spaceOf w
      match s.lookup x.core vf proc va with
      | .bad c sub => ([walkFail c sub va0], [])
      | .leaf l =>
        let pa := l.paOf va
        let k := kindOf pa
        let segs := s.segments w
        let constPage := segs.any (fun g => l.base < g.1 + g.2 && g.1 < l.base + l.size)
        let inside := segs.any (fun g => g.1 ≤ va && va + n ≤ g.1 + g.2)
        let perm := fun (sub : Nat) => ({ rank := 2, code := 0x11, sub := sub, addr := va0, synd := 0 } : Fail)
        let mis : Fail := { rank := 3, code := 0x12, sub := 0, addr := va0, synd := 0 }
        let fails :=
          (if (want.read && !l.r) || (want.write && !l.w) || (l.sup && s.plvOf w == 0) || s.podRefuses w l pa want.far then [perm 1] else []) ++
          (if l.far.isSome && !want.far then [perm 5] else []) ++
          (if (want.write && constPage) || (want.const && !inside) then [perm 3] else []) ++
          (if k == .mmio && !((want.size == 4 || want.size == 8) && va0 % want.size == 0) then [mis] else []) ++
          (if k == .host && va0 / 4096 != (va0 + want.size - 1) / 4096 then [mis] else []) ++
          streamFail s w want l va0 ++ formatFail s w want l va0 va n ++ atomicFail s w want l va0 pa
        (fails, [{ off := off, len := n, va := va, loc := .glob pa, leaf := some l, lane := some va0 }])

/-- A lane's failures and its segments (R93, R227). -/
def State.checkLane (s : State) (w : Who) (want : Want) (va : Nat) : List Fail × List Seg :=
  let parts := (pageParts va want.size).map (fun p => s.segAt w want va p.1 p.2)
  let mis := if (want.atomic.isSome || want.copy) && va % want.size != 0 then
    [({ rank := 3, code := 0x12, sub := 0, addr := va, synd := 0 } : Fail)] else []
  (mis ++ parts.flatMap (·.1), parts.flatMap (·.2))

/-- The failure that decides: the first in the order of R93. -/
def firstFail (fs : List Fail) : Option Fail :=
  fs.foldl (fun acc f => match acc with | some g => if f.rank < g.rank then some f else some g | none => some f) none

/-- The trap of several lanes' failures (R93): the first code in the order, the lanes that failed with it, and the lowest such
lane's address; among codes of one rank the lowest failing lane's (log 12). -/
def failTrap (fails : List (Nat × Fail)) (whole : Bool) : Option Trap :=
  let low := fails.foldl (fun acc f => min acc f.2.rank) 9
  match fails.find? (fun f => f.2.rank == low) with
  | none => none
  | some f => some { code := f.2.code, sub := f.2.sub, addr := BitVec.ofNat 64 f.2.addr, synd := BitVec.ofNat 64 f.2.synd, lreason := 0,
                     lanes := if whole then BitVec.allOnes 32 else
                       maskOf (fun t => fails.any (fun g => g.1 == t && g.2.rank == low && g.2.code == f.2.code)) }

/-- Every active lane checked before any performs (R93): the trap, or each lane's segments. -/
def State.checkLanes (s : State) (w : Who) (want : Want) (lanes : List (Nat × Nat)) (whole : Bool) : Option Trap × List (Nat × List Seg) :=
  let r := lanes.map (fun x => (x.1, s.checkLane w want x.2))
  let fails := r.filterMap (fun x => (firstFail x.2.1).map (fun f => (x.1, f)))
  (failTrap fails whole, r.map (fun x => (x.1, x.2.2)))

/-! ## What stops a request that has passed its checks (R397, R398, R402) -/

/-- The die or package that performs an access to a place (R72): a die of this package, the hub for what is neither tier's, a
package of the pod, or a package of another pod. -/
inductive Home where
  | die (d : Nat)
  | pkg (p : Nat)
  | pod
deriving DecidableEq, Repr

/-- The home of a place. -/
def State.homeOf (s : State) (l : Loc) : Home :=
  match l with
  | .ls b _ => .die (match s.block? b with | some x => dieOf x.core | none => 4)
  | .glob pa => match kindOf pa with
    | .tier1 => .die (bitsOf pa 38 37)
    | .pod p => .pkg p
    | .window _ => .pod
    | _ => .die 4

/-- The number of the crossing between two dies (log 16): 16 for dies 0 and 1, and so on to 25 for dies 3 and 4. -/
def crossing (a b : Nat) : Nat :=
  16 + ([(0, 1), (0, 2), (0, 3), (0, 4), (1, 2), (1, 3), (1, 4), (2, 3), (2, 4), (3, 4)].idxOf (min a b, max a b))

/-- Does a link carry traffic (R400)? -/
def State.linkOk (s : State) (i : Nat) : Bool := s.links.any (fun l => l.1 == i && l.2.up && !l.2.failed)

/-- The crossings in service from one die to another through at most n others. -/
def State.hops (s : State) (dest : Nat) : Nat → Nat → Option (List Nat)
  | n, at_ =>
    if at_ == dest then some []
    else if s.linkOk (crossing at_ dest) then some [crossing at_ dest]
    else match n with
      | 0 => none
      | m + 1 => (List.range 5).findSome? (fun d =>
          if d != at_ && s.linkOk (crossing at_ d) then (s.hops dest m d).map (crossing at_ d :: ·) else none)

/-- The crossings that traffic from one die to another takes (R400): its own, or rerouted through as few other dies as can be. -/
def State.dieRoute (s : State) (here dest : Nat) : Option (List Nat) := (List.range 4).findSome? (fun n => s.hops dest n here)

/-- The ports in service on the compute dies, those that satisfy a test first. -/
def State.ports? (s : State) (first : Link → Bool) : List Nat :=
  let up := (s.links.filter (fun l => l.1 < 16 && s.linkOk l.1))
  (up.filter (fun l => first l.2)).map (·.1) ++ (up.filter (fun l => !first l.2)).map (·.1)

/-- The links that traffic from a die to a home takes (R400, R402; log 16): crossings, and to another package a port in service, one to
that package before one to a third. None where no route remains. -/
def State.route (s : State) (die : Nat) (h : Home) : Option (List Nat) :=
  let through := fun (ps : List Nat) => ps.findSome? (fun p => (s.dieRoute die (p / 4)).map (· ++ [p]))
  match h with
  | .die d => s.dieRoute die d
  | .pkg k => through (s.ports? (fun l => l.peer == k))
  | .pod => through (s.ports? (fun _ => true))

/-- LINK_LOST for a place whose home cannot be reached from a die (R402): the sub-reason and the home's package in the pod. -/
def State.homeLost (s : State) (die : Nat) (h : Home) : Option (Nat × Nat) :=
  match h with
  | .pkg p => if s.fenced.contains p then some (2, p) else if (s.route die h).isSome then none else some (1, p)
  | .pod => if (s.route die h).isSome then none else some (1, s.mypkg)
  | .die _ => if (s.route die h).isSome then none else some (1, s.mypkg)

/-- The home of a segment; a page behind a pod window is at home in another pod. -/
def State.homeOfSeg (s : State) (g : Seg) : Home :=
  if (match g.leaf with | some l => l.far.isSome | none => false) then .pod else s.homeOf g.loc

/-- LINK_LOST for a segment whose home cannot be reached from a die (R402), or for a write one of whose homes cannot, on a dual-home page
(R362). Of a home in another pod the record names the window entry's package (DEDUCED, log 12). -/
def State.linkLost (s : State) (die : Nat) (g : Seg) (write : Bool) : Option (Nat × Nat) :=
  (s.homeLost die (s.homeOfSeg g)).map (fun x => match g.leaf.bind (·.far) with | some f => (x.1, f.2.1) | none => x) <|>
  (if write then (g.leaf.bind (·.secondOf g.va)).bind (fun a => s.homeLost die (s.homeOf (.glob a))) else none)

/-- The address a record names for a segment: its lane's (R299). -/
def Seg.laneVa (g : Seg) : Nat := g.lane.getD g.va

/-- The first poisoned byte of some segments that no byte of the agent's own hides: its address, its lane's address and its poison. -/
def State.badByte (s : State) (hidden : Loc → Bool) (segs : List Seg) : Option (Nat × Nat × Poison) :=
  segs.findSome? (fun g => (List.range g.len).findSome? (fun i =>
    if hidden (g.loc.add i) then none else (s.poisonAt (g.loc.add i)).map (fun p => (g.va + i, g.laneVa, p))))

/-- POISON_DATA or UNCORRECTABLE_COHERENCE for a poisoned byte (R397, R398): ADDR is the lane's address, or the byte's. -/
def poisonTrap (mask : W32) (x : Nat × Nat × Poison) : Trap :=
  let p := x.2.2
  if p.cause = 0 then { code := 0x30, sub := 1, addr := BitVec.ofNat 64 x.2.1, synd := 0, lanes := mask, lreason := 0 }
  else { code := 0x31, sub := 1, addr := BitVec.ofNat 64 x.1, synd := BitVec.ofNat 64 (p.first + 2 ^ 8 * p.last + 2 ^ 16 * p.cause),
         lanes := mask, lreason := 0 }

/-- The trap of lanes whose bytes cannot be had: LINK_LOST of any lane first, then POISON_DATA or UNCORRECTABLE_COHERENCE by the first
poisoned byte of the lowest lane that has one (DESIGN CHOICE, log 12: no rule orders the three). LANES are those that failed with the
code (R93). What does not read is a write. -/
def State.reachTrap (s : State) (w : Who) (lanes : List (Nat × List Seg)) (reads : Bool) (whole : Bool) (hidden : Loc → Bool) : Option Trap :=
  let die := dieOf (s.coreOf w)
  let mask := fun (f : List Seg → Bool) => if whole then BitVec.allOnes 32 else maskOf (fun t => lanes.any (fun l => l.1 == t && f l.2))
  match lanes.findSome? (fun l => l.2.findSome? (fun g => (s.linkLost die g !reads).map (fun x => (g.laneVa, x)))) with
  | some (a, sub, p) => some { code := 0x32, sub := sub, addr := BitVec.ofNat 64 a, synd := BitVec.ofNat 64 p, lreason := 0,
                               lanes := mask (fun gs => gs.any (fun g => (s.linkLost die g !reads).isSome)) }
  | none =>
    if !reads || (s.poison.isEmpty && s.blocks.all (fun x => x.lsPoison.isEmpty)) then none
    else (lanes.findSome? (fun l => s.badByte hidden l.2)).map (fun x =>
      poisonTrap (mask (fun gs => match s.badByte hidden gs with | some y => (y.2.2.cause == 0) == (x.2.2.cause == 0) | none => false)) x)

/-! ## What a load sees -/

/-- The byte of a caravan's own held stores at a place, the latest that covers it (R103). -/
def heldByte (held : List Held) (l : Loc) : Option Byte :=
  held.foldl (fun acc h => match h with
    | .store at_ bs _ _ =>
      (match at_, l with
       | .glob a, .glob b => if a ≤ b && b < a + bs.length then some (bs.getD (b - a) 0) else acc
       | .ls x a, .ls y b => if x == y && a ≤ b && b < a + bs.length then some (bs.getD (b - a) 0) else acc
       | _, _ => acc)
    | _ => acc) none

/-- The held operations of an agent. -/
def State.heldOf (s : State) (w : Who) : List Held :=
  match w with
  | .car b n => (match s.car? b n with | some c => c.held | none => [])
  | .seq _ => []

/-- Does a place hold a byte the agent's own held stores cover? -/
def State.hides (s : State) (w : Who) : Loc → Bool := fun l => (heldByte (s.heldOf w) l).isSome

/-- Is a leaf's page cached untracked in L1 (R72, R74)? -/
def cachedUntracked (leaf : Option Leaf) (l : Loc) : Bool :=
  match leaf, l with
  | some f, .glob pa => !f.tracked && f.slot == 0 && (match kindOf pa with | .host | .mmio => false | _ => true)
  | _, _ => false

/-- The byte a load sees (R74, R97, R103): its own held store, else the core's clean untracked line, else memory. -/
def State.seeByte (s : State) (w : Who) (held : List Held) (leaf : Option Leaf) (l : Loc) : Byte :=
  match heldByte held l with
  | some b => b
  | none =>
    match l with
    | .glob pa => if cachedUntracked leaf l then
        (match (s.core? (s.coreOf w)).bind (fun c => c.l1.find? (fun ln => ln.1 == pa / 256)) with
         | some ln => ln.2.getD (pa % 256) 0
         | none => s.peek l)
        else s.peek l
    | .ls _ _ => s.peek l

/-- The bytes of a segment as its agent sees them beside some held stores. -/
def State.seeBeside (s : State) (w : Who) (held : List Held) (g : Seg) : List Byte :=
  match g.loc, g.leaf with
  | .glob pa, some l => if kindOf pa == .mmio then leBytes g.len (s.mmioRead pa g.len)
      else (List.range g.len).map (fun i => s.seeByte w held (some l) (g.loc.add i))
  | _, leaf => (List.range g.len).map (fun i => s.seeByte w held leaf (g.loc.add i))

/-- The bytes of a segment as its agent sees them. -/
def State.seeSeg (s : State) (w : Who) (g : Seg) : List Byte := s.seeBeside w (s.heldOf w) g

/-- The value of a lane's segments. -/
def State.seeLane (s : State) (w : Who) (segs : List Seg) : Nat := leNat (segs.flatMap (s.seeSeg w))

/-- The f32 pair a formatted load gives (R78, R81). -/
def State.seeFormatted (s : State) (w : Who) (g : Seg) (l : Leaf) : Nat :=
  let (vf, proc) := s.spaceOf w
  match s.fmtEntry vf proc l.fmt with
  | none => 0
  | some e =>
    let code := leNat (s.seeSeg w g)
    let shift : Byte := match s.lookup (s.coreOf w) vf proc (e.scaleAt g.va) with
      | .leaf m => s.seeByte w (s.heldOf w) (some m) (.glob (m.paOf (e.scaleAt g.va)))
      | .bad _ _ => 0
    elemF32 e.elem (code % 2 ^ e.elem.width) shift + 2 ^ 32 * elemF32 e.elem (code / 2 ^ e.elem.width) shift

/-- The scale byte's segment of a formatted load, for marks and poison. -/
def State.scaleSeg (s : State) (w : Who) (g : Seg) : List Seg :=
  match g.leaf with
  | none => []
  | some l => if l.fmt = 0 then [] else
    let (vf, proc) := s.spaceOf w
    match s.fmtEntry vf proc l.fmt with
    | none => []
    | some e => match s.lookup (s.coreOf w) vf proc (e.scaleAt g.va) with
      | .leaf m => [{ off := 0, len := 1, va := e.scaleAt g.va, loc := .glob (m.paOf (e.scaleAt g.va)), leaf := some m, lane := g.lane }]
      | .bad _ _ => []

/-- Does the block of a formatted element hold zeros, so that its bytes are not fetched (R81)? -/
def State.unfetched (s : State) (w : Who) (g : Seg) : Bool :=
  (s.scaleSeg w g).any (fun c => zeroBlock (s.seeByte w (s.heldOf w) c.leaf c.loc))

/-! ## What an access leaves behind -/

/-- Is a segment's place speculatively readable under a read mark: tracked memory or a local store (R392)? -/
def marked (g : Seg) : Bool :=
  match g.loc, g.leaf with
  | .ls _ _, _ => true
  | .glob pa, some l => l.tracked && (match kindOf pa with | .host | .mmio => false | _ => true)
  | .glob _, none => false

/-- The home's directory lists what a core holds of a line (R386): does it already hold the words? -/
def State.holdsWords (s : State) (core line first last : Nat) (own : Bool) : Bool :=
  match s.dir.find? (fun d => d.line == line) with
  | none => false
  | some d => d.sharers.any (fun r => r.cache == core &&
      (List.range (last + 1 - first)).all (fun i => (if own then r.owned else r.valid).getLsbD (first + i)))

/-- A tracked request for words of a line goes to the line's home unless the core already holds them, or the request is on its way (R386,
R387). It carries the core's incarnation number (R399). -/
def State.requestLine (s : State) (core line first last : Nat) (own : Bool) : State :=
  if s.holdsWords core line first last own ||
      s.agenda.any (fun i => match i with
        | .homeRequest c ln f l' o => c.cache == core && ln == line && f ≤ first && last ≤ l' && (o == own || o)
        | _ => false) then s
  else s.queueEvent (.homeRequest ⟨core, s.incarnation core, 0, none⟩ line first last own)

/-- The requests of a segment, one for each line it touches. -/
def State.request (s : State) (core : Nat) (g : Seg) (own : Bool) : State :=
  match g.loc, g.leaf with
  | .glob pa, some l => if l.tracked && marked g then
      (lineSpans pa g.len).foldl (fun (st : State) x => st.requestLine core x.1 x.2.1 x.2.2 own) s else s
  | _, _ => s

/-- The 256 bytes of a line. -/
def State.lineBytes (s : State) (line : Nat) : List Byte := (List.range 256).map (fun i => s.memByte (256 * line + i))

/-- Room made in a core's L1 for a clean untracked line, where clean ones are enough to evict (R14; DESIGN CHOICE, log 10). -/
def State.cleanRoom (s : State) (core line : Nat) : Option State :=
  let vs := s.l1Victims core [line]
  let tracked := s.trackedLines core
  if !(s.crowded core [line]) && vs.all (fun l => !(tracked.contains l)) then
    some (s.modCore core (fun c => { c with l1 := c.l1.filter (fun y => !(vs.contains y.1)) }))
  else none

/-- A clean untracked line is kept in L1 after a load, unless the access bypasses L1 (R74, R166), the line is one of an entered bundle on
another die (R89), or only tracked lines could make room for it. -/
def State.keepLine (s : State) (core : Nat) (g : Seg) (bypass : Bool) : State :=
  match g.loc with
  | .glob pa =>
    if cachedUntracked g.leaf g.loc then
      ([pa / 256, (pa + g.len - 1) / 256].eraseDups).foldl (fun st ln =>
        if bypass then st.modCore core (fun c => { c with l1 := c.l1.filter (fun y => y.1 != ln) })
        else if (st.cleanLines core).contains ln || !(st.mayHold core ln) then st
        else match st.cleanRoom core ln with
          | some st => st.modCore core (fun c => { c with l1 := c.l1 ++ [(ln, st.lineBytes ln)] })
          | none => st) s
    else s
  | .ls _ _ => s

/-- What a load of a segment brings to its core: the request (R387), the line (R74), the translation (R359). -/
def State.cacheRead (s : State) (w : Who) (bypass : Bool) (g : Seg) : State :=
  let core := s.coreOf w
  let s := (s.request core g false).keepLine core g bypass
  match g.leaf with
  | some _ => let (vf, proc) := s.spaceOf w; s.fillTlb core vf proc g.va
  | none => s

/-- Is any lane's segment MMIO? -/
def anyMmio (lanes : List (Nat × List Seg)) : Bool :=
  lanes.any (fun l => l.2.any (fun g => match g.loc with | .glob pa => kindOf pa == .mmio | .ls _ _ => false))
/-- Is a segment on a streamed page? -/
def Seg.streamed (g : Seg) : Bool := match g.leaf with | some l => l.slot != 0 | none => false
/-- Is any lane's segment on a streamed page? -/
def anyStream (lanes : List (Nat × List Seg)) : Bool := lanes.any (fun l => l.2.any Seg.streamed)

/-- The lines of L1 some segments need: global ones that no stream serves, neither host memory nor registers (R72). -/
def segLines (segs : List Seg) : List Nat :=
  segs.foldl (fun acc g => match g.loc with
    | .glob pa => if g.streamed || kindOf pa == .host || kindOf pa == .mmio then acc else addAll ((lineSpans pa g.len).map (·.1)) acc
    | .ls _ _ => acc) []

/-! ## Reading a structure as ordinary loads -/

/-- A segment of a unit read by a non-speculative agent beside some held stores: its bytes, through its stream where it has one. -/
def State.readSeg (s : State) (w : Who) (held : List Held) (g : Seg) : List Byte × State :=
  match g.leaf, g.loc with
  | some l, .glob pa => if l.slot != 0 then s.streamAccess (s.tenantOfWho w) l.slot pa (g.va - l.base) none g.len
      else (s.seeBeside w held g, s.cacheRead w false g)
  | _, _ => (s.seeBeside w held g, s.cacheRead w false g)

/-- n units of u bytes from an aligned address, each read as a uniform load of an agent: a trap of R93, or the bytes. -/
def State.readUnits (s : State) (w : Who) (held : List Held) (u a : Nat) : Nat → Option Trap × List Byte × State
  | 0 => (none, [], s)
  | n + 1 =>
    let (bad, bs, s) := s.readUnits w held u a n
    match bad with
    | some t => (some t, bs, s)
    | none =>
      let (bad, segs) := s.checkLanes w { read := true, decode := true, size := u } [(0, a + u * n)] true
      match bad <|> s.reachTrap w segs true true (fun l => (heldByte held l).isSome) with
      | some t => (some t, bs, s)
      | none =>
        let here := segs.flatMap (·.2)
        let (more, s) := here.foldl (fun (acc : List Byte × State) g =>
          let (x, s') := acc.2.readSeg w held g
          (acc.1 ++ x, s')) ([], s)
        (none, bs ++ more, s)

/-- n words of 8 bytes, so read. -/
def State.readWords (s : State) (w : Who) (held : List Held) (a n : Nat) : Option Trap × List Byte × State := s.readUnits w held 8 a n

/-- A graph image read at an address as loads, each word once (R261, R311): a trap, or its bytes, cut short where LEN is no length. -/
def State.readImage (s : State) (w : Who) (held : List Held) (a : Nat) : Option Trap × List Byte × State :=
  match s.readWords w held a 8 with
  | (some t, bs, s) => (some t, bs, s)
  | (none, head, s) =>
    let len := imgLen head
    if len < 64 ∨ 65536 < len then (none, head, s)
    else
      let (bad, bs, s) := s.readWords w held (a + 64) ((len + 7) / 8 - 8)
      (bad, (head ++ bs).take len, s)

end Sys2Proof.Machine
end

