-- ==== Sys2Proof/Machine/Ops.lean ====
section
/-! DEFINITION. The operations every meaning is written over, beside those on memory: arrivals, held operations and epochs (R103, R390), ends
of caravans and blocks, taking a trap and the record it leaves (R299, R334 to R340), and the issue of one word with its checks in the
spec's order (R36, R153 to R171). -/
namespace Sys2Proof.Machine
open Sys2Proof

/-! ## Arrivals, bundle entries and held operations -/

/-- One arrival on a barrier: the phase it counts towards, and the state after (R244). -/
def State.arrive (s : State) (b k : Nat) : W32 × State :=
  match s.block? b with
  | none => (0, s)
  | some x =>
    let r := vget x.bars k
    let r' : Barrier := if r.count + 1 = r.n then { r with count := 0, p := r.p + 1 } else { r with count := r.count + 1 }
    (r.p, s.modBlock b (fun y => { y with bars := vset y.bars k r' }))

/-- The lines that requests of a tenant and die keep resident (R304). -/
def State.keptLines (s : State) (tenant die : Nat) : List Nat :=
  (s.bundleReqs.filter (fun r => r.tenant == tenant && r.die == die)).flatMap (·.kept)

/-- The lines of a tenant's resident set on a die (R87, R304): those of bundles loading or resident there, and those that a request keeps. -/
def State.residentLines (s : State) (tenant die : Nat) : List Nat :=
  (s.bundles.filter (fun u => u.tenant == tenant && u.die == die && u.state != 0)).foldl (fun acc u => addAll u.lines acc)
    (addAll (s.keptLines tenant die) [])

/-- Are all of a bundle's lines in its die's L2: in bundles whose loads are complete, or kept from such? -/
def State.loaded (s : State) (u : Bundle) : Bool :=
  let here := s.bundles.filter (fun v => v.tenant == u.tenant && v.die == u.die && v.state == 2)
  let kept := s.keptLines u.tenant u.die
  u.state == 2 || u.lines.all (fun l => kept.contains l || here.any (fun v => v.lines.contains l))

/-- Are all of a bundle's lines in the resident set? -/
def State.allResident (s : State) (u : Bundle) : Bool :=
  let r := s.residentLines u.tenant u.die
  u.lines.all (fun l => r.contains l)

/-- A block's entry of a bundle is performed (R253, R305, R306): it arrives at once where the block has entered the bundle, and then does
not renew the bundle's entry time (DESIGN CHOICE, log 57: R304 does not say whether such an arrival completes an entry); where an earlier
entry is not complete, it arrives with that one. One that joins the queue keeps its place there even where another request makes the
bundle resident before its turn (DESIGN CHOICE, log 57: R305 orders requests by age and says nothing of this one). -/
def State.enterBundle (s : State) (b handle bar : Nat) : State :=
  match s.block? b, s.bundle? handle with
  | some x, some u =>
    if x.entries.any (fun e => e.handle == handle && e.pending.isNone) then (s.arrive b bar).2
    else
      let s := s.modBlock b (fun y => { y with entries := y.entries ++ [{ handle := handle, pending := some bar, leave := false }] })
      if x.entries.any (fun e => e.handle == handle) then s
      else if s.allResident u then
        (s.modBundle handle (fun v => { v with state := if s.loaded u then 2 else 1 })).queueEvent (.bundleEntryComplete b handle)
      else
        let q : BundleReq := { tenant := u.tenant, die := u.die, handles := [handle], blk := some b, served := false }
        ({ s with bundleReqs := s.bundleReqs ++ [q] } : State).queueEvent (.bundleRequestServe u.tenant u.die)
  | _, _ => s

/-- A block's entry ends (R254); an entry not complete ends when it completes. Requests that wait are served again. -/
def State.leaveBundle (s : State) (b handle : Nat) : State :=
  let s := s.modBlock b (fun y =>
    let kept := y.entries.filter (fun e => e.handle != handle || e.pending.isSome)
    { y with entries := kept.map (fun e => if e.handle == handle then { e with leave := true } else e) })
  match s.bundle? handle with
  | some u => if s.bundleReqs.any (fun r => r.tenant == u.tenant && r.die == u.die && !r.served) then
      s.queueEvent (.bundleRequestServe u.tenant u.die) else s
  | none => s

/-- The number of a ring's slots, S (R241). -/
def Ring.slots (r : Ring) : Nat := bitsOf r.init.toNat 51 48 + 1
/-- Z, a slot's bytes (R241). -/
def Ring.size (r : Ring) : Nat := bitsOf r.init.toNat 47 32 * 256
/-- BASE, the offset of slot 0 (R241). -/
def Ring.base (r : Ring) : Nat := bitsOf r.init.toNat 31 0
/-- Does ring r hold a geometry? -/
def Ring.live (r : Ring) : Bool := r.init != 0
/-- The slot that starts at an offset, if one does (R243). -/
def Ring.slotAt (r : Ring) (off : Nat) : Option Nat :=
  (List.range r.slots).find? (fun j => r.base + j * r.size == off)

/-- A held ring operation performed: the slot's real state moves (R243). -/
def Ring.move (r : Ring) (slot : Nat) (free : Bool) : Ring :=
  if free then { r with states := vset r.states slot 0, released := r.released + 1, tags := vset r.tags slot 0,
                        shifts := r.shifts.filter (fun x => x.1 != slot) }
  else { r with states := vset r.states slot 2, published := r.published + 1 }

/-- A result written to a register (R159). -/
def CRegs.put (x : CRegs) (plv : Nat) (p : Pend) : CRegs :=
  match p.reg, p.val with
  | .u n, .u y => x.wr plv n y
  | .c n, .c y => { x with c := vset x.c n y }
  | .v n, .v m y => x.wrV n m y
  | .p n, .p y => x.wrP n y
  | _, _ => x
/-- A register taken over from other registers. -/
def CRegs.copy (src : CRegs) (plv : Nat) (x : CRegs) (r : Reg) : CRegs :=
  match r with
  | .u n => x.wr plv n (src.rd plv n)
  | .c n => { x with c := vset x.c n (vget src.c n) }
  | .v n => { x with v := vset x.v n (vget src.v n) }
  | .p n => x.wrP n (src.rdP n)

/-- What the commit of a bind or unbind answers (R261, R444): a bind reads its image as loads at its place in the order, beside no store
held after it. An image that has become unreadable since the issue counts as none (log 21). -/
def State.bindNow (s : State) (w : Who) (vf tenant slot : Nat) (image : Option Nat) : Nat × State :=
  match image with
  | none => (0, s.unbind tenant slot)
  | some a =>
    if s.slotTaken tenant slot then (3, s)
    else match s.readImage w [] a with
      | (none, img, s) => s.bindImage vf tenant slot img
      | (some _, _, s) => (1, s)

/-- Perform one held operation of a caravan (R103, R390). A tracked store takes its place once no other cache keeps its words
(R387), at both homes of a dual-home page, of which the primary's alone grants the words (R362). -/
def State.performNow (s : State) (w : Who) (h : Held) : State :=
  let b := (blkOf w)
  match h with
  | .store l bs second tracked =>
    let s := match l with | .glob pa => if tracked then s.ownWords (s.coreOf w) pa bs.length else s | .ls _ _ => s
    let s := s.put (some w) l bs second
    let s := match l with
      | .glob pa => if s.cxl && kindOf pa == .host then { s with globalWrites := s.globalWrites ++ [pa] } else s
      | .ls _ _ => s
    match l with | .glob pa => if tracked then s else s.storeL1 (s.coreOf w) pa bs | .ls _ _ => s
  | .copy c =>
    let core := s.coreOf w
    (s.modCore core (fun x => { x with copies := x.copies ++ [c] })).queueEvent (.copyTransfer c.id)
  | .qpush q entry => match s.block? b with
    | some x => s.modLaunch x.launch (fun l =>
        { l with pipes := l.pipes.mapIdx (fun i p => if i = q then { p with entries := p.entries ++ [entry] } else p) })
    | none => s
  | .bentr handle bar => s.enterBundle b handle bar
  | .bleav handle => s.leaveBundle b handle
  | .barArv k d =>
    let (p, s) := s.arrive b k
    s.uwr w d (p.setWidth 64)
  | .sgbind d vf tenant slot image =>
    let (st, s) := s.bindNow w vf tenant slot image
    s.uwr w d (BitVec.ofNat 64 st)
  | .ringPub k j => s.modBlock b (fun x => { x with rings := vset x.rings k ((vget x.rings k).move j false) })
  | .ringRel k j => s.modBlock b (fun x => { x with rings := vset x.rings k ((vget x.rings k).move j true) })

/-- Can a committed operation be performed now: a bind or unbind waits out the pause of an activation (R326), an unbind the accesses
issued before it, and a bind those that an unbind before it waits for (R444)? -/
def State.heldOk (s : State) (w : Who) : Held → Bool
  | .sgbind _ _ tenant slot image => s.fw.phase != Phase.paused &&
      (if image.isSome then (s.openGraph? tenant slot).isSome || !(s.slotTaken tenant slot) else !(s.slotInUse tenant slot (some w)))
  | _ => true

/-- Is an operation a bind or unbind? -/
def Held.isBind : Held → Bool | .sgbind _ _ _ _ _ => true | _ => false

/-- Would a held bind read an image that has become unreadable since its issue? -/
def State.bindLost (s : State) (w : Who) : Held → Bool
  | .sgbind _ _ tenant slot (some a) => !(s.slotTaken tenant slot) && (s.readImage w (s.heldOf w) a).1.isSome
  | _ => false

/-- Does a caravan hold a bind or unbind that could not be performed now, with what it holds before it on its way? -/
def State.bindStuck (s : State) (w : Who) : Bool :=
  (s.heldOf w).any (fun h => h.isBind && (!(s.heldOk w h) || s.bindLost w h ||
    (match h with | .sgbind _ _ tenant slot none => s.slotInUse tenant slot | _ => false)))

/-- The committed operations that a caravan has still to perform. -/
def State.lateOf (s : State) (w : Who) : List Held :=
  match w with
  | .car b n => match s.car? b n with | some c => c.late | none => []
  | .seq _ => []
/-- Set them. -/
def State.setLate (s : State) (w : Who) (l : List Held) : State :=
  match w with
  | .car b n => s.modCar b n (fun c => { c with late := l })
  | .seq _ => s

/-- The register a held operation gives a value to. -/
def Held.owes : Held → Option Nat
  | .sgbind d _ _ _ _ => some d
  | .barArv _ d => some d
  | _ => none

/-- A value given late stands in every later checkpoint (R391). -/
def State.landLate (s : State) (w : Who) (h : Held) : State :=
  match w, h.owes with
  | .car b n, some d => s.modCar b n (fun c => { c with epochs := c.epochs.map (fun e => { e with snap := c.regs.copy c.plv e.snap (.u d) }) })
  | _, _ => s

/-- A caravan's committed operations performed in program order, up to one that has still to wait; an unbind that waits for accesses lets
no later ones through (R444). -/
def State.serveLate (w : Who) : List Held → State → State
  | [], s => s.setLate w []
  | h :: hs, s =>
    if s.heldOk w h then State.serveLate w hs ((s.performNow w h).landLate w h)
    else
      let s := match h with
        | .sgbind _ _ tenant slot none => if s.fw.phase == Phase.paused then s else s.closeSlot tenant slot
        | _ => s
      s.setLate w (h :: hs)

/-- A held operation of a committed epoch: performed, or kept until what comes before it has been (R103, R390). -/
def State.perform (s : State) (w : Who) (h : Held) : State :=
  if (s.lateOf w).isEmpty && s.heldOk w h then s.performNow w h else State.serveLate w (s.lateOf w ++ [h]) s

/-- The registers a checkpoint taken now keeps: the pc is that of the open hint group's first word (R163, R389). -/
def Caravan.snapshot (c : Caravan) : CRegs := { c.regs with pc := c.regs.pc - BitVec.ofNat 64 (4 * c.hints.length) }

/-- The epoch that opens at a checkpoint taken now. One taken inside a group that is exempt from breakpoints keeps the exemption, for the
group starts again from it (R350). -/
def Caravan.freshEpoch (c : Caravan) : Epoch :=
  { Epoch.start c.snapshot with nobp := c.epochs.getLast?.any (fun e => e.nobp && e.count == 0) }

/-- A caravan after its oldest epoch e has committed (R390): its results are written, and later checkpoints keep them; escort ends
with the first epoch of 32 words that is no earlier than the escorted target's (R389, R394). -/
def Caravan.committed (c : Caravan) (e : Epoch) : Caravan :=
  let regs := (e.pend.filter (fun p => p.val != .held)).foldl (fun r p => r.put c.plv p) c.regs
  let later := c.epochs.tail.map (fun x => { x with snap := (e.pend.map (·.reg)).foldl (fun r k => regs.copy c.plv r k) x.snap })
  let esc := c.rbEsc && !(32 ≤ e.count && c.epochs.tail.all (fun x => !x.target))
  { c with regs := regs, epochs := if later.isEmpty then [Epoch.start regs] else later,
           rbCur := if e.target then 0 else c.rbCur, rbEsc := esc,
           cst := if esc then c.cst else c.cst &&& ~~~8 }

/-- The oldest epoch of a caravan commits (R390): its stores take their places and its held operations are performed, in
program order. -/
def State.commitOldest (s : State) (b n : Nat) : State :=
  match (s.car? b n).bind (fun c => c.epochs.head?) with
  | none => s
  | some e => (e.acts.foldl (fun st h => st.perform (.car b n) h) s).modCar b n (fun c => c.committed e)

/-- The caravan becomes non-speculative (R104, R390): every epoch commits, oldest first, and a new one opens here. -/
def State.commitAll (s : State) (b n : Nat) : State :=
  match s.car? b n with
  | none => s
  | some c =>
    let fresh := c.freshEpoch.nobp
    let s := (List.range c.epochs.length).foldl (fun st _ => st.commitOldest b n) s
    s.modCar b n (fun x => { x with epochs := [{ Epoch.start x.snapshot with nobp := fresh }] })

/-- An agent becomes non-speculative; a sequencer never speculates (R104). -/
def State.settleWho (s : State) (w : Who) : State := match w with | .car b n => s.commitAll b n | .seq _ => s

/-- A caravan that accesses memory while it holds a bind or unbind becomes non-speculative first, so that the access meets the slots as
they then stand (DESIGN CHOICE, log 21: the spec lets an epoch commit at any time). -/
def State.afterBinds (s : State) (w : Who) : State := if (s.heldOf w).any Held.isBind then s.settleWho w else s

/-- Add to the open epoch of a caravan. -/
def State.modEpoch (s : State) (b n : Nat) (f : Epoch → Epoch) : State :=
  s.modCar b n (fun c => { c with epochs := c.epochs.dropLast ++ (c.epochs.getLast?.map f).toList })

/-- Hold an operation until the open epoch commits (R103). -/
def State.hold (s : State) (w : Who) (h : Held) : State :=
  match w with
  | .car b n => s.modEpoch b n (fun e => { e with acts := e.acts ++ [h] })
  | .seq _ => s.perform w h

/-- A register stays pending until a value lands (R159, R222). -/
def State.setPend (s : State) (w : Who) (r : Reg) (x : PVal) : State :=
  match w with
  | .car b n =>
    let s := s.modEpoch b n (fun e => { e with pend := e.pend ++ [{ reg := r, val := x }] })
    if x = .held then s else s.queueEvent (.scoreboardWriteback w)
  | .seq _ => s.putVal w r x

/-- Arrivals a barrier is owed: by copies accepted or held, held `bar.arv`, and entries not complete (R244, R247). -/
def State.owed (s : State) (x : Block) (k : Nat) : Nat :=
  let heldN := (x.cars.flatMap (·.held)).countP (fun h => match h with
    | .copy c => c.bar == k | .barArv b _ => b == k | .bentr _ b => b == k | _ => false)
  let flying := match s.core? x.core with | some c => c.copies.countP (fun y => y.blk == x.id && y.bar == k) | none => 0
  heldN + flying + x.entries.countP (fun e => e.pending == some k)

/-! ## Ends (R46, R51, R249, R292) -/

/-- Members of a block that have not ended. -/
def Block.liveCars (x : Block) : List Caravan := x.cars.filter (fun c => c.status != .ended)
/-- Has a block's sequencer ended, or has it none? -/
def Block.seqDone (x : Block) : Bool := match x.seq with | some q => q.status == .ended | none => true

/-- Executions of a scope that every live member of a block has made: none where no member is live (R249). -/
def Block.scopeCount (x : Block) (i : Nat) : Option Nat :=
  let cs := x.liveCars.map (fun c => (vget c.scope i).toNat) ++
    (match x.seq with | some q => if q.status == .ended then [] else [(vget q.scope i).toNat] | none => [])
  cs.min?

/-- A launch's completed `dbar` phases on a die, brought up to date (R249). -/
def State.updateDbar (s : State) (launch die : Nat) : State :=
  let counts := (s.blocks.filter (fun x => x.launch == launch && dieOf x.core == die && !x.ended)).filterMap (·.scopeCount 1)
  match counts.min? with
  | some n => s.modLaunch launch (fun l => { l with dbarDone := vset l.dbarDone die (max n (vget l.dbarDone die)) })
  | none => s

/-- The arrays where a member of an `mma.cv` waits look again: a member they wait for may have gone (R277). -/
def State.nudgeArrays (s : State) : State :=
  s.cores.foldl (fun st c => if c.array.any (fun m => m.stage == 0 && m.kind == MxKind.mmaCv) then st.queueEvent (.matrixTake c.id) else st) s

/-- The overlays of launches leave the cores where none of their blocks is resident any more (R286). -/
def State.dropOverlays (s : State) : State :=
  { s with cores := s.cores.map (fun (c : CoreSt) => { c with overlays := c.overlays.filter (fun o =>
      o.launch == 0 || s.blocks.any (fun x => x.core == c.id && x.launch == o.launch && s.holds x)) }) }

/-- A block has ended (R46): the launch counts it, and its end may complete a die barrier phase or the launch. Its place may take
another block (R44, R375). It keeps its bundle entries (R90). -/
def State.endBlock (s : State) (b : Nat) : State :=
  match s.block? b with
  | none => s
  | some x =>
    if x.ended then s else
    let s := s.modBlock b (fun y => { y with ended := true })
    let s := s.modLaunch x.launch (fun l => { l with endedBlocks := l.endedBlocks ++ [(x.kernel, x.lin)] })
    let s := (s.dropOverlays.updateDbar x.launch (dieOf x.core)).nudgeArrays
    match s.launch? x.launch with
    | some l =>
      let s := if l.id = 0 then s else [0, 1, 2, 3].foldl (fun st d => st.queueEvent (.blockAdmission d)) s
      if l.id != 0 && l.endedBlocks.length == l.total then s.queueEvent (.launchCompletion l.id) else s
    | none => s

/-- A member has ended; its block ends with its last member (R46). -/
def State.endMember (s : State) (w : Who) : State :=
  let s := s.setStatus w .ended
  match s.block? (blkOf w) with
  | some x => if x.liveCars.isEmpty && x.seqDone then s.endBlock x.id else (s.updateDbar x.launch (dieOf x.core)).nudgeArrays
  | none => s

/-! ## What the matrix array can take (R45, R167, R277) -/

/-- Matrix instructions of a block that have not completed (R281). -/
def State.pendingMx (s : State) (x : Block) : List MxOp :=
  match s.core? x.core with | some c => c.array.filter (fun m => m.blk == x.id) | none => []

/-- SLOT of a shape word (R277). -/
def shapeSlot (w : Word) : Nat := bitsOf w.toNat 9 8

/-- The `mma.cv` of a member of a meeting, with its block (R277). -/
def State.memberOp (s : State) (x : Block) (m : MxOp) (cv : ConvoySlot) (lin : Nat) : Option (Block × MxOp) :=
  match s.blockAt x.launch x.kernel lin with
  | none => none
  | some y =>
    ((s.pendingMx y).find? (fun z => z.kind == .mmaCv && z.nth == m.nth &&
      (match y.convoyOf (shapeSlot z.ga1) with | some v => v.index == cv.index | none => false))).map (fun z => (y, z))

/-- The members of a meeting that have issued, by rank. -/
def State.meeting (s : State) (x : Block) (m : MxOp) (cv : ConvoySlot) : List (Option (Block × MxOp)) :=
  cv.members.map (s.memberOp x m cv)

/-- Has a member of a meeting ended, or no sequencer (R277)? -/
def State.memberGone (s : State) (x : Block) (lin : Nat) : Bool :=
  match s.blockAt x.launch x.kernel lin with
  | some y => y.ended || y.seqDone
  | none => match s.launch? x.launch with | some l => l.endedBlocks.contains (x.kernel, lin) | none => true

/-- Has a matrix instruction begun: its members have met, or the array has taken it (R267, R277)? -/
def MxOp.begun (m : MxOp) : Bool := m.stage != 0 || m.met

/-- Can the array take an instruction now: `mma.cv` when its members have met or cannot meet (R277)? -/
def State.takeable (s : State) (m : MxOp) : Bool :=
  m.stage == 0 && (m.kind != .mmaCv || m.met || (match s.block? m.blk with
    | some x => match x.convoyOf (shapeSlot m.ga1) with
      | some cv => let ms := s.meeting x m cv
                   ms.all (·.isSome) || (cv.members.zip ms).any (fun y => y.2.isNone && s.memberGone x y.1)
      | none => true
    | none => true))

/-- Has another sequencer of a core than a block's a matrix instruction ready (R167)? -/
def State.othersReady (s : State) (core b : Nat) : Bool :=
  match s.core? core with | some c => c.array.any (fun m => m.blk != b && s.takeable m) | none => false

/-- Yields end where no other sequencer of the core has a matrix instruction ready (R167). -/
def State.endYields (s : State) (core : Nat) : State :=
  { s with blocks := s.blocks.map (fun x => if x.core == core && !(s.othersReady core x.id) then
      { x with seq := x.seq.map (fun q => { q with yield := 0 }) } else x) }

/-! ## Traps (R299, R334 to R340, R432) -/

/-- Is a fault recoverable (R335)? A sequencer's never is. -/
def recoverable (t : Trap) (w : Who) : Bool :=
  match w with
  | .seq _ => false
  | .car _ _ => t.code == 0x05 || (t.code == 0x10 && t.sub == 1) || t.code == 0x40 || t.code == 0x41

/-- The TRAPEN bit of a recoverable code (R332). -/
def trapenBit (code : Nat) : Nat := if code = 0x05 then 0 else if code = 0x10 then 1 else if code = 0x40 then 2 else 3

/-- A caravan's role number (R299). -/
def roleOf (s : State) (w : Who) : Nat :=
  match w with
  | .seq _ => 2
  | .car b n => match s.car? b n with | some c => if c.vector then 1 else 0 | none => 0

/-- The 64-byte fault record (R299), as eight words: bytes 8i to 8i + 7 are word i. -/
def faultRecord (s : State) (w : Who) (t : Trap) : Vector Word 8 :=
  let x := s.block? (blkOf w)
  let lin := match x with | some x => x.lin | none => 0
  let kernel := match x with | some x => x.kernel | none => 0
  let n := match w with | .car _ n => n | .seq _ => 32
  let pc := s.pcOf w - 4 * (s.hintsOf w).length
  let flags := if recoverable t w then 1 else 0
  #v[BitVec.ofNat 64 (t.code + 2 ^ 8 * t.sub + 2 ^ 16 * s.plvOf w + 2 ^ 24 * flags + 2 ^ 32 * t.lanes.toNat),
     BitVec.ofNat 64 pc, t.addr,
     BitVec.ofNat 64 (lin + 2 ^ 32 * kernel + 2 ^ 48 * n + 2 ^ 56 * roleOf s w),
     t.synd, t.lreason.extractLsb' 0 64, t.lreason.extractLsb' 64 64, BitVec.ofNat 64 s.clk]

/-- A record's bytes. -/
def recordBytes (r : Vector Word 8) : List Byte := (List.range 8).flatMap (fun i => leBytes 8 (vget r i).toNat)

/-- Device writes of a run of bytes at addresses of a process; a byte that cannot be written is lost. -/
def State.deviceWrite (s : State) (vf proc va : Nat) (bs : List Byte) : State :=
  match s.deviceXlate vf proc va true with
  | some (pa, l) =>
    if va + bs.length ≤ l.base + l.size && !(s.podForeign (s.vfTenant vf) (pa + bs.length - 1)) then s.put none (.glob pa) bs (l.secondOf va) else s
  | none => s

/-- A record delivered to the launch's fault area (R340). -/
def State.deliver (s : State) (launch : Nat) (r : Vector Word 8) : State :=
  match s.launch? launch with
  | none => s
  | some l =>
    if l.silent || l.vf == stewardVf then s else
    let i := match s.deviceRead l.vf l.proc l.farea 8 with | some bs => leNat bs | none => 0
    let s := s.deviceWrite l.vf l.proc l.farea (leBytes 8 (i + 1))
    let s := if i < l.facnt then s.deviceWrite l.vf l.proc (l.farea + 64 + 64 * i) (recordBytes r) else s
    s.modLaunch launch (fun x => { x with records := x.records + 1 })

/-- Has a terminated block committed operations, copies among them, matrix instructions taken, or accesses handed over, that are not yet
complete (R339, R444)? -/
def State.draining (s : State) (x : Block) : Bool :=
  (match s.core? x.core with
   | some c => c.copies.any (fun y => y.blk == x.id) || c.array.any (fun m => m.blk == x.id && m.begun)
   | none => false) ||
  s.streams.any (fun r => s.currentStream r && blkOf r.who == x.id) || x.cars.any (fun c => (c.io.bind (·.pending)).isSome || !c.late.isEmpty)

/-- A terminated block ends once it is drained: bundles it has entered late end too, its records are written after every event of it (R340), and
it counts as ended. -/
def State.finishClosing (s : State) (b : Nat) : State :=
  match s.block? b with
  | none => s
  | some x => match x.closing with
    | none => s
    | some rs => if x.ended || s.draining x then s
        else (rs.foldl (fun st r => st.deliver x.launch r) (x.entries.foldl (fun st e => st.leaveBundle b e.handle) s)).endBlock b

/-- A block is terminated (R339): every member stops at its checkpoint, its held operations are cancelled, matrix
instructions not yet taken are dropped, its entries end. What has committed is no longer held: a bind or unbind that has still to wait is
performed in its time (R326, R444). The block counts as ended once that is done, its committed copies have arrived and the matrix
instructions taken are complete, each as its own step. -/
def State.terminate (s : State) (b : Nat) (record : Option (Vector Word 8)) : State :=
  match s.block? b with
  | none => s
  | some x =>
    let s := x.cars.foldl (fun st c => State.serveLate (.car b c.n) c.late st) s
    let s := s.modBlock b (fun y => { y with
      cars := y.cars.map (fun c => { c.rollTo 0 false with status := .ended, epochs := [Epoch.start c.regs] })
      seq := y.seq.map (fun q => { q with status := .ended })
      closing := some (y.closing.getD [] ++ record.toList) })
    let s := s.modCore x.core (fun c => { c with array := c.array.filter (fun m => m.blk != b || m.begun) })
    let s := x.entries.foldl (fun st e => st.leaveBundle b e.handle) s
    ((((s.updateDbar x.launch (dieOf x.core)).nudgeArrays).endYields x.core).finishClosing b)

/-- The steward cores of the root of trust (log 3). -/
def innkeeperCore (core : Nat) : Bool := core == 262 || core == 263

/-- A fault at level 2 halts its steward core, with REASON 5 and an event to the management controller (R432). -/
def State.haltSteward (s : State) (core : Nat) : State :=
  let s := s.modCore core (fun c => { c with halted := true })
  let fw := s.fw
  { s with
    fw := { fw with bootwhy := (fw.bootwhy &&& ~~~0xF0) ||| 0x50, mcEvents := fw.mcEvents + 1 }
    ik := if innkeeperCore core then { s.ik with busy := true } else s.ik }

/-- A record in the steward's ring (R431, R432). -/
def State.stewardRecord (s : State) (r : Vector Word 8) : State :=
  if s.fw.sfring == 0 then s
  else
    let s := s.put none (.glob (s.fw.sfring.toNat + 64 * s.fw.sfNext)) (recordBytes r) none
    { s with fw := { s.fw with sfNext := (s.fw.sfNext + 1) % 64 } }

/-- CST as it stands (R162): ESC is 1 while the caravan is escorted, by its own count or with its core (R394, R395). -/
def State.cstOf (s : State) (w : Who) (c : Caravan) : Word := if s.escorted w then c.cst ||| 8 else c.cst &&& ~~~8

/-- Entry at level L (R337): the record, EPC, ECST and EMASK saved, the level and mask changed, the pc at the vector, and a
checkpoint there. The divergence stack stays. -/
def State.enterLevel (s : State) (b n lvl : Nat) (t : Trap) (r : Vector Word 8) (vector : Word) : State :=
  let s := s.modCar b n (fun c =>
    let first := c.regs.pc - BitVec.ofNat 64 (4 * c.hints.length)
    { c with
      frec := r, epc := if t.code = 0x40 then c.regs.pc + 4 else first, ecst := s.cstOf (.car b n) c, emask := c.regs.m
      cst := (c.cst &&& ~~~0x30) ||| BitVec.ofNat 64 (16 * lvl)
      regs := { c.regs with m := ~~~c.regs.e, pc := vector }, hints := [], fix := [], status := .running, phase := none })
  s.commitAll b n

/-- Where a caravan's trap goes (R336): a level and its vector, or none. -/
def trapRoute (s : State) (x : Block) (c : Caravan) (t : Trap) : Option (Nat × Word) :=
  let rec_ := recoverable t (.car x.id c.n)
  if c.plv != 0 then none
  else if isSteward x.core then (if rec_ then some (2, match s.core? x.core with | some k => k.svec | none => 0) else none)
  else match (s.launch? x.launch).bind (fun l => s.vf? l.vf) with
    | some f => if rec_ && f.trapen.getLsbD (trapenBit t.code) && f.tvec != 0 then some (1, f.tvec) else none
    | none => none

/-- Taking a trap (R334 to R340, R432): earlier epochs commit, then the trap is routed and entered, or ends the block, or on a
steward core ends the caravan or halts the core. A trap on a steward core waits for the end of an activation's pause (R435). -/
def State.takeTrap (s : State) (w : Who) (t : Trap) : State :=
  if isSteward (s.coreOf w) && s.fw.phase == Phase.paused then { s with ik := { s.ik with held := s.ik.held ++ [.trapEntry w t] } }
  else
  let s := s.settleWho w
  match w, s.block? (blkOf w) with
  | _, none => s
  | .seq b, some _ => s.terminate b (some (faultRecord s w t))
  | .car b n, some x =>
    match x.car? n with
    | none => s
    | some c =>
      let r := faultRecord s w t
      match trapRoute s x c t with
      | some (lvl, vector) => s.enterLevel b n lvl t r vector
      | none =>
        if isSteward x.core then
          ((if c.plv = 2 then s.haltSteward x.core else s).stewardRecord r).endMember w
        else s.terminate b (some r)

/-! ## Hint groups (R163 to R167) -/

/-- A hint's major opcode. -/
def hintOp (w : W32) : Nat := bitsOf w.toNat 31 25
/-- The hint of a kind in a group; words of a reserved kind are none (R163). -/
def hintOf (hs : List W32) (op : Nat) : Option W32 := hs.find? (fun h => hintOp h == op && !reservedHint h)
/-- MOD NEGP of a group (R166). -/
def hintNegp (hs : List W32) : Bool := match hintOf hs 0x7E with | some h => bitsOf h.toNat 17 17 == 1 | none => false
/-- MOD RM of a group, 0 where there is none (R130, R166). -/
def hintRm (hs : List W32) : Nat := match hintOf hs 0x7E with | some h => bitsOf h.toNat 21 19 | none => 0
/-- MOD SAT of a group. -/
def hintSat (hs : List W32) : Bool := match hintOf hs 0x7E with | some h => bitsOf h.toNat 18 18 == 1 | none => false
/-- MOD CP of a group. -/
def hintCp (hs : List W32) : Nat := match hintOf hs 0x7E with | some h => bitsOf h.toNat 16 15 | none => 0
/-- The seed register of a group with SV. -/
def hintSeed (hs : List W32) : Option Nat := match hintOf hs 0x7E with
  | some h => if bitsOf h.toNat 14 14 == 1 then some (bitsOf h.toNat 13 8) else none
  | none => none
/-- The payload of a group's IMM (R164). -/
def hintImm (hs : List W32) : Option Nat := (hintOf hs 0x7C).map (fun h => bitsOf h.toNat 24 0)
/-- The immediate V of an I-format instruction: imm8 sign- or zero-extended, or the 33-bit value of IMM (R150, R164). -/
def immValue (hs : List W32) (imm8 : Nat) (zeroExt : Bool) : Word :=
  match hintImm hs with
  | some p => BitVec.ofInt 64 (sInt 33 (p * 256 + imm8))
  | none => if zeroExt then BitVec.ofNat 64 imm8 else BitVec.ofInt 64 (sInt 8 imm8)
/-- The offset V of an M-format offset form (R164, R221). -/
def offsetValue (hs : List W32) (idx6 : Nat) : Int :=
  match hintImm hs with
  | some p => sInt 31 (p * 64 + idx6)
  | none => sInt 6 idx6

/-! ## The issue of one word -/

/-- What the shared issue path needs to know of an instruction: its word, its common fields, whether it executes per thread, its
own encoding check, the registers it names, its latency, who may issue it at which levels, the hint fields it accepts, whether it is
a multi-cycle instruction of R184, the barrier, ring or tile it names, whether it goes on where its arrival is made already (R250), and
the threads it has written, once it has run. -/
structure Op where
  word : W32
  st : Nat
  pr : Nat
  perThread : Bool := false
  ok : Bool := true
  dst : List Reg := []
  src : List Reg := []
  fixed : Bool := false
  porter : Bool := true
  vector : Bool := true
  seq : Bool := false
  roleTrap : Bool := false
  levels : List Nat := [0, 1, 2]
  negp : Bool := true
  imm : Bool := false
  rep : Bool := false
  rm : Bool := false
  sat : Bool := false
  cp : Bool := false
  sv : Bool := true
  ckpv : Bool := true
  multi : Bool := false
  bar : Option Nat := none
  ring : Option Nat := none
  tile : Option Nat := none
  again : Bool := false
  lanes : W32 := BitVec.allOnes 32

/-- What a meaning answers: it ran, with where the pc goes and whether a checkpoint follows; it traps; it waits, with what it has
done so far; or it names a unit that does not exist. -/
inductive Res where
  | ok (s : State) (pc : Option Nat) (ckpt : Bool)
  | trap (t : Trap)
  | wait (w : Wait) (s : State)
  | stop (f : Fault)

/-- Run a continuation where a step has run. -/
def Res.andThen (r : Res) (f : State → Res) : Res :=
  match r with | .ok s _ _ => f s | x => x

/-- The registers an instruction names besides the predicate or condition it executes under. -/
def Op.regs (o : Op) : List Reg := o.dst ++ o.src

/-- The v registers of a list. -/
def vRegs (rs : List Reg) : List Nat := rs.filterMap (fun r => match r with | .v k => some k | _ => none)

/-- Everything an instruction reads (R157). -/
def Op.reads (o : Op) (hs : List W32) : List Reg :=
  o.src ++ (if o.pr < 7 then [if o.perThread then Reg.p o.pr else Reg.c o.pr] else []) ++
    (match hintSeed hs with | some r => [Reg.u r] | none => []) ++
    (match hintOf hs 0x7D with | some h => [Reg.u (bitsOf h.toNat 24 19)] | none => [])

/-- Is a register number inside its class (R152)? -/
def regOk (sequencer : Bool) : Reg → Bool
  | .v _ => !sequencer
  | .u n => if sequencer then n < 16 else n < 64
  | .p n => n < 8
  | .c n => n < 4

/-- Are the barrier, ring and tile an instruction names below the counts its block declares (R152)? -/
def State.namesOk (s : State) (w : Who) (o : Op) : Bool :=
  match s.block? (blkOf w) with
  | none => true
  | some x =>
    (match o.bar with | some k => k < x.nbar | none => true) && (match o.ring with | some k => k < x.nring | none => true) &&
    (match o.tile with | some k => k < x.vectors * x.tilesPer | none => true)

/-- Does an instruction accept a hint word's fields (R163 to R167)? -/
def hintAccepted (o : Op) (sequencer : Bool) (h : W32) : Bool :=
  let w := h.toNat
  if reservedHint h then true
  else match hintOp h with
    | 0x7C => o.imm
    | 0x7D => o.rep && bitsOf w 6 5 != 3
    | 0x7E =>
      (bitsOf w 21 19 == 0 || (o.rm && bitsOf w 21 19 ≤ 4)) && (bitsOf w 18 18 == 0 || o.sat) &&
      (bitsOf w 17 17 == 0 || (o.negp && o.pr != 7)) && (bitsOf w 16 15 == 0 || o.cp) &&
      (bitsOf w 14 14 == 0 || (o.sv && !sequencer)) && (o.sv || bitsOf w 13 8 == 0)
    | _ => (bitsOf w 20 19 == 0 || (o.ckpv && !sequencer)) && (o.ckpv || bitsOf w 18 17 == 0)

/-- Are a hint word's own fields well formed (R165 to R167)? -/
def hintFormed (h : W32) : Bool :=
  let w := h.toNat
  match hintOp h with
  | 0x7D => bitsOf w 4 0 == 0 && bitsOf w 6 5 != 3
  | 0x7E => bitsOf w 7 0 == 0 && bitsOf w 21 19 ≤ 4
  | 0x7F => bitsOf w 16 0 == 0
  | _ => true

/-- The place of the first word of a hint group that breaks a rule: malformed, the second of its opcode, or refused by the modified
instruction (R163, R335); `seen` are the opcodes before it. Words of a reserved kind break none. -/
def badHint (accepted : W32 → Bool) (seen : List Nat) : List W32 → Nat → Option Nat
  | [], _ => none
  | h :: hs, i =>
    if reservedHint h then badHint accepted seen hs (i + 1)
    else if seen.contains (hintOp h) || !(hintFormed h) || !(accepted h) then some i
    else badHint accepted (hintOp h :: seen) hs (i + 1)

/-- ILLEGAL_INSTRUCTION for a word of a group at a place (R335). A place above 15, which reserved hint words allow (R163), is given
modulo 16 (DESIGN CHOICE, log 41: SYND holds four bits of it and R335 says no more). -/
def illegal (sub : Nat) (word : W32) (place : Nat) : Trap := wholeTrap 0x01 sub 0 (word.toNat + 2 ^ 32 * (place % 16))

/-- The threads for which a per-thread instruction executes (R153). -/
def Caravan.active (c : Caravan) (pr : Nat) (neg : Bool) : W32 :=
  c.regs.m &&& (if neg then ~~~(c.regs.rdP pr) else c.regs.rdP pr)

/-- The checks before the operand checks, in order (R36, R147, R152 to R154, R160, R171). The hint words are checked with the
instruction they modify, in their order, before its own word (log 41). With no active thread only the predicate itself is checked for
its spacing (R153; log 18). Where two producers are too near, the record names the one that issued first (DESIGN CHOICE, log 18:
R160 and R335 say only "the producer's pc"). -/
def checkIssue (s : State) (w : Who) (o : Op) : Option Trap :=
  let hs := s.hintsOf w
  let sequencer := match w with | .seq _ => true | .car _ _ => false
  match badHint (hintAccepted o sequencer) [] hs 0 with
  | some i => some (illegal 0 (hs.getD i 0) i)
  | none =>
  if !o.ok || !(s.namesOk w o) || (sequencer && !o.seq) || !(o.regs.all (regOk sequencer)) || (!o.perThread && 4 ≤ o.pr && o.pr ≤ 6) then
    some (illegal 0 o.word hs.length)
  else match w with
  | .seq b =>
    let chk := match s.block? b with
      | some x => (match s.launch? x.launch with | some l => (match l.kernels[x.kernel]? with | some k => k.chk | none => false) | none => false)
      | none => false
    match s.seq? b with
    | some q => if chk then
        (q.fix.find? (fun f => (o.reads hs).contains f.reg)).map (fun f => wholeTrap 0x04 0 f.pc.toNat 0) else none
    | none => none
  | .car b n =>
    match s.car? b n with
    | none => none
    | some c =>
      if o.roleTrap || !(if c.vector then o.vector else o.porter) then
        some (wholeTrap 0x03 (if c.vector then 1 else 0) 0 o.word.toNat)
      else if !(o.levels.contains c.plv) then some (wholeTrap 0x11 2 0 0)
      else
        match ((vRegs o.regs).filter (c.vb ≤ ·)).min? with
        | some k => some (wholeTrap 0x08 1 0 (0x100 + k))
        | none =>
          let idle := o.perThread && c.active o.pr (hintNegp hs) == 0
          if c.chk then (c.fix.find? (fun f => if idle then f.reg == Reg.p o.pr else (o.reads hs).contains f.reg)).map
            (fun f => wholeTrap 0x04 0 f.pc.toNat 0) else none

/-- Results on their way to some registers, written to those of each later checkpoint (R159, R391). -/
def landEpochs (plv : Nat) (named : List Reg) : List Pend → List Epoch → List Epoch
  | _, [] => []
  | acc, e :: es =>
    let due := e.pend.filter (fun p => named.contains p.reg)
    { e with snap := acc.foldl (fun r p => r.put plv p) e.snap, pend := e.pend.filter (fun p => !(named.contains p.reg)) } ::
      landEpochs plv named (acc ++ due) es

/-- Results on their way to registers a word names land before it issues (R159): held ones by committing, the others by
being written. -/
def State.settleRegs (s : State) (w : Who) (named : List Reg) : State :=
  match w with
  | .seq _ => s
  | .car b n =>
    let stuck : State → List Pend := fun st => match st.car? b n with
      | some c => c.epochs.flatMap (fun e => e.pend.filter (fun p => named.contains p.reg))
      | none => []
    let s := if (stuck s).any (fun p => p.val == .held) then s.commitAll b n else s
    let due := stuck s
    if due.isEmpty then s else
    s.modCar b n (fun c => { c with
      regs := due.foldl (fun r p => r.put c.plv p) c.regs
      epochs := landEpochs c.plv named [] c.epochs })

/-- An agent's results not yet safely spaced. -/
def State.fixOf (s : State) (w : Who) : List Fix :=
  match w with
  | .car b n => match s.car? b n with | some c => c.fix | none => []
  | .seq b => match s.seq? b with | some q => q.fix | none => []
/-- Set an agent's results not yet safely spaced. -/
def State.setFix (s : State) (w : Who) (f : List Fix) : State :=
  match w with
  | .car b n => s.modCar b n (fun c => { c with fix := f })
  | .seq b => s.modSeq b (fun q => { q with fix := f })

/-- The results not yet safely spaced, with a choice made for each that an instruction reads: the old value or the new one, a free choice
(log 6) that an instruction which waits keeps, since a source holds one value for the whole instruction (R158). -/
def chosen (s : State) (reads : List Reg) (fs : List Fix) : List Fix :=
  fs.zipIdx.map (fun x => if reads.contains x.1.reg then { x.1 with early := some (x.1.early.getD (Config.readsOld (s.free + x.2))) } else x.1)

/-- Spacing after an instruction has issued (R157): each result of before it moves on by 1 + its stall count; a stall of 3
waits for the instruction's own results, which come after every earlier one. The next reader makes a choice of its own. -/
def spaced (fs : List Fix) (st : Nat) : List Fix :=
  (fs.map (fun f => { f with gap := f.gap + 1 + st, early := none })).filter (fun f => f.gap < 2)

/-- The Seed function of R134: the generator's state for a seed value. -/
def seedOf (x : Word) : Word := if x = 0 then 0x9E3779B97F4A7C15 else x * 0x9E3779B97F4A7C15

/-- Does a once-only instruction execute (R154)? -/
def State.condTrue (s : State) (w : Who) (pr : Nat) (neg : Bool) : Bool :=
  if pr = 7 then true else (s.crd w pr) != neg

/-- What an instruction leaves of an earlier result of a register it has written: the lanes it has not written, if any (R158, R160). A
scoreboarded one is waited for by every reader (R159), and the earlier result lands before its own. -/
def Fix.after (f : Fix) (o : Op) : Option Fix :=
  if !(o.dst.contains f.reg) then some f
  else match f.reg with
    | .v _ | .p _ => if f.lanes &&& ~~~o.lanes = 0 then none
        else some { f with lanes := f.lanes &&& ~~~o.lanes, landed := f.landed || !o.fixed }
    | _ => none

/-- The results of an instruction not yet safely spaced after it, those of before it moved on by its slot (R157). `o.dst` are the
registers it has written, in the threads `o.lanes`: none where it did not execute. -/
def State.fixAfter (s before : State) (w : Who) (o : Op) : List Fix :=
  let made := if o.fixed && o.st < 2 then
      o.dst.filterMap (fun r => if r == .u 0 || r == .p 7 then none else
        some { reg := r, old := before.regVal w r, pc := BitVec.ofNat 64 (before.pcOf w), gap := o.st, lanes := o.lanes })
    else []
  (spaced (s.fixOf w) (if o.st = 3 then 2 else o.st)).filterMap (·.after o) ++ made

/-- Does SCHED YLD stand in a group (R167)? -/
def hintYield (hs : List W32) : Bool := match hintOf hs 0x7F with | some h => bitsOf h.toNat 21 21 == 1 | none => false

/-- The status word after SCHED PV (R167). -/
def cstAfter (hs : List W32) (cst : Word) : Word :=
  match hintOf hs 0x7F with
  | some h => if bitsOf h.toNat 19 19 == 1 then (cst &&& ~~~6) ||| BitVec.ofNat 64 (2 * bitsOf h.toNat 18 17) else cst
  | none => cst

/-- A caravan past a word: the pc moves, the group is spent with SCHED's requests taken (R167), spacing is kept (R157), the next
issue waits out the stall count (R156), and the epoch counts the word and the v registers it writes (R389). -/
def Caravan.past (c : Caravan) (hs : List W32) (pc : Nat) (fx : List Fix) (next : Nat) (vs : List Nat) : Caravan :=
  { c with
    regs := { c.regs with pc := BitVec.ofNat 64 pc }, hints := [], fix := fx, nextIssue := next, cst := cstAfter hs c.cst
    epochs := c.epochs.dropLast ++ (c.epochs.getLast?.map (fun e => { e with count := e.count + 1, vw := addAll vs e.vw })).toList }

/-- A new epoch opened at a checkpoint, the last one closed (R163, R389). -/
def Caravan.newEpoch (c : Caravan) : Caravan :=
  { c with epochs := (c.epochs.map (fun e => { e with closed := true })) ++ [c.freshEpoch] }

/-- The open epoch closes after 32 words (R389). -/
def State.closeEpoch (s : State) (b n : Nat) : State :=
  match s.car? b n with
  | some c => if c.epochs.getLast?.any (fun e => 32 ≤ e.count) then (s.modCar b n Caravan.newEpoch).queueEvent (.epochCommit b n) else s
  | none => s

/-- Does a held operation owe a register that the word waits for? -/
def State.owesResult (s : State) (b n : Nat) (o : Op) : Bool :=
  match s.car? b n with
  | some c => o.st = 3 && c.epochs.any (fun e => e.pend.any (fun p => o.dst.contains p.reg && p.val == .held))
  | none => false

/-- Time passes: an issue slot is two cycles (R156). -/
def State.slotPast (s : State) : State := { s with clk := s.clk + 2 }

/-- What a caravan keeps of an instruction of R184 that is its last issued word and has not completed: none for any other. -/
def State.multiMark (before : State) (b n : Nat) (o : Op) : Option Multi :=
  if o.multi then
    match before.car? b n, o.dst.head? with
    | some c, some r => some { reg := r, pc := c.snapshot.pc, gs := c.regs.gs, sb := o.st == 3 }
    | _, _ => none
  else none

/-- After the instruction: the agent moves past it, and a checkpoint follows where the instruction's rule asks for one, or where
it waits for a result that a held operation gives. With a stall of 3 the instruction's own result lands in this step, but for that of an
instruction of R184, whose caravan waits for it (R156). -/
def State.retire (s : State) (w : Who) (o : Op) (hs : List W32) (pc : Nat) (before : State) (ckpt : Bool) : State :=
  let fx := s.fixAfter before w o
  let next := s.clk + 2 + (if o.st = 3 then 0 else 2 * o.st)
  match w with
  | .seq b => s.slotPast.modSeq b (fun q => { q with
      pc := BitVec.ofNat 64 pc, hints := [], fix := fx, nextIssue := next, yield := if hintYield hs then (if s.othersReady (s.coreOf w) b then 8 else 0) else q.yield })
  | .car b n =>
    let vs := vRegs o.dst
    let s := s.slotPast.modCar b n (fun c => { c.past hs pc fx next vs with
      multi := before.multiMark b n o, yieldTo := if hintYield hs then s.clk + 18 else c.yieldTo })
    let s := if ckpt || s.owesResult b n o then s.commitAll b n else s
    let s := if o.st = 3 && !o.multi then s.settleRegs (.car b n) o.dst else s
    s.closeEpoch b n

/-- The registers of a v list written since the oldest uncommitted checkpoint (R391). -/
def Caravan.shadowed (c : Caravan) : List Nat := c.epochs.foldl (fun acc e => addAll e.vw acc) []

/-- Does SCHED CKP stand in a group (R167)? -/
def hintCkp (hs : List W32) : Bool := match hintOf hs 0x7F with | some h => bitsOf h.toNat 20 20 == 1 | none => false

/-- A checkpoint before an instruction: where SCHED CKP asks for one (R167), or where a 17th v register would need a shadow
(R389). -/
def State.checkpointFor (s : State) (b n : Nat) (o : Op) (hs : List W32) : State :=
  match s.car? b n with
  | none => s
  | some c =>
    let vs := vRegs o.dst
    if hintCkp hs || 16 < (addAll vs c.shadowed).length then s.commitAll b n else s

/-- Before an instruction: results it names land; a checkpoint is taken where one is due. -/
def State.prepare (s : State) (w : Who) (o : Op) (hs : List W32) : State :=
  let s := s.settleRegs w (o.dst ++ o.reads hs)
  match w with
  | .seq _ => s
  | .car b n => s.checkpointFor b n o hs

/-- The generator seeded where MOD SV asks (R135, R166), from the seed register as the modified instruction reads it: its old or its
new value where it is not safely spaced (R158). -/
def State.seeded (s : State) (w : Who) (hs : List W32) : State :=
  match w, hintSeed hs with
  | .car b n, some r => s.modCar b n (fun x => { x with regs := { x.regs with gs := seedOf (x.regs.rd x.plv r) } })
  | _, _ => s

/-- Put old values in place of unsafely spaced ones for the instruction's reads, whole (R158): where several results of one register are not
in yet, the value before the earliest, since writes land in program order. -/
def State.withOld (s : State) (w : Who) (olds : List Fix) : State := olds.foldr (fun f st => st.putVal w f.reg f.old) s

/-- Has a caravan a result on its way to a register (R159)? -/
def State.pendsReg (s : State) (w : Who) (r : Reg) : Bool :=
  match w with
  | .car b n => match s.car? b n with | some c => c.epochs.any (fun e => e.pend.any (fun p => p.reg == r)) | none => false
  | .seq _ => false

/-- Afterwards the new values stand again, but where the instruction has itself written the register: in the threads it wrote, and not
where its result is still on its way (R159, R184). -/
def State.restoreNew (s : State) (w : Who) (olds : List Fix) (before : State) (written : List Reg) (mask : W32) : State :=
  olds.foldl (fun st f =>
    if written.contains f.reg && !(st.pendsReg w f.reg) then
      (match f.reg, before.regVal w f.reg, st.regVal w f.reg with
       | .v k, .v _ y, _ => st.putVal w (.v k) (.v (~~~mask) y)
       | .p k, .p y, .p z => st.putVal w (.p k) (.p ((z &&& mask) ||| (y &&& ~~~mask)))
       | _, _, _ => st)
    else st.putVal w f.reg (before.regVal w f.reg)) s

/-- A checkpoint that an instruction took before it acted keeps the registers as they were before the instruction, whatever it read
(R158, R163, R391): not an old value it read early, and not a seed of its own group. -/
def State.mendSnap (s : State) (w : Who) (olds : List Fix) (hs : List W32) (before : State) : State :=
  match w with
  | .seq _ => s
  | .car b n => match before.car? b n with
    | none => s
    | some c =>
      if olds.isEmpty && (hintSeed hs).isNone then s
      else s.modEpoch b n (fun e => if e.count ≠ 0 then e else
        { e with snap := { (olds.foldl (fun r f => c.regs.copy c.plv r f.reg) e.snap) with gs := c.regs.gs } })

/-- An instruction that waits has drawn nothing: the generator stands as before its group (R137, R163). -/
def State.undrawn (s : State) (w : Who) (before : State) : State :=
  match w with
  | .seq _ => s
  | .car b n => match before.car? b n with
    | none => s
    | some c => s.modCar b n (fun x => { x with regs := { x.regs with gs := c.regs.gs } })

/-- The phase wait of an agent whose arrival has been made (R250). -/
def State.phaseOf (s : State) (w : Who) : Option PhaseWait :=
  match w with
  | .car b n => (s.car? b n).bind (·.phase)
  | .seq b => (s.seq? b).bind (·.phase)

/-- An agent's status after an instruction: it runs on, or has ended in it. -/
def statusAfter : Option Status → Status
  | some .ended => .ended
  | _ => .running

/-- The threads whose lanes an instruction of a caravan writes (R153). -/
def State.lanesWritten (s : State) (w : Who) (o : Op) (hs : List W32) : W32 :=
  match w with
  | .car b n => match s.car? b n with | some c => c.active (if o.perThread then o.pr else 7) (hintNegp hs) | none => 0
  | .seq _ => 0

/-- The issue of one instruction word by the current agent: checks, effect, retirement. `eff` is the instruction's own effect,
run on the state whose registers its reads see; it is skipped where the condition of a once-only instruction is false, but for one that
goes on with a wait it has begun (R250). -/
def issue (o : Op) (eff : Who → List W32 → State → Res) (s : State) : Out :=
  let w := s.cur
  match s.statusOf w with
  | none => .fault .noAgent
  | some _ =>
    let hs := s.hintsOf w
    let pc := s.pcOf w
    match checkIssue s w o with
    | some t => .next (s.takeTrap w t)
    | none =>
      let s1 := s.prepare w o hs
      let fs := chosen s1 (o.reads hs) (s1.fixOf w)
      let olds := fs.filter (fun f => f.early == some true && !f.landed)
      let s2 := (({ s1 with free := s1.free + fs.length }).withOld w olds).seeded w hs
      let run := o.perThread || s2.condTrue w o.pr (hintNegp hs) || (o.again && (s.phaseOf w).isSome)
      let mask := s2.lanesWritten w o hs
      let dst := if run && (!o.perThread || mask != 0) then o.dst else []
      match (if run then eff w hs s2 else .ok s2 none false) with
      | .ok s3 npc ck =>
        let s4 := (s3.restoreNew w olds s1 dst mask).mendSnap w olds hs s1
        .next ((s4.setStatus w (statusAfter (s4.statusOf w))).retire w { o with dst := dst, lanes := mask } hs
          (npc.getD (pc + 4)) s1 ck)
      | .trap t => .next (({ s1 with free := s1.free + fs.length }).takeTrap w t)
      | .wait x s3 => .next (((((s3.restoreNew w olds s1 [] mask).mendSnap w olds hs s1).undrawn w s1).setFix w fs).setStatus w (.waiting x))
      | .stop f => .fault f

/-- A register-only effect of a caravan. -/
def regEffect (f : Caravan → List W32 → CRegs → CRegs) (w : Who) (hs : List W32) (s : State) : Res :=
  match w with
  | .car b n => .ok (s.modCar b n (fun c => { c with regs := f c hs c.regs })) none false
  | .seq _ => .ok s none false

end Sys2Proof.Machine
end

