-- ==== Sys2Proof/Machine/Ready.lean ====
section
/-! DEFINITION. Who issues next (R45, R57, R58, R376) and how a word is fetched (R149, R285, R350). -/
namespace Sys2Proof.Machine
open Sys2Proof

/-- Has phase ph of a barrier completed (R245)? -/
def phaseDone (r : Barrier) (ph : W32) : Bool := let d := (r.p - ph).toNat; 1 ≤ d && d ≤ 2 ^ 31

/-- Has phase ph of a block's scope completed: 0x40 `bbar`, 0x41 `dbar`, 0x44 to 0x47 `cbar` (R249, R384)? -/
def State.scopeDone (s : State) (x : Block) (arg ph : Nat) : Bool :=
  if arg = 0x40 then (match x.scopeCount 0 with | some n => ph < n | none => true)
  else if arg = 0x41 then (match s.launch? x.launch with | some l => ph < vget l.dbarDone (dieOf x.core) | none => true)
  else match x.convoys.getD (arg - 0x44) none with
    | none => true
    | some cv => cv.members.all (fun m =>
        let done := match s.launch? x.launch with | some l => l.endedBlocks.contains (x.kernel, m) | none => true
        done || (match s.blocks.find? (fun y => y.launch == x.launch && y.kernel == x.kernel && y.lin == m) with
          | none => false
          | some y =>
            match y.convoys.findIdx? (fun z => match z with | some z => z.index == cv.index | none => false) with
            | some i => (match y.scopeCount (2 + i) with | some n => ph < n | none => true)
            | none => true))

/-- The tiles a matrix instruction of a block targets now (R281). -/
def State.mxTargets (_ : State) (x : Block) (m : MxOp) : List Nat :=
  let last := x.vectors * x.tilesPer
  match m.kind with
  | .mma | .mmag => [m.d]
  | .mzero => (List.range (m.a + 1)).map (m.d + ·)
  | .mst | .mstF | .mstI =>
    if m.stage < 2 then m.a :: (List.range (last - m.d)).map (m.d + ·)
    else m.a :: (m.index.filter (· != 0xFFFF)).map (fun e => m.d + e / 64)
  | .mmaCv =>
    let slot := bitsOf m.ga1.toNat 9 8
    let gr := bitsOf m.ga1.toNat 3 0
    let gc := bitsOf m.ga1.toNat 7 4
    match x.convoys.getD slot none with
    | some cv =>
      let q := ((List.range ((gr + 1) * (gc + 1))).filter (fun p => p % cv.members.length == cv.rank)).length
      (List.range q).map (m.d + ·)
    | none => []

/-- Is a tile targeted by a matrix instruction that has not completed (R105, R281)? -/
def State.targeted (s : State) (x : Block) (tile : Nat) : Bool := (s.pendingMx x).any (fun m => (s.mxTargets x m).contains tile)

/-- Is a pipe closed (R257): by the host, or because every block of its pushing kernels has ended and every push is in? -/
def State.pipeClosed (_ : State) (l : Launch) (q : Nat) : Bool :=
  match l.pipes[q]? with
  | none => true
  | some p => p.closed || (p.feed == 0 && p.pushk != 0 &&
      (List.range l.kernels.length).all (fun k => p.pushk / 2 ^ k % 2 == 0 ||
        (match l.kernels[k]? with
         | some kn => (l.endedBlocks.filter (fun e => e.1 == k)).length == kn.blocks
         | none => true)))

/-- Places of a pipe that entries and held pushes have taken (R259). -/
def State.pipeUsed (s : State) (l : Launch) (q : Nat) : Nat :=
  let held := (s.blocks.filter (fun x => x.launch == l.id)).flatMap (fun x => x.cars.flatMap (·.held))
  (match l.pipes[q]? with | some p => p.entries.length | none => 0) +
    held.countP (fun h => match h with | .qpush k _ => k == q | _ => false)

/-- Is the next slot of a ring in a state: FREE for `ring.acq`, PUBLISHED for `ring.take` (R242)? -/
def Block.slotReady (x : Block) (k st : Nat) : Bool :=
  let r := vget x.rings k
  vget r.states ((if st = 0 then r.acquired else r.taken).toNat % r.slots) == st

/-- Does another caravan's earlier request wait for the same slot (R242)? `mine` is the asker's own request, if it waits. -/
def Block.ringAhead (x : Block) (k st : Nat) (mine : Option Nat) : Bool :=
  x.cars.any (fun c => match c.status with
    | .waiting (.ringFree j q) => st == 0 && j == k && (match mine with | some m => q < m | none => true)
    | .waiting (.ringFull j q) => st == 2 && j == k && (match mine with | some m => q < m | none => true)
    | _ => false)

/-- Copies a core has accepted that have not arrived, held ones included (R236). -/
def State.copyCount (s : State) (core : Nat) : Nat :=
  let held := (s.blocks.filter (fun x => x.core == core)).flatMap (fun x => x.cars.flatMap (·.held))
  (match s.core? core with | some c => c.copies.length | none => 0) +
    held.countP (fun h => match h with | .copy _ => true | _ => false)

/-- Has some caravan committed operations that have still to wait (R326, R444)? -/
def State.anyLate (s : State) : Bool := s.blocks.any (fun x => x.cars.any (fun c => !c.late.isEmpty))

/-- Does some caravan wait for the host's answer to an atomic (R298)? -/
def State.atHost (s : State) : Bool := s.blocks.any (fun x => x.cars.any (fun c => (c.io.bind (·.pending)).isSome))

/-- Has what a member waits for come about? -/
def State.waitOver (s : State) (w : Who) (x : Wait) : Bool :=
  match s.block? (blkOf w) with
  | none => false
  | some b =>
    match x with
    | .phase k ph => phaseDone (vget b.bars k) (BitVec.ofNat 32 ph)
    | .scope arg ph => s.scopeDone b arg ph
    | .ringFree k q => b.slotReady k 0 && !(b.ringAhead k 0 (some q))
    | .ringFull k q => b.slotReady k 2 && !(b.ringAhead k 2 (some q))
    | .pipe q => match s.launch? b.launch with
      | some l => (match l.pipes[q]? with | some p => !p.entries.isEmpty | none => true) || s.pipeClosed l q
      | none => true
    | .place q => match s.launch? b.launch with
      | some l => (match l.pipes[q]? with | some p => s.pipeUsed l q < p.depth | none => true) || s.pipeClosed l q
      | none => true
    | .tile lo n => (List.range n).all (fun i => !(s.targeted b (lo + i)))
    | .array => (s.pendingMx b).all (fun m => m.stage == 2 && !m.hold)
    | .meet => false
    | .copies => s.copyCount b.core < 256
    | .chunk => match w with
      | .car bi n => match (s.car? bi n).bind (·.wfe) with
        | some v => v.woken || v.timedOut || (match v.deadline with | some d => d ≤ s.clk | none => false)
        | none => true
      | .seq _ => true
    | .stream _ => !(s.streams.any (fun r => r.who == w))
    | .hostAtomic => match w with
      | .car bi n => (match (s.car? bi n).bind (·.io) with | some i => i.pending.isNone | none => true)
      | .seq _ => true
    | .fence => s.globalWrites.isEmpty
    | .halt => false
    | .scrub c => match s.core? c with | some k => k.scrubEnd ≤ s.clk | none => true
    | .epoch => !s.anyLate && !s.atHost

/-- Does an agent issue at this slot (R58, R156, R167, R390)? A steward core issues nothing in the pause of an activation (R434), nor in
minimal mode, where only the boot ROM runs (R431). A caravan issues nothing after a bind or unbind that has still to wait, while it yields, nor
before the result of an instruction of R184 that it waits for. -/
def State.ready (s : State) (w : Who) : Bool :=
  match w with
  | .car b n => match s.car? b n, s.block? b with
    | some c, some x =>
      let live := match s.core? x.core with
        | some k => !k.halted && !(isSteward x.core && (s.fw.phase == .paused || s.fw.phase == .minimal))
        | none => false
      live && c.late.isEmpty && !(s.bindStuck w) && c.epochs.length ≤ 2 && c.nextIssue ≤ s.clk && c.yieldTo ≤ s.clk && !(c.multi.any (fun m => m.sb && s.pendsReg w m.reg)) &&
      (match c.status with | .running => true | .ended => false | .waiting v => s.waitOver w v)
    | _, _ => false
  | .seq b => match s.seq? b, s.block? b with
    | some q, some _ =>
      q.nextIssue ≤ s.clk && q.yield = 0 && (match q.status with | .running => true | .ended => false | .waiting v => s.waitOver w v)
    | _, _ => false

/-- The cores that hold blocks, each with its four quarters and its sequencers' path. -/
def State.paths (s : State) : List (Nat × Nat) :=
  ((s.blocks.filter (fun x => !x.ended)).foldl (fun acc x => if acc.contains x.core then acc else acc ++ [x.core]) []).flatMap
    (fun c => (List.range 5).map (fun q => (c, q)))

/-- The agent that issues on a path: in a quarter the first ready slot after the one that issued last (R376); on the sequencers'
path the first ready sequencer after the block slot the array served last (DESIGN CHOICE, log 5: R45 orders only what the array takes,
and no rule orders the words of several ready sequencers). -/
def State.pick (s : State) (path : Nat × Nat) : Option Who :=
  let here := s.blocks.filter (fun x => x.core == path.1 && !x.ended)
  match s.core? path.1 with
  | none => none
  | some k =>
    if path.2 < 4 then
      let l := vget k.l path.2
      (List.range 8).findSome? (fun i =>
        here.findSome? (fun x => (x.cars.find? (fun c => c.quarter == path.2 && c.slot == (l + 1 + i) % 8 && s.ready (.car x.id c.n))).map
          (fun c => Who.car x.id c.n)))
    else
      (List.range 4).findSome? (fun i =>
        (here.find? (fun x => x.slot == (k.arrayLast + 1 + i) % 4 && s.ready (.seq x.id))).map (fun x => Who.seq x.id))

/-- The next agent to issue and the turn after it: paths take turns, starting where the last one left off (log 5). -/
def State.nextAgent (s : State) : Option (Who × Nat) :=
  let ps := s.paths
  (List.range ps.length).findSome? (fun i =>
    let j := (s.turn + i) % ps.length
    match ps[j]? with
    | some p => (s.pick p).map (fun w => (w, (j + 1) % ps.length))
    | none => none)

/-- The slot of an agent as gating counts it (R438): a caravan's core and quarter; a sequencer's words are gated with its array. -/
def State.slotOf (s : State) (w : Who) : Option (Nat × Nat) :=
  match w with
  | .car b n => match s.car? b n, s.block? b with
    | some c, some x => some (x.core, c.quarter)
    | _, _ => none
  | .seq _ => none

/-- Is the slot an agent would issue in gated (R438, R439)? -/
def State.slotGated (s : State) (w : Who) : Bool := (s.slotOf w).any (fun p => s.gates p.1 p.2)

/-- The choice made for an agent's slot noted. -/
def State.noteSlot (s : State) (w : Who) (gated : Bool) : State :=
  match s.slotOf w with
  | some p => s.noteGate p.1 p.2 gated
  | none => s

/-- A gated slot is none of the 8 that a yield waits out: the yields of its quarter end one slot later (R167). -/
def State.yieldsOn (s : State) (w : Who) : State :=
  match s.slotOf w with
  | some p => { s with blocks := s.blocks.map (fun x => if x.core == p.1 then
      { x with cars := x.cars.map (fun c => if c.quarter == p.2 && s.clk < c.yieldTo then { c with yieldTo := c.yieldTo + 2 } else c) } else x) }
  | none => s

/-- A gated slot passes (R438): it is no issue slot, so only the turn moves on and time passes. -/
def State.passGated (s : State) (w : Who) (turn : Nat) : State :=
  let s := (s.noteSlot w true).yieldsOn w
  { s with turn := turn, clk := s.clk + 2 }

/-- A launch's use of a core is metered (R378); what the steward's own kernels use is not. -/
def State.meter (s : State) (w : Who) : State :=
  match s.block? (blkOf w), s.launchOf w with
  | some x, some l =>
    if l.vf == stewardVf then s
    else if s.meters.any (fun m => m.core == x.core && m.launch == l.id) then
      { s with meters := s.meters.map (fun m => if m.core == x.core && m.launch == l.id then { m with uses := m.uses + 1 } else m) }
    else { s with meters := s.meters ++ [{ core := x.core, vf := l.vf, launch := l.id, uses := 1 }] }
  | _, _ => s

/-- The quarter remembers the slot that issues (R376), and the slot is metered. -/
def State.noteIssue (s : State) (w : Who) : State :=
  let s := s.meter w
  match w with
  | .car b n => match s.car? b n, s.block? b with
    | some c, some x => s.modCore x.core (fun k => { k with l := vset k.l c.quarter c.slot })
    | _, _ => s
  | .seq _ => s

/-- The breakpoint an address matches, if any (R332, R350). -/
def breakpointAt (f : Vf) (pc : Nat) : Option Nat :=
  (List.range 2).find? (fun i => (vget f.bpa i).getLsbD 0 && bitsOf (vget f.bpa i).toNat 31 2 == bitsOf pc 31 2 && pc < 2 ^ 32)

/-- Rows that share a word are told apart by the register that names the operation (R343, R346). -/
noncomputable def resolve (s : State) (i : Instr) : Instr :=
  match i with
  | .tlbiPage f =>
    let x := (s.urd s.cur f.d.toNat).toNat
    if x % 4 = 1 then .tlbiSpace f else if x % 4 = 2 then .tlbiTenant f else .tlbiPage f
  | .cacheopDropLine f =>
    let x := (s.urd s.cur f.d.toNat).toNat
    if x % 4 = 1 then .cacheopWriteback f else if x % 4 = 2 then .cacheopDropAll f else .cacheopDropLine f
  | i => i

/-- What the current agent meets at its pc: a word, or the trap of a fetch (R285) or of a breakpoint (R350). -/
inductive Fetch where
  | word (w : W32)
  | trap (t : Trap)
deriving DecidableEq, Repr

/-- The fetch of the current agent's next word. An instruction that waits and issues again is not met anew (R350). -/
def State.fetch (s : State) : Fetch :=
  let w := s.cur
  let pc := s.pcOf w
  let launch := match s.block? (blkOf w) with | some x => x.launch | none => 0
  let exempt : Bool := match w with
    | .car b n => (match s.car? b n with
      | some c => c.nobp || c.plv != 0 || !c.hints.isEmpty || c.phase.isSome || c.status != .running
      | none => true)
    | .seq _ => true
  let bp := if exempt then none else
    ((s.launchOf w).bind (fun l => s.vf? l.vf)).bind (fun f => breakpointAt f pc)
  match bp with
  | some i => .trap (wholeTrap 0x41 i pc 0)
  | none => match s.codeAt (s.coreOf w) launch (s.plvOf w) pc with
    | .word x => .word x
    | .missing => .trap (wholeTrap 0x05 0 pc 0)
    | .misaligned => .trap (wholeTrap 0x06 2 pc 0)
    | .outside => .trap (wholeTrap 0x06 6 pc 0)

/-- The state in which the current agent's word executes: the exemption from breakpoints spent, but kept for a rollback to before the
group (R338, R350). -/
def State.begun (s : State) : State :=
  match s.cur with
  | .car b n => s.modCar b n (fun c => if c.nobp then { c with nobp := false, epochs := c.epochs.map (fun e => { e with nobp := true }) } else c)
  | .seq _ => s

end Sys2Proof.Machine
end

