-- ==== Sys2Proof/Machine/Transfer.lean ====
section
/-! DEFINITION. The transfer of an accepted copy (R106, R237, R238): chunk by chunk in ascending destination address, one
repetition after another, then the arrival. -/
namespace Sys2Proof.Machine
open Sys2Proof

/-! ## Registers in MMIO space (R230, R424) -/

/-- IFRES set (R425). -/
def State.ifResult (s : State) (vf r : Nat) : State := s.modVf vf (fun f => { f with ifres := r })

/-- The function and the command of a write that covers IFCMD. -/
def ifcmdOf (pa : Nat) (bs : List Byte) : Option (Nat × Nat) :=
  let off := pa % 0x100
  if 0x3000000100000 ≤ pa && pa < 0x3000000104000 && off ≤ 0x08 && 0x0C ≤ off + bs.length then
    some ((pa - 0x3000000100000) / 0x100, leNat ((bs.drop (8 - off)).take 4))
  else none

/-- The RW registers an MMIO write covers change; everything else is discarded (R8, R230, R424). -/
def State.mmioPatch (s : State) (pa : Nat) (bs : List Byte) : State :=
  if 0x3000000100000 ≤ pa && pa < 0x3000000104000 then
    let off := pa % 0x100
    let patch := fun (w : Word) (base : Nat) =>
      BitVec.ofNat 64 (leNat ((List.range 8).map (fun i =>
        if off ≤ base + i && base + i < off + bs.length then bs.getD (base + i - off) 0 else (leBytes 8 w.toNat).getD i 0)))
    s.modVf ((pa - 0x3000000100000) / 0x100) (fun f => { f with
      ifrep := if 0x10 ≤ off && off < 0x18 then patch f.ifrep 0x10 else f.ifrep
      ifnote := if 0x20 ≤ off && off < 0x28 then patch f.ifnote 0x20 else f.ifnote })
  else s

/-- A copy's write to an MMIO address: registers change, and the command of IFCMD acts as its own step (R72, R237; log 13). -/
def State.mmioCopy (s : State) (pa : Nat) (bs : List Byte) : State :=
  let s := match ifcmdOf pa bs with
    | some (vf, 1) => s.queueEvent (.ifcmdLock vf)
    | some (vf, 2) => s.queueEvent (.ifcmdStart vf)
    | some (vf, 3) => s.queueEvent (.ifcmdStop vf)
    | some (vf, _) => s.ifResult vf 3
    | none => s
  s.mmioPatch pa bs

/-! ## The transfer -/

/-- The bytes a piece reads where no stream serves them, and their poison: zero codes for an all-zero block (R81, R237), a register's
value on an MMIO page (R72). -/
def State.pieceRead (s : State) (p : Piece) : List Byte × List (Option Poison) :=
  let clean := List.replicate p.len (none : Option Poison)
  let empty := match p.scale with | some a => zeroBlock (s.memByte a) | none => false
  if empty then (List.replicate p.len 0, clean)
  else match p.srcFar, p.src with
    | some (pod, pkg), .glob pa => ((List.range p.len).map (fun i => s.far.read (farAddr pod pkg (pa + i))), clean)
    | _, .glob pa => if kindOf pa == Kind.mmio then (leBytes p.len (s.mmioRead pa p.len), clean)
      else (s.peekN (.glob pa) p.len, (List.range p.len).map (fun i => s.poisonAt (.glob (pa + i))))
    | _, l => (s.peekN l p.len, (List.range p.len).map (fun i => s.poisonAt (l.add i)))

/-- A byte is marked poisoned (R397). -/
def State.poisonByte (s : State) (l : Loc) (x : Poison) : State :=
  match l with
  | .glob pa => { s with poison := s.poison ++ [{ x with pa := pa }] }
  | .ls b o => s.modBlock b (fun y => { y with lsPoison := insertNew o y.lsPoison })

/-- Poison of some bytes where they land, at both homes of a dual-home page (R237, R362, R364). -/
def State.poisonRun (s : State) (l : Loc) (second : Option Nat) (bad : List (Option Poison)) : State :=
  (bad.zipIdx).foldl (fun st x => match x.1 with
    | some q =>
      let st := st.poisonByte (l.add x.2) q
      match second with | some a => st.poisonByte (.glob (a + x.2)) q | none => st
    | none => st) s

/-- A piece's bytes are written where no stream serves them (R106); bytes that came from uncorrectable data are poisoned where they land
(R237). -/
def State.pieceWrite (s : State) (p : Piece) (bs : List Byte) (bad : List (Option Poison)) : State :=
  match p.dstFar, p.dst with
  | some (pod, pkg), .glob pa => { s with far := s.far.writeN (farAddr pod pkg pa) bs }
  | _, l =>
    match l with
    | .glob pa => if kindOf pa == Kind.mmio then s.mmioCopy pa bs else (s.put none l bs p.second).poisonRun l p.second bad
    | .ls _ _ => (s.put none l bs p.second).poisonRun l p.second bad

/-- The destination chunks of a repetition, in ascending address. -/
def repChunks (ps : List Piece) : List Nat := sortNat (ps.foldl (fun acc p => insertNew (p.dstVa / 64) acc) [])

/-- A byte of a streamed side of a copy: its slot, its address and place, its offset in its page and the value written there, if any. -/
structure StreamByte where
  slot : Nat
  va : Nat
  pa : Nat
  pos : Nat
  byte : Byte
deriving DecidableEq, Repr

/-- Bytes in ascending address, the last of those at one address (R106: the higher-numbered thread's). -/
def orderBytes (xs : List StreamByte) : List StreamByte :=
  let kept := xs.reverse.foldl (fun acc x => if acc.any (fun (y : StreamByte) => y.va == x.va) then acc else x :: acc) []
  sortBy (fun a b => a.va ≤ b.va) kept

/-- The bytes of a piece's streamed source, or of its destination with the bytes to write. -/
def Piece.streamBytes (p : Piece) (store : Option (List Byte)) : List StreamByte :=
  let side := match store with | none => (p.srcGraph, p.src, p.srcPos, p.srcVa) | some _ => (p.dstGraph, p.dst, p.dstPos, p.dstVa)
  match side with
  | (0, _, _, _) => []
  | (k, .glob pa, pos, va) =>
    (List.range p.len).map (fun i => { slot := k, va := va + i, pa := pa + i, pos := pos + i, byte := (store.getD []).getD i 0 })
  | (_, .ls _ _, _, _) => []

/-- The read events of the streamed source bytes of a destination chunk, one for each source chunk in ascending address (R106): each
byte's value by its address. -/
def State.streamReads (s : State) (tenant : Nat) (here : List Piece) : List (Nat × Byte) × State :=
  let chunks := sortNat (here.foldl (fun acc p => if p.srcGraph = 0 then acc else insertNew (p.srcVa / 64) acc) [])
  chunks.foldl (fun (acc : List (Nat × Byte) × State) c =>
    let bs := orderBytes ((here.filter (fun p => p.srcVa / 64 == c)).flatMap (fun p => p.streamBytes none))
    let (got, s') := acc.2.streamEvent tenant ((bs.head?.map (·.slot)).getD 0) (bs.map (fun b => (b.pa, b.pos))) none
    (acc.1 ++ (bs.map (·.va)).zip got, s')) ([], s)

/-- The byte read at an address. -/
def byteOf (got : List (Nat × Byte)) (va : Nat) : Byte := match got.find? (fun g => g.1 == va) with | some g => g.2 | none => 0

/-- The write event of the streamed bytes of a destination chunk (R106). -/
def State.streamWrite (s : State) (tenant : Nat) (bs : List StreamByte) : State :=
  match bs with
  | [] => s
  | b :: _ => (s.streamEvent tenant b.slot (bs.map (fun x => (x.pa, x.pos))) (some (bs.map (·.byte)))).2

/-- A tagged copy records the shift count of a piece for each 4-byte word of the slot it fills (R80, R238). -/
def State.recordShift (s : State) (tag : Option (Nat × Nat × Nat × Nat)) (p : Piece) : State :=
  match tag, p.scale, p.dst with
  | some (b, k, slot, _), some a, .ls _ off =>
    let x := s.memByte a
    s.modBlock b (fun y =>
      let r := vget y.rings k
      let lo := (off - (r.base + slot * r.size)) / 4
      let words := (List.range ((p.len + 3) / 4)).map (lo + ·)
      let kept := r.shifts.filter (fun z => !(z.1 == slot && words.contains z.2.1))
      { y with rings := vset y.rings k { r with shifts := kept ++ words.map (fun i => (slot, i, x)) } })
  | _, _, _ => s

/-- One destination chunk of a repetition (R106): the source bytes it needs are read, then it is written. -/
def State.transferChunk (s : State) (tenant : Nat) (tag : Option (Nat × Nat × Nat × Nat)) (here : List Piece) : State :=
  let (got, s) := s.streamReads tenant here
  let reads := here.map (fun p => match p.srcGraph, p.src with
    | 0, _ => (p, s.pieceRead p)
    | _, .glob _ => (p, (List.range p.len).map (fun i => byteOf got (p.srcVa + i)), List.replicate p.len none)
    | _, _ => (p, s.pieceRead p))
  let s := reads.foldl (fun st r => if r.1.dstGraph = 0 then (st.recordShift tag r.1).pieceWrite r.1 r.2.1 r.2.2 else st) s
  s.streamWrite tenant (orderBytes (reads.flatMap (fun r => r.1.streamBytes (some r.2.1))))

/-- One repetition of a transfer, its destination chunks in ascending address (R106). -/
def State.transferRep (s : State) (tenant : Nat) (tag : Option (Nat × Nat × Nat × Nat)) (ps : List Piece) : State :=
  (repChunks ps).foldl (fun st c => st.transferChunk tenant tag (ps.filter (fun p => p.dstVa / 64 == c))) s

/-- A copy sets its slot's tag (R238). -/
def State.setTag (s : State) (tag : Option (Nat × Nat × Nat × Nat)) : State :=
  match tag with
  | none => s
  | some (b, k, slot, fmt) => s.modBlock b (fun x =>
      let r := vget x.rings k
      { x with rings := vset x.rings k { r with tags := vset r.tags slot fmt } })

/-- LINK_LOST for a side of a piece whose home a die can no longer reach (R402): the sub-reason, the home's package and the address. -/
def State.pieceLost (s : State) (die : Nat) (p : Piece) : Option (Nat × Nat × Nat) :=
  let side := fun (l : Loc) (far : Option (Nat × Nat)) (va : Nat) =>
    (s.homeLost die (if far.isSome then .pod else s.homeOf l)).map (fun x => (x.1, match far with | some f => f.2 | none => x.2, va))
  side p.src p.srcFar p.srcVa <|> (p.scale.bind (fun a => side (.glob a) none p.srcVa)) <|> side p.dst p.dstFar p.dstVa <|>
    (p.second.bind (fun a => side (.glob a) none p.dstVa))

/-- The trap of an accepted copy that can no longer reach a home (R402): LINK_LOST for its caravan, by its lowest lane (DEDUCED, log 12:
R402 names no request that is spared, and the copy's instruction is the last place that can trap). -/
def State.copyLost (s : State) (core : Nat) (c : CopyReq) : Option Trap :=
  let ps := sortBy (fun a b => a.lane ≤ b.lane) (c.reps.flatMap id)
  (ps.findSome? (s.pieceLost (dieOf core))).map (fun x =>
    { code := 0x32, sub := x.1, addr := BitVec.ofNat 64 x.2.2, synd := BitVec.ofNat 64 x.2.1, lreason := 0,
      lanes := maskOf (fun t => ps.any (fun p => p.lane == t && (s.pieceLost (dieOf core) p).isSome)) })

/-- The transfer of a committed copy, whole, with its arrival (R106, R237). A slot unbound before it goes with its last access (R444). A
copy sent under an earlier incarnation number of its core is dropped (R399), as is one that can reach a home no more, for which its
caravan traps. -/
def State.transfer (s : State) (core id : Nat) : State :=
  match (s.core? core).bind (fun c => c.copies.find? (fun x => x.id == id)) with
  | none => s
  | some c =>
    let gone := fun (s : State) => s.modCore core (fun x => { x with copies := x.copies.filter (fun y => y.id != id) })
    if c.inc != s.incarnation core then ((gone s).dropClosed).finishClosing c.blk
    else match s.copyLost core c with
    | some t =>
      let s := (gone s).dropClosed
      (if (s.block? c.blk).any (fun x => x.closing.isNone && !x.ended) then s.takeTrap (.car c.blk c.car) t else s).finishClosing c.blk
    | none =>
      let s := s.setTag c.tag
      let s := c.reps.foldl (fun st r => st.transferRep c.tenant c.tag r) s
      (((gone s).arrive c.blk c.bar).2.dropClosed).finishClosing c.blk

/-- Every committed copy of a block is drained: it transfers and arrives, in the order of issue (R116, R339). -/
def State.drainCopies (s : State) (b : Nat) : State :=
  match s.block? b with
  | none => s
  | some x =>
    let ids := match s.core? x.core with | some c => (c.copies.filter (fun (y : CopyReq) => y.blk == b)).map (fun (y : CopyReq) => y.id) | none => []
    ids.foldl (fun st i => st.transfer x.core i) s

end Sys2Proof.Machine
end

