-- ==== Sys2Proof/Machine/Array.lean ====
section
/-! DEFINITION. The matrix array (R266 to R281): tiles, operand descriptors and their checks, the operand read event, and the
results, with the summation of R138 to R140. -/
namespace Sys2Proof.Machine
open Sys2Proof

/-! ## Tiles (R40 to R42) -/

/-- A vector caravan's window in bytes (R40). -/
def Block.window (x : Block) : Nat := x.vbv * 256 + x.tilesPer * 16384
/-- The vector caravan that holds a tile, and the tile's position there (R41). -/
def Block.tileHome (x : Block) (n : Nat) : Option (Caravan × Nat) :=
  if x.tilesPer = 0 then none else (x.car? (x.porters + n / x.tilesPer)).map (fun c => (c, n % x.tilesPer))
/-- Is a tile below V × T? -/
def Block.tileNamed (x : Block) (n : Nat) : Bool := n < x.vectors * x.tilesPer
/-- Is a tile position usable beside VB registers (R42)? -/
def Block.positionFree (x : Block) (vb i : Nat) : Bool := vb * 256 + (i + 1) * 16384 ≤ x.window
/-- Is a tile of a block usable (R42)? -/
def Block.tileUsable (x : Block) (n : Nat) : Bool :=
  x.tileNamed n && (match x.tileHome n with | some (c, i) => x.positionFree c.vb i | none => false)
/-- BOUNDARY_CONFLICT for a tile (R335); SYND [7:0] holds the low 8 bits of the number of a tile that an index entry names beyond 255
(DESIGN CHOICE, log 48). -/
def tileTrap (n : Nat) : Trap := wholeTrap 0x08 2 0 (0x200 + n % 256)

/-- Element (i, j) of a tile. -/
def tileAt (t : Tile) (i j : Nat) : W32 := vget (vget t i) j
/-- A tile whose element (i, j) is f i j. -/
def tileOf (f : Nat → Nat → W32) : Tile := Vector.ofFn (fun i : Fin 64 => Vector.ofFn (fun j : Fin 64 => f i.val j.val))
/-- Set a tile of a block. -/
def State.setTile (s : State) (b n : Nat) (t : Tile) : State := s.modBlock b (fun x => { x with tiles := vset x.tiles n t })

/-! ## Descriptors (R269, R270) -/

/-- OFF of a descriptor. -/
def descOff (g : Word) : Nat := bitsOf g.toNat 31 0
/-- STRIDE. -/
def descStride (g : Word) : Nat := bitsOf g.toNat 47 32
/-- KIND. -/
def descKind (g : Word) : Nat := bitsOf g.toNat 57 56
/-- FMT. -/
def descFmt (g : Word) : Nat := bitsOf g.toNat 55 48

/-- An operand's element format, numbered: a code of R127, 0x100 f16, 0x200 bf16. -/
def mxElem (n : Nat) : Option Elem := if n = 0x100 then some (.flt .f16) else if n = 0x200 then some (.flt .bf16) else elemOf n

/-- The pairing group of an element format (R270): formats of one group pair; groups 4 and 5 accumulate in i32. -/
def pairGroup (n : Nat) : Option Nat :=
  if n = 0x100 then some 0 else if n = 0x200 then some 1
  else match elemOf n with
    | some (.flt f) => some (if f.width = 8 then 2 else 3)
    | some (.int _ w) => some (if w = 8 then 4 else 5)
    | none => none

/-- The ring and slot of a block that hold an offset (R271): the lowest-numbered ring's where initialised rings overlap (DESIGN CHOICE,
log 48). -/
def Block.slotOf (x : Block) (off : Nat) : Option (Nat × Nat) :=
  (List.range x.nring).findSome? (fun k =>
    let r := vget x.rings k
    if r.live && r.base ≤ off && off < r.base + r.slots * r.size then some (k, (off - r.base) / r.size) else none)

/-- The format index a slot's tag names, none without a tag. -/
def Block.tagAt (x : Block) (off : Nat) : Option Nat :=
  match x.slotOf off with
  | some (k, j) => let t := vget (vget x.rings k).tags j; if t = 0 then none else some t
  | none => none

/-- The element format an operand decodes by, numbered: by its descriptor, or by the tag of the slot that holds OFF. -/
def State.mxFormat (s : State) (x : Block) (g : Word) : Option Nat :=
  match descKind g with
  | 0 => some (descFmt g)
  | 1 => some 0x100
  | 2 => some 0x200
  | _ => match x.tagAt (descOff g), s.launch? x.launch with
    | some t, some l => (s.fmtEntry l.vf l.proc t).map (·.code)
    | _, _ => none

/-- Check 3 of R275 on a descriptor's own bits. -/
def descBits (g : Word) : Bool :=
  bitsOf g.toNat 63 58 == 0 && (if descKind g = 0 then (elemOf (descFmt g)).isSome else descFmt g == 0)

/-- Do two operand formats pair (R270)? -/
def pairs (a b : Nat) : Bool := (pairGroup a).isSome && pairGroup a == pairGroup b

/-- A fault of an operand: code and sub-reason with the local-store offset the record names. -/
def operandTrap (code sub off : Nat) : Trap := wholeTrap code sub off 0

/-- Checks 4 to 6 of R275 on a run of row offsets: the first row out of range. -/
def rowOutside (x : Block) (offs : List Nat) : Option Nat := offs.find? (fun o => x.lsg < o + 384)

/-- With KIND 3, the first row that does not lie in the tagged slot of OFF, or that has no format by its tag (R271, R275). The slot is
that of OFF, whichever rows are read; an operand of which no row is read needs its tag too, and the record then names OFF
(DESIGN CHOICE, log 48). -/
def State.tagFail (s : State) (x : Block) (g : Word) (offs : List Nat) : Option Nat :=
  if descKind g != 3 then none
  else if (s.mxFormat x g).isNone then some (offs.headD (descOff g))
  else match x.slotOf (descOff g) with
    | some (k, j) =>
      let r := vget x.rings k
      offs.find? (fun o => o < r.base + j * r.size || r.base + (j + 1) * r.size < o + 384)
    | none => some (offs.headD (descOff g))

/-- Check 5 of R275 on an operand: the first row that is not aligned to 32 bytes, or OFF where only rows that are not read are
misaligned. -/
def rowMisaligned (g : Word) (offs : List Nat) : Option Nat :=
  if descOff g % 32 = 0 ∧ descStride g % 32 = 0 then none else some ((offs.find? (· % 32 != 0)).getD (descOff g))

/-- The offsets of an operand's rows from `first`, `n` of them. -/
def rowOffsets (g : Word) (first n : Nat) : List Nat := (List.range n).map (fun q => descOff g + (first + q) * descStride g)

/-- The column blocks of B a rank of M members holds, of GC + 1 (R278). -/
def heldBlocks (gc m rank : Nat) : List Nat := (List.range (gc + 1)).filter (fun j => j % m == rank)
/-- The pieces (I, J) of a rank, in order (R278). -/
def piecesOf (gr gc m rank : Nat) : List (Nat × Nat) :=
  ((List.range ((gr + 1) * (gc + 1))).filter (fun p => p % m == rank)).map (fun p => (p / (gc + 1), p % (gc + 1)))

/-- GC. -/
def shapeGc (w : Word) : Nat := bitsOf w.toNat 7 4
/-- GR. -/
def shapeGr (w : Word) : Nat := bitsOf w.toNat 3 0

/-- The rows of A a matrix instruction reads, by row number. -/
def aRowNumbers (x : Block) (m : MxOp) : List Nat :=
  match m.kind with
  | .mmaCv => match x.convoyOf (shapeSlot m.ga1) with
    | some cv => ((List.range (shapeGr m.ga1 + 1)).filter (fun i =>
        (piecesOf (shapeGr m.ga1) (shapeGc m.ga1) cv.members.length cv.rank).any (fun p => p.1 == i))).flatMap
          (fun i => (List.range 64).map (64 * i + ·))
    | none => []
  | .mmag => m.index.filter (· != 0xFFFF)
  | _ => List.range 64

/-- The offsets of the B rows it reads from its own local store, by column block. -/
def bRowBlocks (x : Block) (m : MxOp) : List (Nat × List Nat) :=
  match m.kind with
  | .mmaCv => match x.convoyOf (shapeSlot m.ga1) with
    | some cv => (heldBlocks (shapeGc m.ga1) cv.members.length cv.rank).map (fun j =>
        (j, rowOffsets m.gb (j / cv.members.length * 64) 64))
    | none => []
  | .mma | .mmag => [(0, rowOffsets m.gb 0 64)]
  | _ => []

/-- The offset of an A row. -/
def aOffset (m : MxOp) (q : Nat) : Nat := descOff m.ga + q * descStride m.ga

/-- The index vector's offset in an index word (R274). -/
def indexOff (m : MxOp) : Nat := match m.kind with | .mmag => bitsOf m.ga1.toNat 31 0 | _ => bitsOf m.gb.toNat 31 0
/-- Does a matrix instruction have an index vector? -/
def indexed (k : MxKind) : Bool := match k with | .mmag | .mst | .mstF | .mstI => true | _ => false
/-- Does it read A and B? -/
def multiplies (k : MxKind) : Bool := match k with | .mma | .mmag | .mmaCv => true | _ => false

/-- The tiles a piece-wise instruction writes. -/
def mxTiles (x : Block) (m : MxOp) : List Nat :=
  match m.kind with
  | .mzero => (List.range (m.a + 1)).map (m.d + ·)
  | .mst | .mstF | .mstI => [m.d, m.a]
  | .mmaCv => match x.convoyOf (shapeSlot m.ga1) with
    | some cv => (List.range (piecesOf (shapeGr m.ga1) (shapeGc m.ga1) cv.members.length cv.rank).length).map (m.d + ·)
    | none => []
  | _ => [m.d]

/-- Checks 3 to 6 of R275 with the index vector as far as it is known; `gathered` marks the checks made at the read event. What
comes after the range of gathered rows in the order of R275 waits for that event with it. -/
def mxCheck (s : State) (x : Block) (m : MxOp) (gathered : Bool) : Option Trap :=
  let word := if m.kind == .mmag then m.ga1 else m.gb
  let idx := indexed m.kind
  let mul := multiplies m.kind
  let fa := s.mxFormat x m.ga
  let fb := s.mxFormat x m.gb
  let early := m.kind == .mmag && !gathered
  let aRows := (aRowNumbers x m).map (aOffset m)
  let bRows := (bRowBlocks x m).flatMap (·.2)
  let bad3 :=
    (mul && (!descBits m.ga || !descBits m.gb)) || (idx && bitsOf word.toNat 63 32 != 0) ||
    (m.kind == .mmaCv && bitsOf m.ga1.toNat 63 10 != 0) ||
    (mul && (match fa, fb with
      | some a, some b => !(pairs a b)
      | some a, none => descKind m.gb != 3 || (pairGroup a).isNone
      | none, some b => descKind m.ga != 3 || (pairGroup b).isNone
      | none, none => false))
  if bad3 then some (operandTrap 0x13 0 0)
  else
    let out4 := if idx && x.lsg < indexOff m + 128 then some (indexOff m)
      else if mul && !early then (match rowOutside x aRows with | some o => some o | none => rowOutside x bRows) else none
    match out4 with
    | some o => some (operandTrap 0x16 0 o)
    | none =>
      if early then none else
      let mis := if idx && indexOff m % 2 != 0 then some (indexOff m)
        else if mul then (match rowMisaligned m.ga aRows with | some o => some o | none => rowMisaligned m.gb bRows) else none
      match mis with
      | some o => some (operandTrap 0x12 0 o)
      | none =>
        if !mul then none
        else ((match s.tagFail x m.ga aRows with | some o => some o | none => s.tagFail x m.gb bRows)).map (operandTrap 0x13 0)

/-! ## The operand read event (R105, R274) -/

/-- A row of an operand as it stands in the local store, with the shift counts a tag records (R271). A word no copy has recorded
a count for takes a free one (log 6). -/
def State.readRow (_ : State) (x : Block) (g : Word) (off : Nat) : MxRow :=
  { bytes := x.ls.readN off 384,
    shifts := if descKind g = 3 then
      (match x.slotOf (descOff g) with
       | some (k, j) =>
         let r := vget x.rings k
         let at4 := (off - (r.base + j * r.size)) / 4
         (List.range 96).map (fun i =>
           match r.shifts.find? (fun y => y.1 == j && y.2.1 == at4 + i) with
           | some y => y.2.2
           | none => Config.freeByte (off / 4 + i))
       | none => [])
      else [] }

/-- A row of zero bytes (R274). -/
def MxRow.zero : MxRow := { bytes := List.replicate 384 0, shifts := [] }

/-- The 64 n16 entries of an index vector. -/
def indexVector (x : Block) (off : Nat) : List Nat := (List.range 64).map (fun i => leNat (x.ls.readN (off + 2 * i) 2))

/-- The index vector's bytes, where there is one. -/
def indexReads (m : MxOp) : List (Nat × Nat) := if indexed m.kind then [(indexOff m, 128)] else []

/-- The rows a read event covers. -/
def rowReads (x : Block) (m : MxOp) : List (Nat × Nat) :=
  (if multiplies m.kind then (aRowNumbers x m).map (fun q => (aOffset m q, 384)) ++
     ((bRowBlocks x m).flatMap (·.2)).map (fun o => (o, 384)) else [])

/-- POISON_DATA where a run of reads meets a poisoned byte (R397). -/
def poisonIn (x : Block) (reads : List (Nat × Nat)) : Option Trap :=
  if x.lsPoison.isEmpty then none
  else (reads.findSome? (fun r => (List.range r.2).findSome? (fun i =>
    if x.lsPoison.contains (r.1 + i) then some (r.1 + i) else none))).map (fun o => operandTrap 0x30 1 o)

/-! ## Results (R138 to R140, R273 to R278) -/

/-- Element k of a row (R118), at its shift count (R128, R129). -/
def rowElem (e : Elem) (r : MxRow) (k : Nat) : Num :=
  let w := e.width
  let byte := k * w / 8
  let code := if w = 16 then fieldAt r.bytes byte 2 else if w = 8 then (r.bytes.getD byte 0).toNat
    else (r.bytes.getD byte 0).toNat / 16 ^ (k % 2) % 16
  let sh := r.shifts.getD (byte / 4) 0
  if zeroBlock sh then .fin false 0 0 else (e.value code).scale (sInt 8 sh.toNat)

/-- The exact sum of a K group's products (R138, R139): an exact zero is +0. -/
def groupSum (ea eb : Elem) (ra rb : MxRow) (g : Nat) : Num :=
  let n := 256 / ea.width
  let prods := (List.range n).map (fun i => (rowElem ea ra (g * n + i)).mul (rowElem eb rb (g * n + i)))
  match prods.foldl (Num.add false) (.fin false 0 0) with
  | .fin _ 0 _ => .fin false 0 0
  | x => x

/-- One result element with an f32 accumulator (R138). -/
def sumF32 (ea eb : Elem) (ra rb : MxRow) (c : W32) : W32 :=
  BitVec.ofNat 32 ((List.range 12).foldl (fun acc g =>
    Fmt.f32.round 0 false 0 ((Fmt.f32.decode acc).add false (groupSum ea eb ra rb g))) c.toNat)

/-- An exact sum of an i32 accumulation, wrapped or clamped (R140). -/
def intoI32 (sat : Bool) (x : Int) : Nat := wrapInt 32 (if sat then clampInt true 32 x else x)

/-- A value rounded to an integer, to nearest with ties to even. -/
def nearestInt (x : Num) : Int :=
  match x with
  | .fin neg m e =>
    let (u, r, d) := units m e 0
    let u' : Int := ((if roundUp 0 0 neg u r d then u + 1 else u : Nat) : Int)
    if neg then -u' else u'
  | _ => 0

/-- One result element with an i32 accumulator (R140): group sums are added exactly. Under SAT the exact sum is clamped. -/
def sumI32 (ea eb : Elem) (ra rb : MxRow) (c : W32) (sat : Bool) : W32 :=
  BitVec.ofNat 32 (intoI32 sat ((List.range 12).foldl (fun (acc : Int) g => acc + nearestInt (groupSum ea eb ra rb g)) (sInt 32 c.toNat)))

/-- A product accumulated into a tile (R274). -/
def product (fa fb : Nat) (sat : Bool) (rows cols : List MxRow) (c : Tile) : Tile :=
  match mxElem fa, mxElem fb with
  | some ea, some eb =>
    let ra := rows.toArray
    let rb := cols.toArray
    let ints : Bool := match pairGroup fa with | some g => 4 ≤ g | none => false
    tileOf (fun i j =>
      let x := ra.getD i MxRow.zero
      let y := rb.getD j MxRow.zero
      if ints then sumI32 ea eb x y (tileAt c i j) sat else sumF32 ea eb x y (tileAt c i j))
  | _, _ => c

/-- The row of A of a given number. -/
def MxOp.rowOf (m : MxOp) (q : Nat) : MxRow := ((m.rows.find? (fun r => r.1 == q)).map (·.2)).getD MxRow.zero

/-- A row of a tile. -/
def tileRow (t : Tile) (i : Nat) : Vector W32 64 := vget t i

/-- One element of `mst.s` (R276): placed, or added in f32 or i32. -/
def scatterElem (k : MxKind) (sat : Bool) (old new : W32) : W32 :=
  match k with
  | .mstF => BitVec.ofNat 32 (Fmt.f32.round 0 false 0 ((Fmt.f32.decode old.toNat).add false (Fmt.f32.decode new.toNat)))
  | .mstI => BitVec.ofNat 32 (intoI32 sat (sInt 32 old.toNat + sInt 32 new.toNat))
  | _ => new

/-- The tiles of a block after `mst.s` (R276): rows in ascending source row. -/
def scatter (m : MxOp) (tiles : Vector Tile 32) : Vector Tile 32 :=
  let src := vget tiles m.a
  (m.index.zipIdx).foldl (fun ts e =>
    if e.1 = 0xFFFF then ts
    else
      let n := m.d + e.1 / 64
      let old := tileRow (vget ts n) (e.1 % 64)
      let new := Vector.ofFn (fun j : Fin 64 => scatterElem m.kind m.sat (old.get j) ((tileRow src e.2).get j))
      vset ts n (vset (vget ts n) (e.1 % 64) new)) tiles

/-- A matrix instruction's tiles after it completes (R273, R274, R276, R278). -/
def State.mxResult (s : State) (m : MxOp) : State :=
  match s.block? m.blk with
  | none => s
  | some x =>
    match m.kind with
    | .mzero => (List.range (m.a + 1)).foldl (fun st i => st.setTile m.blk (m.d + i) Tile.zero) s
    | .mst | .mstF | .mstI => s.modBlock m.blk (fun y => { y with tiles := scatter m y.tiles })
    | .mma | .mmag =>
      let rows := if m.kind == .mma then (List.range 64).map m.rowOf
        else m.index.map (fun q => if q = 0xFFFF then MxRow.zero else m.rowOf q)
      let cols := ((m.cols.find? (fun c => c.1 == 0)).map (·.2)).getD []
      s.setTile m.blk m.d (product m.aFmt m.bFmt m.sat rows cols (vget x.tiles m.d))
    | .mmaCv => match x.convoyOf (shapeSlot m.ga1) with
      | none => s
      | some cv =>
        ((piecesOf (shapeGr m.ga1) (shapeGc m.ga1) cv.members.length cv.rank).zipIdx).foldl (fun st p =>
          let rows := (List.range 64).map (fun i => m.rowOf (64 * p.1.1 + i))
          let cols := ((m.cols.find? (fun c => c.1 == p.1.2)).map (·.2)).getD []
          match st.block? m.blk with
          | some y => st.setTile m.blk (m.d + p.2) (product m.aFmt m.bFmt m.sat rows cols (vget y.tiles (m.d + p.2)))
          | none => st) s

end Sys2Proof.Machine
end

