-- ==== Sys2Proof/Machine/Matrix.lean ====
section
/-! DEFINITION. The steps of the matrix array (R45, R105, R266 to R268, R277 to R280): taking an instruction, its operand read
event, its completion, and the meeting of `mma.cv`. -/
namespace Sys2Proof.Machine
open Sys2Proof

/-- Change the matrix instruction of a block that is at a stage. -/
def State.modMx (s : State) (core : Nat) (m : MxOp) (f : MxOp → MxOp) : State :=
  s.modCore core (fun c => { c with array := c.array.map (fun y => if y == m then f y else y) })

/-- BARRIER_UNINIT for a convoy slot (R277). -/
def convoyTrap (slot : Nat) : Trap := wholeTrap 0x21 1 0 slot

/-- A member's tile checks of `mma.cv` (R272, R278), the tile it names among them. SYND [7:0] holds the low 8 bits of a q of 256
(DESIGN CHOICE, log 48). -/
def cvTiles (x : Block) (m : MxOp) : Option Trap :=
  let ts := mxTiles x m
  if 16 < ts.length then some (wholeTrap 0x08 2 0 (0x400 + ts.length % 256))
  else ((m.d :: ts).find? (fun t => !x.tileUsable t)).map tileTrap

/-- Do the members' fields, the format entries of their tags included, match those of rank 0 (R280)? -/
def cvMatch (a b : Block × MxOp) : Bool :=
  let same := fun (g h : Word) => descKind g == descKind h && descFmt g == descFmt h && descStride g == descStride h
  let tag := fun (x : Block) (g : Word) => if descKind g = 3 then x.tagAt (descOff g) else none
  a.2.ga1 == b.2.ga1 && same a.2.ga b.2.ga && same a.2.gb b.2.gb && a.2.sat == b.2.sat &&
  tag a.1 a.2.ga == tag b.1 b.2.ga && tag a.1 a.2.gb == tag b.1 b.2.gb

/-- The trap every member of a meeting takes, if any check fails (R280); a poisoned byte is met only where every check holds. -/
def cvTrap (s : State) (ms : List (Block × MxOp)) : Option Trap :=
  match ms with
  | [] => none
  | r0 :: _ =>
    if ms.any (fun m => !cvMatch r0 m) then some (wholeTrap 0x13 2 0 0)
    else
      let bad := (ms.zipIdx).findSome? (fun m =>
        (match cvTiles m.1.1 m.1.2 with | some t => some t | none => mxCheck s m.1.1 m.1.2 true).map (fun (t : Trap) => { t with sub := m.2 }))
      bad <|> ms.findSome? (fun m => poisonIn m.1 (rowReads m.1 m.2))

/-- The instruction the array takes next: block slots in turn after the one served last (R45). -/
def State.nextMx (s : State) (c : CoreSt) : Option MxOp :=
  (List.range 4).findSome? (fun i => c.array.find? (fun m => s.takeable m &&
    (match s.block? m.blk with | some x => x.slot == (c.arrayLast + 1 + i) % 4 | none => false)))

/-- A take counts towards the yields of the core's other sequencers (R167). -/
def State.countTake (s : State) (core b : Nat) : State :=
  { s with blocks := s.blocks.map (fun x => if x.core == core && x.id != b then
      { x with seq := x.seq.map (fun q => { q with yield := q.yield - 1 }) } else x) }

/-- An instruction is taken (R267): it stands after those taken before it. -/
def State.takeMx (s : State) (core : Nat) (m : MxOp) : State :=
  let s := s.meter (.seq m.blk)
  let slot := match s.block? m.blk with | some x => x.slot | none => 0
  let s := s.modCore core (fun c =>
    let rest := c.array.filter (fun (y : MxOp) => y != m)
    let taken : MxOp := { m with stage := (if m.kind == MxKind.mzero then 2 else 1) }
    { c with
      array := rest.filter (fun (y : MxOp) => y.stage != 0) ++ [taken] ++
        rest.filter (fun (y : MxOp) => y.stage == 0)
      arrayLast := slot })
  let s := s.countTake core m.blk
  if m.kind == .mzero then
    (let s := s.queueEvent (.matrixComplete core)
     match s.core? core with
     | some c => if c.array.any (fun (y : MxOp) => y.stage == 0) then s.queueEvent (.matrixTake core) else s
     | none => s)
  else { s with agenda := .matrixOperandRead core :: s.agenda }

/-- The events that bring a core's array to a met member's operand read: the read of what it has taken, then a take and a read for each
block the core may hold. -/
def memberReads (core : Nat) : List Instr :=
  .matrixOperandRead core :: (List.replicate 4 [Instr.matrixTake core, .matrixOperandRead core]).flatten

/-- The members of an `mma.cv` have met: each is taken on its own core and reads its operands before anything else happens, so that a
write by another agent waits for the read (R279). -/
def State.metAll (s : State) (members : List (Block × MxOp)) : State :=
  let s := members.foldl (fun st y => st.modMx y.1.core y.2 (fun z => { z with met := true })) s
  { s with agenda := members.flatMap (fun y => memberReads y.1.core) ++ s.agenda }

/-- MATRIX_TAKE on a free array (R45, R267, R277): it takes the next instruction. The members of an `mma.cv` that have all issued meet,
those that cannot meet, or one of which fails a check, trap. -/
def State.takeNext (s : State) (core : Nat) (c : CoreSt) : State :=
  match s.nextMx c with
  | none => s
  | some m =>
    if m.kind != .mmaCv || m.met then s.takeMx core m
    else match (s.block? m.blk).bind (fun x => (x.convoyOf (shapeSlot m.ga1)).map (fun cv => (x, cv))) with
      | none => s.takeMx core m
      | some (x, cv) =>
        let ms := s.meeting x m cv
        let here := ms.filterMap id
        if ms.any (·.isNone) then here.foldl (fun st y => st.takeTrap (.seq y.1.id) (convoyTrap (shapeSlot y.2.ga1))) s
        else match cvTrap s here with
          | some t => here.foldl (fun st y => st.takeTrap (.seq y.1.id) t) s
          | none => (s.metAll here).takeMx core { m with met := true }

/-- Is the array's next taking gated (R438)? Not that of an instruction whose `mma.cv` has met, which is read in bounded time (R279). -/
def State.takeGated (s : State) (core : Nat) (c : CoreSt) : Bool :=
  s.gates core 4 && (s.nextMx c).isSome && c.array.all (fun m => !(m.stage == 0 && m.met))

/-- MATRIX_TAKE on a core: nothing while the array holds an instruction whose operands it has not read (R268); a gated taking (R438) comes
again later. -/
def State.arrayTake (s : State) (core : Nat) : State :=
  match s.core? core with
  | none => s
  | some c =>
    if c.array.any (fun m => m.stage == 1) then s
    else if s.takeGated core c then (s.noteGate core 4 true).queueEvent (.matrixTake core)
    else ((s.noteGate core 4 false).takeNext core c).endYields core

/-- The column blocks a rank has read are multicast to every member of the meeting (R278). -/
def State.multicast (s : State) (x : Block) (m : MxOp) (cols : List (Nat × List MxRow)) : State :=
  match x.convoyOf (shapeSlot m.ga1) with
  | none => s
  | some cv =>
    (s.meeting x m cv).foldl (fun st y => match y with
      | some (b, z) =>
        (st.modMx b.core z (fun z => { z with cols := z.cols ++ cols })).queueEvent (.matrixComplete b.core)
      | none => st) s

/-- The operand read event of a taken instruction (R105, R274 to R276): the index vector, the checks that need it, then every other byte;
where a check fails no row is read, so that poison in one does not count (R266, R275). -/
def State.readMx (s : State) (core : Nat) (m : MxOp) : State :=
  match s.block? m.blk with
  | none => s
  | some x =>
    let m1 : MxOp := if indexed m.kind then { m with index := indexVector x (indexOff m) } else m
    let scatterBad := match m.kind with
      | .mst | .mstF | .mstI => (((m1.index.filter (· != 0xFFFF)).map (fun e => m.d + e / 64)).filter (fun n => !x.tileUsable n)).min?
      | _ => none
    let fail := poisonIn x (indexReads m1) <|> scatterBad.map tileTrap <|>
      (if m.kind == MxKind.mmag then mxCheck s x m1 true else none) <|> poisonIn x (rowReads x m1)
    match fail with
    | some t => (s.modCore core (fun c => { c with array := c.array.filter (fun (y : MxOp) => y != m) })).takeTrap (.seq m.blk) t
    | none =>
      let rows := if multiplies m.kind then (aRowNumbers x m1).map (fun q => (q, s.readRow x m.ga (aOffset m q))) else []
      let cols := (bRowBlocks x m1).map (fun (b : Nat × List Nat) => (b.1, b.2.map (s.readRow x m.gb)))
      let m2 : MxOp := { m1 with
        stage := 2, rows := rows, cols := if m.kind == MxKind.mmaCv then m.cols else cols
        aFmt := (s.mxFormat x m.ga).getD 0, bFmt := (s.mxFormat x m.gb).getD 0 }
      let s := s.modMx core m (fun _ => m2)
      let s := if m.kind == MxKind.mmaCv then s.multicast x m2 cols else s.queueEvent (.matrixComplete core)
      match s.core? core with
      | some c => if c.array.any (fun y => y.stage == 0) then s.queueEvent (.matrixTake core) else s
      | none => s

/-- MATRIX_OPERAND_READ on a core. -/
def State.arrayRead (s : State) (core : Nat) : State :=
  match (s.core? core).bind (fun c => c.array.find? (fun m => m.stage == 1)) with
  | some m => s.readMx core m
  | none => s

/-- Has an instruction every column block it needs (R278)? -/
def State.mxReady (s : State) (m : MxOp) : Bool :=
  m.stage == 2 && (m.kind != .mmaCv || (match s.block? m.blk with
    | some x => match x.convoyOf (shapeSlot m.ga1) with
      | some cv => (piecesOf (shapeGr m.ga1) (shapeGc m.ga1) cv.members.length cv.rank).all (fun p => m.cols.any (fun c => c.1 == p.2))
      | none => true
    | none => true))

/-- MATRIX_COMPLETE on a core (R267, R268): the earliest instruction taken completes when it can, its tiles written. -/
def State.arrayComplete (s : State) (core : Nat) : State :=
  match s.core? core with
  | none => s
  | some c => match c.array with
    | [] => s
    | m :: rest =>
      if s.mxReady m then
        let s := (s.mxResult m).modCore core (fun c => { c with array := rest })
        (if rest.any (fun y => y.stage == 2) then s.queueEvent (.matrixComplete core) else s).finishClosing m.blk
      else s

/-- A core's array goes on with what has begun there: a met instruction is taken, the taken one reads, the earliest completes. -/
def State.pumpArray (s : State) (core : Nat) : State :=
  let s := match s.core? core with
    | some c => if c.array.any (fun (m : MxOp) => m.stage == 1) then s
        else (match c.array.find? (fun (m : MxOp) => m.stage == 0 && m.met) with | some m => s.takeMx core m | none => s)
    | none => s
  (s.arrayRead core).arrayComplete core

/-- The matrix instructions of a block that have begun complete (R161, R267, R339), with the instructions of other blocks they come
after and the read events of other members they need: each round takes every array a stage on. -/
def State.drainArray (s : State) (b : Nat) : State :=
  let busy := fun (st : State) => match st.block? b with | some x => (st.pendingMx x).any MxOp.begun | none => false
  let begun := (s.cores.flatMap (·.array)).countP MxOp.begun
  (List.range (3 * begun)).foldl (fun st _ => if busy st then (st.cores.map (·.id)).foldl State.pumpArray st else st) s

end Sys2Proof.Machine
end

