-- ==== Sys2Proof/Machine/Tenant.lean ====
section
/-! DEFINITION. Ways out of a core and of a tenant: scrubbing (R347), ending launches without a record, the reset of a tenant
(R414), entry to ERROR (R421), and the interface logic of a function (R425, R428). -/
namespace Sys2Proof.Machine
open Sys2Proof

/-- A core's state after a scrub (R347): its register pool, contexts, L1, constant cache, TLB and scratchpad are zero, but for the
supervisor images of the slices it is in, which are always resident (R331; log 49); it takes no block for 8,192 cycles. Its counters
and vectors are not among what R347 lists. -/
def CoreSt.scrubbed (c : CoreSt) (now : Nat) (images : List (Nat × List W32)) : CoreSt :=
  { c with array := [], overlays := [], images := images, l1 := [], consts := [], tlb := [], copies := [], scrubEnd := now + 8192 }

/-- Does a core hold a resident block, or the resources of one (R347, R51)? A steward core's boot caravans are none (log 3). -/
def State.occupied (s : State) (core : Nat) : Bool := s.blocks.any (fun x => x.core == core && x.launch != 0 && s.holds x)

/-- The supervisor images of the slices a core is in (R331). -/
def State.sliceImages (s : State) (core : Nat) : List (Nat × List W32) :=
  match s.core? core with
  | some c => c.images.filter (fun i => match s.vf? i.1 with | some f => f.dense.any (fun d => d.2 == core) | none => false)
  | none => []

/-- No cache of a core is recorded as holding any word. -/
def State.forgetCore (s : State) (core : Nat) : State :=
  { s with dir := (s.dir.map (fun d => { d with sharers := d.sharers.filter (fun r => r.cache != core) })).filter (fun d => !d.sharers.isEmpty) }

/-- Scrub a core. Its L1 holds no tracked word either, and blocks on it that have ended are gone with their local stores. -/
def State.scrubCore (s : State) (core : Nat) : State :=
  let images := s.sliceImages core
  let s := s.forgetCore core
  let wiped := s.blocks.map (fun (x : Block) => if x.core == core && x.ended then { x with ls := [], lsPoison := [] } else x)
  let s := { s with blocks := wiped }
  s.modCore core (fun c => c.scrubbed s.clk images)

/-- A block is stopped for good: terminated without a record, with its committed copies and the matrix instructions that have begun
done, and its accesses on their way to streams and hosts given up. -/
def State.killBlock (s : State) (b : Nat) : State :=
  let s := ((s.terminate b none).drainCopies b).drainArray b
  let s := { s with streams := s.streams.filter (fun r => blkOf r.who != b) }
  (s.modBlock b (fun x => { x with cars := x.cars.map (fun c => { c with io := none }) })).finishClosing b

/-- Every block of a launch that is resident and has not ended. -/
def State.blocksOf (s : State) (launch : Nat) : List Nat :=
  (s.blocks.filter (fun x => x.launch == launch && !x.ended)).map (·.id)

/-- The memory controllers and links, which have a meter (R378; log 7): controllers from 512, links from 544. -/
def sharedMeters : List Nat := (List.range 10).map (512 + ·) ++ (List.range 26).map (544 + ·)

/-- What a launch that ends has moved through memories and links stays noted till the next energy sample (R378). -/
def State.noteMoved (s : State) (launch : Nat) : State :=
  match s.launch? launch with
  | none => s
  | some l =>
    if l.vf == stewardVf then s
    else { s with
      meters := s.meters ++ sharedMeters.map (fun u => { core := u, vf := l.vf, launch := launch, uses := Config.bytesMoved s.samples u launch }) }

/-- A launch is ended without completion or fault record (R414, R421): its blocks, saved areas, bundles and record go. -/
def State.dropLaunch (s : State) (launch : Nat) : State :=
  let s := s.noteMoved launch
  let s := s.modLaunch launch (fun l => { l with silent := true, total := 0, chunks := [], unplaced := [] })
  let s := (s.blocksOf launch).foldl State.killBlock s
  { s with
    blocks := s.blocks.filter (fun x => x.launch != launch)
    saved := s.saved.filter (fun x => x.launch != launch)
    bundles := s.bundles.filter (fun x => x.launch != launch)
    launches := s.launches.filter (fun x => x.id != launch) }

/-- The launches of a function. -/
def State.launchesOf (s : State) (vf : Nat) : List Nat := (s.launches.filter (fun l => l.vf == vf)).map (·.id)
/-- The functions of a tenant. -/
def State.vfsOf (s : State) (tenant : Nat) : List Nat := (s.vfs.filter (fun f => f.tenant == tenant && tenant != 0)).map (·.id)
/-- The cores of a function's slice. -/
def State.sliceOf (s : State) (vf : Nat) : List Nat := match s.vf? vf with | some f => f.dense.map (·.2) | none => []
/-- The frames a tenant owns (R411). -/
def State.framesOf (s : State) (tenant : Nat) : List Nat := (s.ik.owners.filter (fun o => o.2 == tenant)).map (·.1)

/-- The free ranges of discarded keys outside a range. -/
def outsideRange (l : List (Nat × Nat × Nat)) (lo hi : Nat) : List (Nat × Nat × Nat) :=
  l.flatMap (fun r => [(r.1, min r.2.1 lo, r.2.2), (max r.1 hi, r.2.1, r.2.2)].filter (fun x => x.1 < x.2.1))

/-- Every cached line of some frames is dropped without writeback. -/
def State.dropFrames (s : State) (frames : List Nat) : State :=
  let gone := fun (line : Nat) => frames.contains (line * 256 / 0x80000)
  { s with
    cores := s.cores.map (fun c => { c with l1 := c.l1.filter (fun ln => !(gone ln.1)) })
    dir := s.dir.filter (fun d => !(gone d.line)) }

/-- The steps of R414 for a tenant: launches end, cores are scrubbed, lines dropped, the key replaced, bundle tables, stream slots
and port attachments cleared. Memory under the old key then reads as free bytes. A core that holds another tenant's block is not scrubbed
(R347), and no key is drawn while a failed health test halts that (R413; log 50). -/
def State.tenantReset (s : State) (tenant : Nat) : State :=
  let fs := s.vfsOf tenant
  let s := (fs.flatMap s.launchesOf).foldl State.dropLaunch s
  let s := (fs.flatMap s.sliceOf).foldl (fun st c => if st.occupied c then st else st.scrubCore c) s
  let frames := s.framesOf tenant
  let s := s.dropFrames frames
  let gen := s.free
  let s := { s with
    free := s.free + 1
    ik := if s.ik.keyHalt then s.ik else { s.ik with drawn := s.ik.drawn + 1 }
    mem := frames.foldl (fun m f => Memory.erase m (f * 0x80000) ((f + 1) * 0x80000)) s.mem
    rekeyed := (frames.map (fun f => (f * 0x80000, (f + 1) * 0x80000, gen))) ++
      frames.foldl (fun l f => outsideRange l (f * 0x80000) ((f + 1) * 0x80000)) s.rekeyed
    poison := s.poison.filter (fun p => !(frames.contains (p.pa / 0x80000)))
    bundles := s.bundles.filter (fun u => u.tenant != tenant)
    bundleReqs := s.bundleReqs.filter (fun r => r.tenant != tenant)
    streams := s.streams.filter (fun r => r.tenant != tenant)
    ports := s.ports.map (fun (p : Port) => if p.enabled && fs.contains p.vf then Port.reset else p) }
  s.modTenant tenant (fun t => { t with graphs := [], reserved := [], keyGen := if s.ik.keyHalt then t.keyGen else t.keyGen + 1 })

/-- The effect of entry to ERROR on a function's work (R421). -/
def State.stopFunction (s : State) (vf : Nat) : State :=
  let s := (s.launchesOf vf).foldl State.dropLaunch s
  let s := (s.sliceOf vf).foldl (fun st c => if st.occupied c then st else st.scrubCore c) s
  match s.vf? vf with
  | some f => s.dropFrames (s.framesOf f.tenant)
  | none => s

/-! ## Interface logic (R424 to R428) -/

/-- A transition is over: TCOUNT grows, and IFSTATE goes to the note word as one write event (R425). The function's IDE stream lasts no
longer than it is locked or in RUN (R419; DEDUCED, log 37), so its keys go with it. -/
def State.transition (s : State) (vf state cause : Nat) : State :=
  let s := s.modVf vf (fun f => { f with
    ifstate := state, cause := cause, tcount := f.tcount + 1, ideKeyed := f.ideKeyed && (state == 1 || state == 2) })
  match s.vf? vf with
  | some f => if f.ifnote == 0 then s else s.put none (.glob f.ifnote.toNat) (leBytes 8 f.ifWord) none
  | none => s

/-- A BAR of the functions, from the physical function's pair of registers: the part of function vf (chapter 21). -/
def State.vfBarAt (s : State) (pair vf size : Nat) : Nat :=
  let lo := (vget s.pf.vfBar (2 * pair)).toNat
  (vget s.pf.vfBar (2 * pair + 1)).toNat * 2 ^ 32 + lo / 16 * 16 + vf * size

/-- A range of the report (R428). -/
def reportRange (addr pages attr id : Nat) : List Byte := leBytes 8 (addr / 4096) ++ leBytes 4 pages ++ leBytes 2 attr ++ leBytes 2 id

/-- The report LOCK writes (R423, R428). -/
def State.report (s : State) (f : Vf) : List Byte :=
  let bar2 := s.vfBarAt 1 f.id 0x4000
  leBytes 2 2 ++ leBytes 2 0 ++ leBytes 2 f.msgCtl.toNat ++ leBytes 2 0 ++ leBytes 4 0 ++ leBytes 4 3 ++
  reportRange (s.vfBarAt 0 f.id 0x100000) 256 0 0 ++ reportRange bar2 1 1 2 ++ reportRange (bar2 + 0x2000) 1 2 2 ++
  leBytes 4 32 ++ leBytes 4 (s.vfPolicy f.id 0 4) ++ leBytes 1 f.tenant ++ leBytes 1 f.id ++ leBytes 2 0 ++
  leBytes 4 f.sliceshape.toNat ++ leBytes 4 f.qcount.toNat ++ (f.suphash ++ List.replicate 16 0).take 16

/-- MAPPED cleared for every queue of a function (R365, R420). -/
def State.unmapAll (s : State) (vf : Nat) : State :=
  s.modVf vf (fun f => { f with queues := f.queues.map (fun q => { q with stat := q.stat &&& ~~~1 }) })

/-- LOCK (R425). -/
def State.ifLock (s : State) (vf : Nat) : State :=
  match s.vf? vf with
  | none => s
  | some f =>
    let policy := match s.tenant? f.tenant with | some t => t.policy.isSome | none => false
    let own := fun (a : Nat) => inTiers a && s.ownerOf a == 0
    if f.ifstate != 0 || !policy || f.sliceshape == 0 then s.ifResult vf 1
    else if f.ifrep.toNat % 64 != 0 || !own f.ifrep.toNat ||
        !(f.ifnote == 0 || (f.ifnote.toNat % 8 == 0 && own f.ifnote.toNat)) then s.ifResult vf 2
    else
      let s := (s.unmapAll vf).put none (.glob f.ifrep.toNat) (s.report f) none
      (s.transition vf 1 f.cause).ifResult vf 0

/-- START (R425). -/
def State.ifStart (s : State) (vf : Nat) : State :=
  match s.vf? vf with
  | none => s
  | some f => if f.ifstate == 1 && f.ideKeyed then (s.transition vf 2 f.cause).ifResult vf 0 else s.ifResult vf 1

/-- STOP (R425): the steps of R414 for the function's tenant, and the registers unfrozen. -/
def State.ifStop (s : State) (vf : Nat) : State :=
  match s.vf? vf with
  | none => s
  | some f => if f.ifstate == 0 then s.ifResult vf 1 else ((s.tenantReset f.tenant).transition vf 0 f.cause).ifResult vf 0

/-- An IFCMD write (R424). -/
def State.ifCommand (s : State) (vf cmd : Nat) : State :=
  match cmd with
  | 1 => s.ifLock vf
  | 2 => s.ifStart vf
  | 3 => s.ifStop vf
  | _ => s.ifResult vf 3

/-- Entry to ERROR with a cause, from CONFIG_LOCKED or RUN (R421, R425). -/
def State.ifError (s : State) (vf cause : Nat) (lkaddr : W32) : State :=
  match s.vf? vf with
  | none => s
  | some f =>
    if f.ifstate == 1 || f.ifstate == 2 then
      let s := (s.stopFunction vf).modVf vf (fun f => { f with iflkaddr := if cause = 1 then lkaddr else f.iflkaddr })
      s.transition vf 3 cause
    else s

/-- A write to an MMIO address: registers change, and a write of IFCMD acts (R230, R424). -/
def State.mmioWrite (s : State) (pa : Nat) (bs : List Byte) : State :=
  let s := match ifcmdOf pa bs with | some (vf, cmd) => s.ifCommand vf cmd | none => s
  s.mmioPatch pa bs

end Sys2Proof.Machine
end

