-- ==== Sys2Proof/Machine/Access.lean ====
section
/-! DEFINITION. Memory accesses of caravans: the checks of R93 on a lane's address, the bytes a load sees, held stores, and the
paths of MMIO, streamed and formatted pages (R62 to R96, R221 to R230, R309, R316, R397 to R402). -/
namespace Sys2Proof.Machine
open Sys2Proof

/-- After a speculative load of a segment: a read mark in the open epoch (R392), and what the load brings. -/
def State.afterRead (s : State) (w : Who) (bypass : Bool) (g : Seg) : State :=
  let s := if marked g then (match w with
    | .car b n => s.modEpoch b n (fun e => { e with marks := addAll (wordsFrom g.loc g.len) e.marks })
    | .seq _ => s) else s
  s.cacheRead w bypass g

/-- A store of a segment is held until its epoch commits (R74, R103). -/
def State.holdStore (s : State) (w : Who) (g : Seg) (bs : List Byte) : State :=
  let core := s.coreOf w
  let second := match g.leaf with | some l => l.secondOf g.va | none => none
  let tracked := match g.leaf with | some l => l.tracked | none => true
  let s := s.hold w (.store g.loc bs second tracked)
  let s := s.request core g true
  match g.leaf with
  | some _ => let (vf, proc) := s.spaceOf w; s.fillTlb core vf proc g.va
  | none => s

/-- The speculative local-store chunks a caravan holds (R389). -/
def heldChunks (held : List Held) : List Loc :=
  held.foldl (fun acc h => match h with
    | .store (.ls b o) bs _ _ => addAll ((List.range bs.length).map (fun i => Loc.chunk (.ls b (o + i)))) acc
    | _ => acc) []

/-! ## Streamed accesses (R83, R109) -/

/-- The io record of an agent. -/
def State.ioOf (s : State) (w : Who) : Option IoWait :=
  match w with
  | .car b n => (s.car? b n).bind (·.io)
  | .seq _ => none
/-- Set the io record of an agent. -/
def State.setIo (s : State) (w : Who) (x : Option IoWait) : State :=
  match w with
  | .car b n => s.modCar b n (fun c => { c with io := x })
  | .seq _ => s

/-- Hand an access with streamed bytes, whole and checked, to its streams (R109): `store` gives each lane's bytes. -/
def State.sendStream (s : State) (w : Who) (d : Dest) (whole : Bool) (lanes : List (Nat × List Seg)) (store : Option (List (Nat × List Byte)))
    (decode bypass : Bool) : State :=
  let s := s.setIo w (some { got := [], pending := none, dest := d })
  let r : StreamReq := { id := s.nextId, who := w, whole := whole, tenant := s.tenantOfWho w, lanes := lanes, store := store,
                         decode := decode, bypass := bypass, inc := s.incarnation (s.coreOf w) }
  ({ s with streams := s.streams ++ [r], nextId := s.nextId + 1 } : State).queueEvent (.streamAccess r.id)

/-! ## Loads and stores (R225 to R230) -/

/-- Is a destination a uniform register? -/
def Dest.whole : Dest → Bool | .u _ => true | _ => false

/-- Write the lanes' values to a destination. -/
def State.writeDest (s : State) (w : Who) (d : Dest) (vals : List (Nat × Nat)) : State :=
  match d with
  | .u r => s.uwr w r (BitVec.ofNat 64 ((vals.head?.map (·.2)).getD 0))
  | .v r mask =>
    let val := vtab fun t => BitVec.ofNat 64 (((vals.find? (fun x => x.1 == t)).map (·.2)).getD 0)
    match w with
    | .car b n => s.modCar b n (fun c => { c with regs := c.regs.wrV r mask val })
    | .seq _ => s
  | .none => s

/-- The values a performed access gives (R226, R233, R234). -/
def IoWait.values (io : IoWait) : List (Nat × Nat) :=
  match io.sums with
  | none => io.got.map (fun x => (x.1, x.2.toNat))
  | some (bytes, xs) => xs.map (fun x => (x.1, (((io.got.head?.map (fun y => y.2.toNat)).getD 0) + x.2) % 2 ^ (8 * bytes)))

/-- A performed access writes its values, and its record goes. -/
def State.writeIo (s : State) (w : Who) (io : IoWait) : State := (s.setIo w none).writeDest w io.dest io.values

/-- A lane's value where no stream serves it: the formatted pair, or its bytes. -/
def State.laneValue (s : State) (w : Who) (decode : Bool) (segs : List Seg) : Nat :=
  match segs with
  | [g] => match g.leaf with
    | some f => if f.fmt != 0 && decode then s.seeFormatted w g f else s.seeLane w segs
    | none => s.seeLane w segs
  | _ => s.seeLane w segs

/-- The segments whose bytes a read takes: with a formatted one its shift count's, and not the bytes of an all-zero block (R81). -/
def State.served (s : State) (w : Who) (decode : Bool) (segs : List Seg) : List Seg :=
  segs.flatMap (fun g => if decode && (match g.leaf with | some f => f.fmt != 0 | none => false) then
    s.scaleSeg w g ++ (if s.unfetched w g then [] else [g]) else [g])

/-- Those of them that no stream serves. -/
def State.fetched (s : State) (w : Who) (decode : Bool) (segs : List Seg) : List Seg := (s.served w decode segs).filter (fun g => !g.streamed)

/-- A load (R226): checks, then each lane's read, then the destination. A load with streamed bytes is handed over whole, and writes what it
has got once it has been performed. -/
def loadAt (want : Want) (lanes : List (Nat × Nat)) (d : Dest) (bypass : Bool) (w : Who) (s : State) : Res :=
  match s.ioOf w with
  | some io => if s.streams.any (fun r => r.who == w) then .wait (.stream 0) s
      else .ok (s.writeIo w io) none true
  | none =>
    let s := s.afterBinds w
    let (bad, segs) := s.checkLanes w want lanes d.whole
    match bad with
    | some t => .trap t
    | none =>
      let lines := segLines (segs.flatMap (fun l => s.fetched w want.decode l.2))
      let slow := anyMmio segs || anyStream segs || s.escorted w || s.crowded (s.coreOf w) lines
      let s := if slow then s.settleWho w else s
      match s.reachTrap w (segs.map (fun l => (l.1, s.fetched w want.decode l.2))) true d.whole (s.hides w) with
      | some t => .trap t
      | none =>
        if anyStream segs then .wait (.stream 0) (s.sendStream w d d.whole segs none want.decode bypass)
        else
          let vals := segs.map (fun l => (l.1, s.laneValue w want.decode l.2))
          let s := segs.foldl (fun st l => (st.fetched w want.decode l.2).foldl (fun st g => st.afterRead w bypass g) st) s
          .ok (s.writeDest w d vals) none slow

/-- A store (R226): checks, then each lane's write in ascending order, held until the epoch commits but for MMIO. A store with streamed
bytes is handed over whole. -/
def storeAt (want : Want) (lanes : List (Nat × Nat)) (data : Nat → Nat) (whole : Bool) (w : Who) (s : State) : Res :=
  match s.ioOf w with
  | some io => if s.streams.any (fun r => r.who == w) then .wait (.stream 0) s else .ok (s.writeIo w io) none true
  | none =>
    let s := s.afterBinds w
    let (bad, segs) := s.checkLanes w want lanes whole
    match bad with
    | some t => .trap t
    | none =>
      match s.reachTrap w segs false whole (fun _ => false) with
      | some t => .trap t
      | none =>
        let bytes := fun (t : Nat) => leBytes want.size (data t)
        let lines := segLines (segs.flatMap (·.2))
        let slow := anyMmio segs || anyStream segs || s.escorted w
        let more := heldChunks (segs.flatMap (fun l => l.2.map (fun g => Held.store g.loc (List.replicate g.len 0) none true)))
        let full := 64 < (addAll more (heldChunks (s.heldOf w))).length || s.crowded (s.coreOf w) lines
        let s := if slow || full then s.settleWho w else s
        if anyStream segs then
          .wait (.stream 0) (s.sendStream w .none whole segs (some (segs.map (fun l => (l.1, bytes l.1)))) false false)
        else
          let s := segs.foldl (fun st l => l.2.foldl (fun st g =>
            let bs := ((bytes l.1).drop g.off).take g.len
            match g.loc with
            | .glob pa => if kindOf pa == .mmio then st.mmioWrite pa bs else st.holdStore w g bs
            | .ls _ _ => st.holdStore w g bs) st) s
          .ok (s.evictFor (s.coreOf w) lines) none slow

end Sys2Proof.Machine
end

