-- ==== Sys2Proof/Machine/LoadStore.lean ====
section
/-! DEFINITION. Loads and stores (R221 to R230): addresses of lanes, the constant cache (R70, R71), and the twelve rows. -/
namespace Sys2Proof.Machine
open Sys2Proof

/-- v register r of an agent. -/
def State.vreg (s : State) (w : Who) (r : Nat) : VReg :=
  match w with
  | .car b n => (match s.car? b n with | some c => vget c.regs.v r | none => VReg.zero)
  | .seq _ => VReg.zero

/-- Lane t of v register r of an agent. -/
def State.vlane (s : State) (w : Who) (r t : Nat) : Word := vget (s.vreg w r) t

/-- The threads for which a per-thread instruction of an agent executes (R153). -/
def State.activeMask (s : State) (w : Who) (pr : Nat) (hs : List W32) : W32 :=
  match w with
  | .car b n => (match s.car? b n with | some c => c.active pr (hintNegp hs) | none => 0)
  | .seq _ => 0

/-- Lane addresses of a register form (R225). -/
def State.regAddrs (s : State) (w : Who) (base idx : Nat) (mask : W32) : List (Nat × Nat) :=
  (lanesOf mask).map (fun t => (t, (s.urd w base + s.vlane w idx t).toNat))

/-- The address of element V + t of an offset form (R225). -/
def State.offAddr (s : State) (w : Who) (hs : List W32) (base idx size t : Nat) : Nat :=
  (s.urd w base + BitVec.ofInt 64 ((offsetValue hs idx + t) * size)).toNat

/-- Lane addresses of an offset form (R225). -/
def State.offAddrs (s : State) (w : Who) (hs : List W32) (base idx size : Nat) (mask : W32) : List (Nat × Nat) :=
  (lanesOf mask).map (fun t => (t, s.offAddr w hs base idx size t))

/-- Common fields of a load or store (R222 to R225). -/
def opM (word : W32) (f : FmtR) (perThread imm : Bool) (dst src : List Reg) : Op :=
  { word := word, st := f.st.toNat, pr := f.pr.toNat, perThread := perThread, dst := dst, src := src, imm := imm, cp := true }

/-- Access size of a size field. -/
def memBytes (f : FmtR) : Nat := 2 ^ f.sz.toNat

/-- A vector load in a register form (R225, R226). -/
def loadReg (word : W32) (f : FmtR) (want : Want) : State → Out :=
  issue (opM word f true false [.v f.d.toNat] [.u f.a.toNat, .v f.b.toNat]) fun w hs s =>
    let m := s.activeMask w f.pr.toNat hs
    loadAt want (s.regAddrs w f.a.toNat f.b.toNat m) (.v f.d.toNat m) (hintCp hs == 2) w s

/-- A vector load in an offset form. -/
def loadOff (word : W32) (f : FmtR) (want : Want) : State → Out :=
  issue (opM word f true true [.v f.d.toNat] [.u f.a.toNat]) fun w hs s =>
    let m := s.activeMask w f.pr.toNat hs
    loadAt want (s.offAddrs w hs f.a.toNat f.b.toNat (memBytes f) m) (.v f.d.toNat m) (hintCp hs == 2) w s

/-- A vector store in a register form. -/
def storeReg (word : W32) (f : FmtR) (want : Want) : State → Out :=
  issue (opM word f true false [] [.v f.d.toNat, .u f.a.toNat, .v f.b.toNat]) fun w hs s =>
    let m := s.activeMask w f.pr.toNat hs
    storeAt want (s.regAddrs w f.a.toNat f.b.toNat m) (fun t => (s.vlane w f.d.toNat t).toNat) false w s

/-- A vector store in an offset form. -/
def storeOff (word : W32) (f : FmtR) (want : Want) : State → Out :=
  issue (opM word f true true [] [.v f.d.toNat, .u f.a.toNat]) fun w hs s =>
    let m := s.activeMask w f.pr.toNat hs
    storeAt want (s.offAddrs w hs f.a.toNat f.b.toNat (memBytes f) m) (fun t => (s.vlane w f.d.toNat t).toNat) false w s

/-- The byte a core's constant cache gives a launch (R70, R71): its line's, else memory's. -/
def State.constByte (s : State) (core launch pa : Nat) : Byte :=
  match (s.core? core).bind (fun c => c.consts.find? (fun x => x.1 == launch && x.2.1 == pa / 256)) with
  | some x => x.2.2.getD (pa % 256) 0
  | none => s.memByte pa

/-- A line kept in the constant cache: 256 lines, the oldest making room (R70). -/
def State.keepConst (s : State) (core launch line : Nat) : State :=
  let bytes := s.lineBytes line
  s.modCore core (fun c => if c.consts.any (fun x => x.1 == launch && x.2.1 == line) then c
    else { c with consts := ((launch, line, bytes) :: c.consts).take 256 })

/-- A segment's bytes through the constant cache. -/
def State.constSeg (s : State) (w : Who) (launch : Nat) (g : Seg) : List Byte :=
  match g.loc with
  | .glob pa => if kindOf pa == .mmio then s.seeSeg w g
      else (List.range g.len).map (fun i => s.constByte (s.coreOf w) launch (pa + i))
  | .ls _ _ => s.seeSeg w g

/-- The lines of a segment kept, but for registers and host memory, of which no cache of the package holds a line (R436), and lines of a
bundle entered on another die (R89). -/
def State.keepConstSeg (s : State) (w : Who) (launch : Nat) (g : Seg) : State :=
  match g.loc with
  | .glob pa => if kindOf pa == .mmio || kindOf pa == .host then s
      else ([pa / 256, (pa + g.len - 1) / 256].eraseDups).foldl (fun st l =>
          if st.mayHold (s.coreOf w) l then st.keepConst (s.coreOf w) launch l else st) s
  | .ls _ _ => s

/-- A constant load (R229): the checks, then each lane's bytes through the constant cache, outside the single order. -/
def constAt (size : Nat) (lanes : List (Nat × Nat)) (d : Dest) (w : Who) (s : State) : Res :=
  let s := s.afterBinds w
  let (bad, segs) := s.checkLanes w { read := true, const := true, size := size } lanes d.whole
  match bad with
  | some t => .trap t
  | none =>
    match s.reachTrap w segs true d.whole (fun _ => false) with
    | some t => .trap t
    | none =>
      let slow := anyMmio segs
      let s := if slow then s.settleWho w else s
      let launch := match s.launchOf w with | some l => l.id | none => 0
      let vals := segs.map (fun l => (l.1, leNat (l.2.flatMap (s.constSeg w launch))))
      let s := segs.foldl (fun st l => l.2.foldl (fun st g => st.keepConstSeg w launch g) st) s
      .ok (s.writeDest w d vals) none slow

/-- LD (R226): Per-thread load with a register offset. -/
def execLd (f : FmtR) (s : State) : Out :=
  loadReg (0x90000000 ||| encodeFmtR f) f { read := true, decode := true, size := (memBytes f) } s

/-- LD_OFFSET (R226): Dense per-thread load at an immediate element offset. -/
def execLdOffset (f : FmtR) (s : State) : Out :=
  loadOff (0x92000000 ||| encodeFmtR f) f { read := true, decode := true, size := (memBytes f) } s

/-- ST (R226): Per-thread store with a register offset. -/
def execSt (f : FmtR) (s : State) : Out :=
  storeReg (0x94000000 ||| encodeFmtR f) f { write := true, size := (memBytes f) } s

/-- ST_OFFSET (R226): Dense per-thread store at an immediate element offset. -/
def execStOffset (f : FmtR) (s : State) : Out :=
  storeOff (0x96000000 ||| encodeFmtR f) f { write := true, size := (memBytes f) } s

/-- LDU (R226): Uniform load into an s register. -/
def execLdu (f : FmtR) (s : State) : Out :=
  issue (opM (0x98000000 ||| encodeFmtR f) f false true [.u f.d.toNat] [.u f.a.toNat]) (fun w hs s =>
    loadAt { read := true, decode := true, size := (memBytes f) } [(0, s.offAddr w hs f.a.toNat f.b.toNat (memBytes f) 0)] (.u f.d.toNat) (hintCp hs == 2) w s) s

/-- STU (R226): Uniform store from an s register. -/
def execStu (f : FmtR) (s : State) : Out :=
  issue (opM (0x9A000000 ||| encodeFmtR f) f false true [] [.u f.d.toNat, .u f.a.toNat]) (fun w hs s =>
    storeAt { write := true, size := (memBytes f) } [(0, s.offAddr w hs f.a.toNat f.b.toNat (memBytes f) 0)] (fun _ => (s.urd w f.d.toNat).toNat) true w s) s

/-- LDL (R228): Own local-store load with a register offset. -/
def execLdl (f : FmtR) (s : State) : Out :=
  loadReg (0x9C000000 ||| encodeFmtR f) f { read := true, own := true, size := (memBytes f) } s

/-- LDL_OFFSET (R228): Dense own local-store load. -/
def execLdlOffset (f : FmtR) (s : State) : Out :=
  loadOff (0x9E000000 ||| encodeFmtR f) f { read := true, own := true, size := (memBytes f) } s

/-- STL (R228): Own local-store store with a register offset. -/
def execStl (f : FmtR) (s : State) : Out :=
  storeReg (0xA0000000 ||| encodeFmtR f) f { write := true, own := true, size := (memBytes f) } s

/-- STL_OFFSET (R228): Dense own local-store store. -/
def execStlOffset (f : FmtR) (s : State) : Out :=
  storeOff (0xA2000000 ||| encodeFmtR f) f { write := true, own := true, size := (memBytes f) } s

/-- LDC (R229): Per-thread constant-segment load through the constant cache. -/
def execLdc (f : FmtR) (s : State) : Out :=
  issue (opM (0xA4000000 ||| encodeFmtR f) f true false [.v f.d.toNat] [.u f.a.toNat, .v f.b.toNat]) (fun w hs s =>
    let m := s.activeMask w f.pr.toNat hs
    constAt (memBytes f) (s.regAddrs w f.a.toNat f.b.toNat m) (.v f.d.toNat m) w s) s

/-- LDC_U (R229): Uniform constant-segment load. -/
def execLdcU (f : FmtR) (s : State) : Out :=
  issue (opM (0xA6000000 ||| encodeFmtR f) f false true [.u f.d.toNat] [.u f.a.toNat]) (fun w hs s =>
    constAt (memBytes f) [(0, s.offAddr w hs f.a.toNat f.b.toNat (memBytes f) 0)] (.u f.d.toNat) w s) s

end Sys2Proof.Machine
end

