-- ==== Sys2Proof/Machine/Operands.lean ====
section
/-! DEFINITION. Operand forms: sub-elements of a register (R30, R118, R151, R181), the integer operations on one sub-element
(R186, R187, R192), and the shapes in which instructions name their registers. -/
namespace Sys2Proof.Machine
open Sys2Proof

/-- Sub-element width of a size field (R151, R181). -/
def widthOf (sz : Nat) : Nat := 8 * 2 ^ sz

/-- Sub-element k of width w of a register's 64 bits (R118). -/
def elem (w : Nat) (x : Word) (k : Nat) : Nat := x.toNat / 2 ^ (w * k) % 2 ^ w

/-- The 64 bits whose sub-element k of width w is f k. -/
def ofElems (w : Nat) (f : Nat → Nat) : Word :=
  BitVec.ofNat 64 ((List.range (64 / w)).foldl (fun acc k => acc + f k % 2 ^ w * 2 ^ (w * k)) 0)

/-- The integer operations (R186, R187). -/
inductive IOp where
  | add | sub | mul | mulhI | mulhN | mad | sad | minI | minN | maxI | maxN | and | or | xor | shl | shrN | shrI | rotl | bfx | bfi
deriving DecidableEq, Repr

/-- `bfx` (R187): the field of a that b describes, sign-extended where b[16] asks. -/
def bfx (w a b : Nat) : Nat :=
  let p := b % 256
  let l := min (b / 256 % 256) w
  let f := (if w ≤ p then 0 else a / 2 ^ p) % 2 ^ l
  if b / 65536 % 2 = 1 ∧ 0 < l ∧ f / 2 ^ (l - 1) % 2 = 1 then f + 2 ^ w - 2 ^ l else f

/-- `bfi` (R187): the low bits of a put into d where b describes. -/
def bfi (w a b d : Nat) : Nat :=
  let p := b % 256
  let l := min (b / 256 % 256) w
  let m := if w ≤ p then 0 else (2 ^ l - 1) * 2 ^ p % 2 ^ w
  (d &&& (2 ^ w - 1 - m)) ||| (a * 2 ^ p % 2 ^ w &&& m)

/-- One integer operation on w-bit values (R186, R187). -/
def iop (op : IOp) (w a b d : Nat) : Nat :=
  match op with
  | .add => (a + b) % 2 ^ w
  | .sub => (a + (2 ^ w - b)) % 2 ^ w
  | .mul => a * b % 2 ^ w
  | .mulhI => wrapInt w (sInt w a * sInt w b / 2 ^ w)
  | .mulhN => a * b / 2 ^ w
  | .mad => (a * b + d) % 2 ^ w
  | .sad => (d + (if a < b then b - a else a - b)) % 2 ^ w
  | .minI => if sInt w a ≤ sInt w b then a else b
  | .minN => if a ≤ b then a else b
  | .maxI => if sInt w b ≤ sInt w a then a else b
  | .maxN => if b ≤ a then a else b
  | .and => a &&& b
  | .or => a ||| b
  | .xor => a ^^^ b
  | .shl => if w ≤ b then 0 else a * 2 ^ b % 2 ^ w
  | .shrN => if w ≤ b then 0 else a / 2 ^ b
  | .shrI => wrapInt w (sInt w a / 2 ^ min b (w - 1))
  | .rotl => let r := b % w; (a * 2 ^ r % 2 ^ w) ||| (a / 2 ^ (w - r))
  | .bfx => bfx w a b
  | .bfi => bfi w a b d

/-- An integer operation on every sub-element of a register (R181). -/
def iopWord (op : IOp) (w : Nat) (a b d : Word) : Word := ofElems w (fun k => iop op w (elem w a k) (elem w b k) (elem w d k))

/-- The unary operations on one sub-element (R191). -/
inductive UOp where
  | mov | not | neg | abs | popc | clz | ctz | brev
deriving DecidableEq, Repr

/-- Bit j of a number. -/
def natBit (a j : Nat) : Bool := a / 2 ^ j % 2 == 1

/-- One unary operation on a w-bit value (R191). -/
def uop (op : UOp) (w a : Nat) : Nat :=
  match op with
  | .mov => a
  | .not => 2 ^ w - 1 - a
  | .neg => (2 ^ w - a) % 2 ^ w
  | .abs => (sInt w a).natAbs % 2 ^ w
  | .popc => (List.range w).countP (natBit a)
  | .clz => ((List.range w).find? (fun j => natBit a (w - 1 - j))).getD w
  | .ctz => ((List.range w).find? (natBit a)).getD w
  | .brev => (List.range w).foldl (fun acc j => if natBit a j then acc + 2 ^ (w - 1 - j) else acc) 0

/-- A unary operation on every sub-element. -/
def uopWord (op : UOp) (w : Nat) (a : Word) : Word := ofElems w (fun k => uop op w (elem w a k))

/-- Pack (R192): every sub-element of a clamped to half its width, into one half of d. -/
def packHalf (signed high : Bool) (w : Nat) (a d : Word) : Word :=
  let h := w / 2
  let half := (List.range (64 / w)).foldl (fun acc k =>
    let x : Int := if signed then sInt w (elem w a k) else (elem w a k : Int)
    acc + wrapInt h (clampInt signed h x) * 2 ^ (h * k)) 0
  if high then BitVec.ofNat 64 (d.toNat % 2 ^ 32 + half * 2 ^ 32) else BitVec.ofNat 64 (d.toNat / 2 ^ 32 * 2 ^ 32 + half)

/-- Unpack (R192): the half-width values of one half of a widened. -/
def unpackHalf (signed high : Bool) (w : Nat) (a : Word) : Word :=
  let h := w / 2
  let half := if high then a.toNat / 2 ^ 32 else a.toNat % 2 ^ 32
  ofElems w (fun k =>
    let x := half / 2 ^ (h * k) % 2 ^ h
    if signed then wrapInt w (sInt h x) else x)

/-! ## Shapes -/

/-- Does a group of the current agent hold MOD NEGP? -/
def State.negp (s : State) : Bool := hintNegp (s.hintsOf s.cur)

/-- A per-thread instruction on v registers: d from lane values of a, b and d itself (R153, R181). -/
def vecOp (o : Op) (d a b : Nat) (f : Word → Word → Word → Word) : State → Out :=
  issue o (regEffect fun c hs x => x.wrV d (c.active o.pr (hintNegp hs))
    (vtab fun t => f (vget (vget x.v a) t) (vget (vget x.v b) t) (vget (vget x.v d) t)))

/-- A per-thread instruction that writes a predicate from lane 0 values (R188, R201). -/
def cmpOp (o : Op) (q : Nat) (f : CRegs → Nat → Bool) : State → Out :=
  issue o (regEffect fun c hs x =>
    let m := c.active o.pr (hintNegp hs)
    x.wrP q (maskOf fun t => if bitAt m t then f x t else bitAt (x.rdP q) t))

/-- A once-only instruction on uniform registers: d from what it reads (R31, R154). -/
def uniOp (o : Op) (d : Nat) (f : (Nat → Word) → List W32 → Word) : State → Out :=
  issue o fun w hs s => .ok (s.uwr w d (f (s.urd w) hs)) none false

/-- A once-only instruction that writes a condition (R196). -/
def condOp (o : Op) (k : Nat) (f : State → Who → List W32 → Bool) : State → Out :=
  issue o fun w hs s => .ok (s.cwr w k (f s w hs)) none false

/-- Common fields of an instruction that executes per thread, of fixed latency. -/
def opV (word : W32) (st : BitVec 2) (pr : BitVec 3) (ok : Bool) (dst src : List Reg) : Op :=
  { word := word, st := st.toNat, pr := pr.toNat, perThread := true, ok := ok, dst := dst, src := src, fixed := true }

/-- Common fields of an instruction that executes once, of fixed latency, open to the sequencer. -/
def opU (word : W32) (st : BitVec 2) (pr : BitVec 3) (ok : Bool) (dst src : List Reg) : Op :=
  { word := word, st := st.toNat, pr := pr.toNat, ok := ok, dst := dst, src := src, fixed := true, seq := true }

end Sys2Proof.Machine
end

