-- ==== Sys2Proof/Machine/Atomic.lean ====
section
/-! DEFINITION. Atomics (R92, R94, R95, R100, R231 to R234, R298, R300). -/
namespace Sys2Proof.Machine
open Sys2Proof

/-- The value an atomic writes (R232): its operation b6, w-bit old value, operand and swap value; none where nothing is written. -/
def amoNew (op w old d swap : Nat) : Option Nat :=
  match op with
  | 0 => some (iop .add w old d 0)
  | 1 => some (iop .minI w old d 0)
  | 2 => some (iop .minN w old d 0)
  | 3 => some (iop .maxI w old d 0)
  | 4 => some (iop .maxN w old d 0)
  | 5 => some (iop .and w old d 0)
  | 6 => some (iop .or w old d 0)
  | 7 => some (iop .xor w old d 0)
  | 8 => some d
  | _ => if old = d then some swap else none

/-- An atomic write at a place: at the home of a global word no other cache keeps the word (R92, R387). -/
def State.putAtomic (s : State) (w : Who) (g : Seg) (bs : List Byte) : State :=
  let s := match g.loc with | .glob pa => s.dropSharers pa bs.length none | .ls _ _ => s
  let second := match g.leaf with | some l => l.secondOf g.va | none => none
  s.put (some w) g.loc bs second

/-- One step of an atomic at its target (R100, R232): the old value, and the state after. -/
def State.amoStep (s : State) (w : Who) (op bytes : Nat) (g : Seg) (d swap : Nat) : Nat × State :=
  let old := leNat (s.peekN g.loc bytes)
  match amoNew op (8 * bytes) old (d % 2 ^ (8 * bytes)) (swap % 2 ^ (8 * bytes)) with
  | some x => (old, s.putAtomic w g (leBytes bytes x))
  | none => (old, s)

/-- Is a segment host memory? -/
def Seg.host (g : Seg) : Bool := match g.loc with | .glob pa => kindOf pa == .host | .ls _ _ => false

/-- Lanes of an atomic performed in ascending order (R233): what each gets. -/
def amoLanes (w : Who) (op bytes : Nat) (lanes : List AmoLane) (s : State) : List (Nat × Word) × State :=
  lanes.foldl (fun (acc : List (Nat × Word) × State) x =>
    let (old, s) := acc.2.amoStep w op bytes x.seg x.operand x.swap
    (acc.1 ++ [(x.lane, BitVec.ofNat 64 old)], s)) ([], s)

/-- The lanes of an atomic performed at once (R99, R233), or, where one of them lies at the host, handed to it, to be performed once the
host has answered for every such lane (R95, R298; log 52). -/
def amoPerform (op bytes : Nat) (report : Option W32) (lanes : List AmoLane) (d : Dest) (sums : Option (Nat × List (Nat × Nat))) (w : Who)
    (s : State) : Res :=
  if lanes.any (fun x => x.seg.host) then
    .wait .hostAtomic (s.setIo w (some { got := [], pending := some { op := op, bytes := bytes, report := report, lanes := lanes, done := 0 },
                                         dest := d, sums := sums }))
  else
    let (got, s) := amoLanes w op bytes lanes s
    .ok (s.writeIo w { got := got, pending := none, dest := d, sums := sums }) none true

/-- What stops an atomic after its checks: it reads, and writes at both homes of a dual-home page (R362, R397, R398, R402). -/
def State.amoReach (s : State) (w : Who) (segs : List (Nat × List Seg)) (whole : Bool) : Option Trap :=
  s.reachTrap w segs false whole (fun _ => false) <|> s.reachTrap w segs true whole (fun _ => false)

/-- An atomic that has been handed to the host goes on once it has been performed; any other is checked and then non-speculative (R93,
R233). -/
def amoCheck (op bytes : Nat) (lanes : List (Nat × Nat)) (whole : Bool) (w : Who) (act : List (Nat × List Seg) → State → Res)
    (s : State) : Res :=
  match s.ioOf w with
  | some io => if io.pending.isSome then .wait .hostAtomic s else .ok (s.writeIo w io) none true
  | none =>
    let s := s.afterBinds w
    let (bad, segs) := s.checkLanes w { read := true, write := true, atomic := some op, size := bytes } lanes whole
    match bad with
    | some t => .trap t
    | none =>
      let s := s.settleWho w
      match s.amoReach w segs whole with
      | some t => .trap t
      | none => act segs s

/-- An atomic (R232, R233): each lane's step in ascending order, then the old values in the destination. -/
def amoAt (op bytes : Nat) (lanes : List (Nat × Nat)) (data : Nat → Nat × Nat) (d : Dest) (w : Who) (s : State) : Res :=
  amoCheck op bytes lanes d.whole w (fun segs s =>
    amoPerform op bytes (if d.whole then some (BitVec.allOnes 32) else none) (segs.flatMap (fun l => l.2.map (fun g =>
      ({ lane := l.1, seg := g, operand := (data l.1).1, swap := (data l.1).2 } : AmoLane)))) d none w s) s

/-- Bytes of an atomic: sz2 2 or 3 (R231). -/
def amoBytes (z1 : BitVec 1) : Nat := 4 * 2 ^ z1.toNat

/-- A vector atomic (R231 to R233): the swap value of `cas` is in the register after d, which is even. -/
def amoV (word : W32) (f : FmtZ1DA) (op : Nat) : State → Out :=
  let more := if op = 9 then [Reg.v (f.d.toNat + 1)] else []
  let o : Op := { word := word, st := f.st.toNat, pr := f.pr.toNat, perThread := true, ok := op != 9 || f.d.toNat % 2 == 0,
                  dst := [.v f.d.toNat], src := [.v f.d.toNat, .v f.a.toNat] ++ more }
  issue o fun w hs s =>
    let m := s.activeMask w f.pr.toNat hs
    amoAt op (amoBytes f.z1) ((lanesOf m).map (fun t => (t, (s.vlane w f.a.toNat t).toNat)))
      (fun t => ((s.vlane w f.d.toNat t).toNat, (s.vlane w (f.d.toNat + 1) t).toNat)) (.v f.d.toNat m) w s

/-- A uniform atomic: one step (R232). -/
def amoU (word : W32) (f : FmtZ1DA) (op : Nat) : State → Out :=
  let more := if op = 9 then [Reg.u (f.d.toNat + 1)] else []
  let o : Op := { word := word, st := f.st.toNat, pr := f.pr.toNat, ok := op != 9 || f.d.toNat % 2 == 0,
                  dst := [.u f.d.toNat], src := [.u f.d.toNat, .u f.a.toNat] ++ more }
  issue o fun w _ s =>
    amoAt op (amoBytes f.z1) [(0, (s.urd w f.a.toNat).toNat)]
      (fun _ => ((s.urd w f.d.toNat).toNat, (s.urd w (f.d.toNat + 1)).toNat)) (.u f.d.toNat) w s

/-- `aappend` (R234): one add of the active threads' sum; each thread gets the old value plus the increments below it. -/
def appendAt (bytes a : Nat) (inc : Nat → Nat) (d : Nat) (m : W32) (w : Who) (s : State) : Res :=
  let lanes := lanesOf m
  let n := 2 ^ (8 * bytes)
  let sum := fun (js : List Nat) => js.foldl (fun acc j => acc + inc j % n) 0
  if lanes.isEmpty then .ok s none false
  else amoCheck 0x40 bytes (lanes.map (fun t => (t, a))) false w (fun segs s =>
    match segs.head?.bind (fun l => l.2.head?) with
    | some g => amoPerform 0 bytes (some m) [{ lane := lanes.headD 0, seg := g, operand := sum lanes % n, swap := 0 }] (.v d m)
        (some (bytes, lanes.map (fun t => (t, sum (lanes.filter (· < t)))))) w s
    | none => .ok s none false) s

/-- AMO_ADD (R232): Per-thread atomic fetch-and-add. -/
def execAmoAdd (f : FmtZ1DA) (s : State) : Out :=
  amoV (0xA8080000 ||| encodeFmtZ1DA f) f 0 s

/-- AMO_MIN_I (R232): Per-thread atomic signed minimum. -/
def execAmoMinI (f : FmtZ1DA) (s : State) : Out :=
  amoV (0xA8080001 ||| encodeFmtZ1DA f) f 1 s

/-- AMO_MIN_N (R232): Per-thread atomic unsigned minimum. -/
def execAmoMinN (f : FmtZ1DA) (s : State) : Out :=
  amoV (0xA8080002 ||| encodeFmtZ1DA f) f 2 s

/-- AMO_MAX_I (R232): Per-thread atomic signed maximum. -/
def execAmoMaxI (f : FmtZ1DA) (s : State) : Out :=
  amoV (0xA8080003 ||| encodeFmtZ1DA f) f 3 s

/-- AMO_MAX_N (R232): Per-thread atomic unsigned maximum. -/
def execAmoMaxN (f : FmtZ1DA) (s : State) : Out :=
  amoV (0xA8080004 ||| encodeFmtZ1DA f) f 4 s

/-- AMO_AND (R232): Per-thread atomic and. -/
def execAmoAnd (f : FmtZ1DA) (s : State) : Out :=
  amoV (0xA8080005 ||| encodeFmtZ1DA f) f 5 s

/-- AMO_OR (R232): Per-thread atomic or. -/
def execAmoOr (f : FmtZ1DA) (s : State) : Out :=
  amoV (0xA8080006 ||| encodeFmtZ1DA f) f 6 s

/-- AMO_XOR (R232): Per-thread atomic exclusive or. -/
def execAmoXor (f : FmtZ1DA) (s : State) : Out :=
  amoV (0xA8080007 ||| encodeFmtZ1DA f) f 7 s

/-- AMO_EXCH (R232): Per-thread atomic exchange. -/
def execAmoExch (f : FmtZ1DA) (s : State) : Out :=
  amoV (0xA8080008 ||| encodeFmtZ1DA f) f 8 s

/-- AMO_CAS (R232): Per-thread atomic compare-and-swap with the swap value in d6 + 1. -/
def execAmoCas (f : FmtZ1DA) (s : State) : Out :=
  amoV (0xA8080009 ||| encodeFmtZ1DA f) f 9 s

/-- AMOU_ADD (R232): Uniform atomic fetch-and-add. -/
def execAmouAdd (f : FmtZ1DA) (s : State) : Out :=
  amoU (0xAA080000 ||| encodeFmtZ1DA f) f 0 s

/-- AMOU_MIN_I (R232): Uniform atomic signed minimum. -/
def execAmouMinI (f : FmtZ1DA) (s : State) : Out :=
  amoU (0xAA080001 ||| encodeFmtZ1DA f) f 1 s

/-- AMOU_MIN_N (R232): Uniform atomic unsigned minimum. -/
def execAmouMinN (f : FmtZ1DA) (s : State) : Out :=
  amoU (0xAA080002 ||| encodeFmtZ1DA f) f 2 s

/-- AMOU_MAX_I (R232): Uniform atomic signed maximum. -/
def execAmouMaxI (f : FmtZ1DA) (s : State) : Out :=
  amoU (0xAA080003 ||| encodeFmtZ1DA f) f 3 s

/-- AMOU_MAX_N (R232): Uniform atomic unsigned maximum. -/
def execAmouMaxN (f : FmtZ1DA) (s : State) : Out :=
  amoU (0xAA080004 ||| encodeFmtZ1DA f) f 4 s

/-- AMOU_AND (R232): Uniform atomic and. -/
def execAmouAnd (f : FmtZ1DA) (s : State) : Out :=
  amoU (0xAA080005 ||| encodeFmtZ1DA f) f 5 s

/-- AMOU_OR (R232): Uniform atomic or. -/
def execAmouOr (f : FmtZ1DA) (s : State) : Out :=
  amoU (0xAA080006 ||| encodeFmtZ1DA f) f 6 s

/-- AMOU_XOR (R232): Uniform atomic exclusive or. -/
def execAmouXor (f : FmtZ1DA) (s : State) : Out :=
  amoU (0xAA080007 ||| encodeFmtZ1DA f) f 7 s

/-- AMOU_EXCH (R232): Uniform atomic exchange. -/
def execAmouExch (f : FmtZ1DA) (s : State) : Out :=
  amoU (0xAA080008 ||| encodeFmtZ1DA f) f 8 s

/-- AMOU_CAS (R232): Uniform atomic compare-and-swap. -/
def execAmouCas (f : FmtZ1DA) (s : State) : Out :=
  amoU (0xAA080009 ||| encodeFmtZ1DA f) f 9 s

/-- AAPPEND (R234): Combines active threads' increments into one atomic add and returns per-thread prefixes. -/
def execAappend (f : FmtZ1) (s : State) : Out :=
  let o : Op := { word := 0xAC080000 ||| encodeFmtZ1 f, st := f.st.toNat, pr := f.pr.toNat, perThread := true,
                  dst := [.v f.d.toNat], src := [.u f.a.toNat, .v f.b.toNat] }
  issue o (fun w hs s => appendAt (amoBytes f.z1) (s.urd w f.a.toNat).toNat (fun t => (s.vlane w f.b.toNat t).toNat) f.d.toNat
    (s.activeMask w f.pr.toNat hs) w s) s

end Sys2Proof.Machine
end

