-- ==== Sys2Proof/Machine/Copy.lean ====
section
/-! DEFINITION. Per-lane copies (R80, R81, R106, R235 to R238, R307): the acceptance of a copy. -/
namespace Sys2Proof.Machine
open Sys2Proof

/-- The four copies by their source and destination (R235). -/
inductive CopyKind where
  | g2l | l2g | l2l | g2g
deriving DecidableEq, Repr

/-- Does a kind take its source from the own local store? -/
def CopyKind.srcOwn : CopyKind → Bool | .l2g | .l2l => true | _ => false
/-- Does a kind write the own local store? -/
def CopyKind.dstOwn : CopyKind → Bool | .g2l | .l2l => true | _ => false

/-- The REP hint of a group (R165): stride register, CNT and SIDE; a single run where there is none. -/
def repOf (hs : List W32) : Nat × Nat × Nat :=
  match hintOf hs 0x7D with
  | some h => (bitsOf h.toNat 24 19, bitsOf h.toNat 18 7, bitsOf h.toNat 6 5)
  | none => (0, 0, 0)

/-- One lane of one repetition: thread, repetition, source and destination addresses (R237). -/
structure CopyLane where
  t : Nat
  j : Nat
  src : Nat
  dst : Nat
deriving DecidableEq, Repr

/-- The lanes of a copy, thread by thread (R236, R237). -/
def State.copyLanes (s : State) (w : Who) (hs : List W32) (d a : Nat) (mask : W32) : List CopyLane :=
  let (sreg, cnt, side) := repOf hs
  let stride := s.urd w sreg
  (lanesOf mask).flatMap (fun t => (List.range (cnt + 1)).map (fun j =>
    let step : Word := BitVec.ofNat 64 j * stride
    { t := t, j := j, src := (s.vlane w a t + (if side = 2 then 0 else step)).toNat,
      dst := (s.vlane w d t + (if side = 1 then 0 else step)).toNat }))

/-- What a copy wants of its sources, and of its destinations. -/
def CopyKind.want (k : CopyKind) (write : Bool) (n : Nat) : Want :=
  if write then { write := true, own := k.dstOwn, copy := true, far := k == .g2g, size := n }
  else { read := true, own := k.srcOwn, copy := true, far := k == .g2g, size := n }

/-- A checked lane: its run, and the place of each side. -/
structure CopySpan where
  lane : CopyLane
  src : Seg
  dst : Seg
deriving DecidableEq, Repr

/-- Every lane of every repetition checked (R93, R236). -/
def State.checkCopy (s : State) (w : Who) (k : CopyKind) (n : Nat) (lanes : List CopyLane) : Option Trap × List CopySpan :=
  let r := lanes.map (fun x => (x, s.checkLane w (k.want false n) x.src, s.checkLane w (k.want true n) x.dst))
  let fails := r.filterMap (fun x => (firstFail (x.2.1.1 ++ x.2.2.1)).map (fun f => (x.1.t, f)))
  (failTrap fails false, r.filterMap (fun x => match x.2.1.2.head?, x.2.2.2.head? with
    | some a, some b => some { lane := x.1, src := a, dst := b }
    | _, _ => none))

/-- The format index of a source. -/
def CopySpan.fmt (c : CopySpan) : Nat := match c.src.leaf with | some l => l.fmt | none => 0
/-- Does a side lie in another pod? -/
def Seg.isFar (g : Seg) : Bool := match g.leaf with | some l => l.far.isSome | none => false
/-- Package of another pod, and the place there. -/
def Seg.farPlace (g : Seg) : Option (Nat × Nat) × Loc :=
  match g.leaf, g.loc with
  | some l, .glob pa => (match l.far with | some x => (some (x.1, x.2.1), .glob (pa % 2 ^ 44)) | none => (none, .glob pa))
  | _, l => (none, l)

/-- The slot of an initialised ring that holds all of a copy's destination bytes (R238). -/
def Block.wholeSlot (x : Block) (lo hi : Nat) : Option (Nat × Nat) :=
  (List.range 8).findSome? (fun k =>
    let r := vget x.rings k
    if r.live && r.base ≤ lo && lo < r.base + r.slots * r.size then
      (let j := (lo - r.base) / r.size
       if hi ≤ r.base + (j + 1) * r.size then some (k, j) else none)
    else none)

/-- A slot's tag as accepted copies leave it: that of a copy on its way, else the ring's (R238; log 14). -/
def State.tagOf (s : State) (x : Block) (k slot : Nat) : Nat :=
  let flying := s.cores.flatMap (·.copies)
  let held := (s.blocks.flatMap (fun y => y.cars.flatMap (·.held))).filterMap (fun h => match h with | .copy c => some c | _ => none)
  match (flying ++ held).findSome? (fun c => match c.tag with
      | some (b, k', j, f) => if b = x.id ∧ k' = k ∧ j = slot then some f else none
      | none => none) with
  | some f => f
  | none => vget (vget x.rings k).tags slot

/-- The block and the span of offsets that a copy's destinations take up in one local store, if they all lie in one. -/
def copyRange (n : Nat) (cs : List CopySpan) : Option (Nat × Nat × Nat) :=
  let places := cs.map (fun c => match c.dst.loc with | .ls b o => some (b, o) | .glob _ => none)
  match places.head? with
  | some (some (b, o)) =>
    if places.all (fun p => match p with | some (b', _) => b' == b | none => false) then
      some (b, places.foldl (fun acc p => match p with | some (_, o) => min acc o | none => acc) o,
        places.foldl (fun acc p => match p with | some (_, o) => max acc (o + n) | none => acc) 0)
    else none
  | _ => none

/-- The format checks and the tag of a copy (R236 step 3, R238). Every copy whose destination is a ring slot is tagged (R80), a `cpy.g2g`
to a window too, though R238 names `cpy.g2l` alone (DEDUCED, log 14). -/
def State.copyTag (s : State) (n : Nat) (cs : List CopySpan) : Except Trap (Option (Nat × Nat × Nat × Nat)) :=
  match cs.find? (fun c => c.fmt != 0), copyRange n cs with
  | some f, some (b, lo, hi) =>
    match (s.block? b).bind (fun x => (x.wholeSlot lo hi).map (fun r => (x, r))) with
    | none => .ok none
    | some (x, r, j) =>
      match cs.find? (fun c => c.fmt != f.fmt) with
      | some c => .error (wholeTrap 0x13 3 c.lane.src 0)
      | none =>
        let cur := s.tagOf x r j
        if cur != 0 && cur != f.fmt then .error (wholeTrap 0x13 0 lo 0) else .ok (some (b, r, j, f.fmt))
  | _, _ => .ok none

/-- The pieces of a lane (R81, R109, R237): a formatted source goes word by word, each with the place of its shift count. -/
def State.copyPieces (s : State) (w : Who) (n : Nat) (c : CopySpan) : List Piece :=
  let (sf, sl) := c.src.farPlace
  let (df, dl) := c.dst.farPlace
  let slot := fun (g : Seg) => match g.leaf with | some l => l.slot | none => 0
  let page := fun (g : Seg) => match g.leaf with | some l => g.va - l.base | none => 0
  let second := match c.dst.leaf with | some l => l.secondOf c.dst.va | none => none
  let piece := fun (off len : Nat) (scale scaleSecond : Option Nat) =>
    ({ src := sl.add off, dst := dl.add off, len := len, srcFar := sf, dstFar := df, scale := scale, second := second.map (· + off),
       srcSecond := c.src.leaf.bind (fun l => l.secondOf (c.src.va + off)), scaleSecond := scaleSecond,
       srcGraph := slot c.src, dstGraph := slot c.dst, srcPos := page c.src + off, dstPos := page c.dst + off,
       srcVa := c.lane.src + off, dstVa := c.lane.dst + off, lane := c.lane.t } : Piece)
  let (vf, proc) := s.spaceOf w
  let e := if c.fmt = 0 then none else s.fmtEntry vf proc c.fmt
  match e with
  | none => [piece 0 n none none]
  | some e => (List.range (n / 4)).map (fun i =>
      let a := e.scaleAt (c.src.va + 4 * i)
      match s.lookup (s.coreOf w) vf proc a with
      | .leaf m => piece (4 * i) 4 (some (m.paOf a)) (m.secondOf a)
      | .bad _ _ => piece (4 * i) 4 none none)

/-- The runs of bytes a copy reads of a lane's source: a formatted source word by word, but for those of all-zero blocks (R81, R238). -/
def State.copySource (s : State) (w : Who) (n : Nat) (c : CopySpan) : List Seg :=
  if c.fmt = 0 then [c.src]
  else s.served w true ((List.range (n / 4)).map (fun i =>
    { c.src with off := c.src.off + 4 * i, len := 4, va := c.src.va + 4 * i, loc := c.src.loc.add (4 * i) }))

/-- A side of a copy that is only read, at the primary home of a dual-home page alone (R362). -/
def Seg.readOnly (g : Seg) : Seg := { g with leaf := g.leaf.map (fun l => { l with pa2 := none }) }

/-- What stops a copy at acceptance after its checks: an unreachable home, or words lost to coherence (R398, R402). -/
def State.copyReach (s : State) (w : Who) (n : Nat) (cs : List CopySpan) : Option Trap :=
  let hidden := fun (l : Loc) => s.hides w l || (match s.poisonAt l with | some p => p.cause == 0 | none => true)
  match s.reachTrap w (cs.map (fun c => (c.lane.t, [c.src.readOnly, c.dst]))) false false hidden with
  | some t => some t
  | none => s.reachTrap w (cs.map (fun c => (c.lane.t, s.copySource w n c))) true false hidden

/-- A copy is checked and accepted in full, or not at all (R236, R237). -/
def copyAt (k : CopyKind) (n bar : Nat) (lanes : List CopyLane) (w : Who) (s : State) : Res :=
  let s := s.afterBinds w
  match s.block? (blkOf w) with
  | none => .stop .noAgent
  | some x =>
    if (vget x.bars bar).n = 0 then .trap (wholeTrap 0x21 0 0 bar)
    else match s.checkCopy w k n lanes with
    | (some t, _) => .trap t
    | (none, cs) =>
      match s.copyTag n cs with
      | .error t => .trap t
      | .ok tag =>
        match s.copyReach w n cs with
        | some t => .trap t
        | none =>
          if 256 ≤ s.copyCount x.core then .wait .copies (s.settleWho w)
          else
            let last := lanes.foldl (fun acc y => max acc (y.j + 1)) 0
            let reps := (List.range last).map (fun j => (cs.filter (fun c => c.lane.j == j)).flatMap (s.copyPieces w n))
            let q : CopyReq := { id := s.nextId, blk := x.id, tenant := s.tenantOfWho w, bar := bar, reps := reps, tag := tag,
                                 car := (match w with | .car _ k => k | .seq _ => 0), inc := s.incarnation x.core }
            let away := cs.any (fun c => c.src.isFar || c.dst.isFar) || s.escorted w
            let s := if away then s.settleWho w else s
            .ok (({ s with nextId := s.nextId + 1 } : State).hold w (.copy q)) none away

/-- A copy's word (R235). -/
def copyOp (word : W32) (f : FmtR) (k : CopyKind) : State → Out :=
  let n := 4 * 2 ^ f.sz.toNat
  let o : Op := { word := word, st := f.st.toNat, pr := f.pr.toNat, perThread := true, ok := f.sz != 3,
                  src := [.v f.d.toNat, .v f.a.toNat], vector := false, rep := true, cp := true, bar := some f.b.toNat }
  issue o fun w hs s => copyAt k n f.b.toNat (s.copyLanes w hs f.d.toNat f.a.toNat (s.activeMask w f.pr.toNat hs)) w s

/-- CPY_G2L (R236): Accepts a per-lane copy from global memory to the own local store. -/
def execCpyG2l (f : FmtR) (s : State) : Out :=
  copyOp (0xB8000000 ||| encodeFmtR f) f .g2l s

/-- CPY_L2G (R236): Accepts a per-lane copy from the own local store to global memory. -/
def execCpyL2g (f : FmtR) (s : State) : Out :=
  copyOp (0xBA000000 ||| encodeFmtR f) f .l2g s

/-- CPY_L2L (R236): Accepts a per-lane copy within the own local store. -/
def execCpyL2l (f : FmtR) (s : State) : Out :=
  copyOp (0xBC000000 ||| encodeFmtR f) f .l2l s

/-- CPY_G2G (R236): Accepts a per-lane copy between global addresses. -/
def execCpyG2g (f : FmtR) (s : State) : Out :=
  copyOp (0xBE000000 ||| encodeFmtR f) f .g2g s

end Sys2Proof.Machine
end

