-- ==== Sys2Proof/Machine/Sync.lean ====
section
/-! DEFINITION. Stage rings (R239 to R243), block, die and convoy barriers (R244 to R249) and the fence (R114, R263). -/
namespace Sys2Proof.Machine
open Sys2Proof

/-- Common fields of a once-only scoreboarded instruction of the chapter (R222 to R224). -/
def opS (word : W32) (st : BitVec 2) (pr : BitVec 3) (dst src : List Reg) : Op :=
  { word := word, st := st.toNat, pr := pr.toNat, dst := dst, src := src }

/-! ## Rings -/

/-- A ring as the block has claimed it: held publishes and releases moved already (R243). -/
def Block.claimed (x : Block) (k : Nat) : Ring :=
  (x.cars.flatMap (·.held)).foldl (fun r h => match h with
    | .ringPub j slot => if j = k then r.move slot false else r
    | .ringRel j slot => if j = k then r.move slot true else r
    | _ => r) (vget x.rings k)

/-- RING_STATE for ring k (R335). -/
def ringTrap (k : Nat) : Res := .trap (wholeTrap 0x22 0 0 k)

/-- Change ring k of an agent's block. -/
def State.modRing (s : State) (w : Who) (k : Nat) (f : Ring → Ring) : State :=
  s.modBlock (blkOf w) (fun x => { x with rings := vset x.rings k (f (vget x.rings k)) })

/-- `ring.init` (R241). -/
def ringInitAt (k : Nat) (v : Word) (w : Who) (s : State) : Res :=
  match s.block? (blkOf w) with
  | none => .stop .noAgent
  | some x =>
    let r : Ring := { Ring.empty with init := v }
    if bitsOf v.toNat 63 52 != 0 || bitsOf v.toNat 47 32 == 0 || r.base % 256 != 0 then ringTrap k
    else if x.lsg < r.base + r.slots * r.size then .trap (wholeTrap 0x16 0 r.base 0)
    else
      let s := s.settleWho w
      let old := match s.block? (blkOf w) with | some y => vget y.rings k | none => Ring.empty
      if old.live && (List.range old.slots).any (fun j => vget old.states j != 0) then ringTrap k
      else .ok (s.modRing w k (fun _ => r)) none true

/-- A slot acquired or taken: its new state, the counter, and the offset (R242). -/
def State.claimSlot (s : State) (w : Who) (k d st : Nat) : State :=
  match s.block? (blkOf w) with
  | none => s
  | some x =>
    let r := vget x.rings k
    let j := (if st = 0 then r.acquired else r.taken).toNat % r.slots
    let s := s.modRing w k (fun r =>
      if st = 0 then { r with states := vset r.states j 1, acquired := r.acquired + 1 }
      else { r with states := vset r.states j 3, taken := r.taken + 1 })
    s.uwr w d (BitVec.ofNat 64 (r.base + j * r.size))

/-- `ring.acq` (slot state 0 wanted) and `ring.take` (slot state 2 wanted), waiting forms (R242). -/
def ringGetAt (k d st : Nat) (w : Who) (s : State) : Res :=
  let s := s.settleWho w
  match s.block? (blkOf w) with
  | none => .stop .noAgent
  | some x =>
    if !(vget x.rings k).live then ringTrap k
    else
      let mine := match s.statusOf w with
        | some (.waiting (.ringFree j q)) => if st = 0 ∧ j = k then some q else none
        | some (.waiting (.ringFull j q)) => if st = 2 ∧ j = k then some q else none
        | _ => none
      if x.slotReady k st && !(x.ringAhead k st mine) then .ok (s.claimSlot w k d st) none true
      else
        let q := mine.getD s.nextId
        let s : State := if mine.isSome then s else { s with nextId := s.nextId + 1 }
        .wait (if st = 0 then .ringFree k q else .ringFull k q) s

/-- `ring.pub` (slot state 1 needed) and `ring.rel` (slot state 3 needed), checked against the claimed state and held (R243). -/
def ringPutAt (k : Nat) (off : Nat) (st : Nat) (w : Who) (s : State) : Res :=
  match s.block? (blkOf w) with
  | none => .stop .noAgent
  | some x =>
    let r := x.claimed k
    match (if r.live then r.slotAt off else none) with
    | none => ringTrap k
    | some j =>
      if vget r.states j != st then ringTrap k
      else .ok (s.hold w (if st = 1 then .ringPub k j else .ringRel k j)) none false

/-! ## Block barriers -/

/-- BARRIER_UNINIT and BARRIER_BUSY for a barrier or convoy slot (R335). -/
def uninitTrap (k : Nat) : Res := .trap (wholeTrap 0x21 0 0 k)

/-- Does an agent wait on a barrier: in `bar.wait` or `bar.arw`, or restored with a phase of it still to wait for (R250)? It does until it
has issued again (log 29). -/
def waitsOn (k : Nat) (st : Status) (p : Option PhaseWait) : Bool :=
  (match st with | .waiting (.phase j _) => j == k | _ => false) || p.any (fun p => p.arg == k)

/-- Does any agent of a block wait on a barrier, or is it owed an arrival (R247)? -/
def State.barBusy (s : State) (x : Block) (k : Nat) : Bool :=
  x.cars.any (fun c => waitsOn k c.status c.phase) || x.seq.any (fun q => waitsOn k q.status q.phase) || s.owed x k != 0

/-- A sequencer's barrier operation follows the operand reads of its earlier matrix instructions (R105, R246). -/
def afterReads (w : Who) (s : State) (r : State → Res) : Res :=
  match w, s.block? (blkOf w) with
  | .seq _, some x => if (s.pendingMx x).all (fun m => m.stage == 2) then r s else .wait .array s
  | _, _ => r s

/-- `bar.init` with a good count N, and `bar.inval` with N = 0 (R245, R247). -/
def barSetAt (k n : Nat) (w : Who) (s : State) : Res :=
  afterReads w (s.settleWho w) fun s =>
  match s.block? (blkOf w) with
  | none => .stop .noAgent
  | some x =>
    if s.barBusy x k then .trap (wholeTrap 0x20 0 0 k)
    else .ok (s.modBlock x.id (fun y => { y with bars := vset y.bars k { n := n, count := 0, p := 0 } })) none true

/-- Set an agent's phase wait (R250). -/
def State.setPhase (s : State) (w : Who) (p : Option PhaseWait) : State :=
  match w with
  | .car b n => s.modCar b n (fun c => { c with phase := p })
  | .seq b => s.modSeq b (fun q => { q with phase := p })

/-- Barrier k of an agent's block. -/
def State.barOf (s : State) (w : Who) (k : Nat) : Barrier :=
  match s.block? (blkOf w) with | some x => vget x.bars k | none => Barrier.empty

/-- `bar.arv` (R245, R246): held by a caravan, its phase number pending until then; a sequencer arrives at once. -/
def barArvAt (k d : Nat) (w : Who) (s : State) : Res :=
  if (s.barOf w k).n = 0 then uninitTrap k
  else afterReads w s fun s =>
    let s := s.hold w (.barArv k d)
    match w with
    | .car _ _ => .ok (if d = 0 then s else s.setPend w (.u d) .held) none false
    | .seq _ => .ok s none false

/-- `bar.wait`, a waiting form (R245). -/
def barWaitAt (k : Nat) (ph : W32) (w : Who) (s : State) : Res :=
  if (s.barOf w k).n = 0 then uninitTrap k
  else afterReads w (s.settleWho w) fun s =>
    if phaseDone (s.barOf w k) ph then .ok s none true else .wait (.phase k ph.toNat) s

/-- `bar.arw` (R245): an arrival, then the wait on its phase, as one instruction; the arrival is made once (R250). -/
def barArwAt (k d : Nat) (w : Who) (s : State) : Res :=
  if (s.phaseOf w).isNone && (s.barOf w k).n = 0 then uninitTrap k
  else afterReads w (s.settleWho w) fun s =>
    let (p, s) : PhaseWait × State := match s.phaseOf w with
      | some p => (p, s)
      | none => let (ph, s) := s.arrive (blkOf w) k; ({ arg := k, d := d, ph := ph }, s)
    if phaseDone (s.barOf w k) p.ph then .ok ((s.setPhase w none).uwr w d (p.ph.setWidth 64)) none true
    else .wait (.phase k p.ph.toNat) (s.setPhase w (some p))

/-! ## Scopes -/

/-- A member's own count of a scope (R249). -/
def State.scopeOf (s : State) (w : Who) (i : Nat) : W32 :=
  match w with
  | .car b n => (match s.car? b n with | some c => vget c.scope i | none => 0)
  | .seq b => (match s.seq? b with | some q => vget q.scope i | none => 0)
/-- One more execution of a scope by a member. -/
def State.bumpScope (s : State) (w : Who) (i : Nat) : State :=
  match w with
  | .car b n => s.modCar b n (fun c => { c with scope := vset c.scope i (vget c.scope i + 1) })
  | .seq b => s.modSeq b (fun q => { q with scope := vset q.scope i (vget q.scope i + 1) })

/-- `bbar` (scope 0), `dbar` (1) and `cbar` (2 to 5): the member's n-th execution waits for phase n (R248, R249). -/
def scopeAt (i arg d : Nat) (w : Who) (s : State) : Res :=
  let none_ := match s.block? (blkOf w) with | some x => 2 ≤ i && (x.convoys.getD (i - 2) none).isNone | none => true
  if none_ then uninitTrap (i - 2)
  else afterReads w (s.settleWho w) fun s =>
    let (p, s) : PhaseWait × State := match s.phaseOf w with
      | some p => (p, s)
      | none =>
        let p : PhaseWait := { arg := arg, d := d, ph := s.scopeOf w i }
        let s := s.bumpScope w i
        (p, match s.block? (blkOf w) with | some x => s.updateDbar x.launch (dieOf x.core) | none => s)
    let done := match s.block? (blkOf w) with | some x => s.scopeDone x arg p.ph.toNat | none => true
    if done then .ok ((s.setPhase w none).uwr w d (p.ph.setWidth 64)) none true
    else .wait (.scope arg p.ph.toNat) (s.setPhase w (some p))

/-! ## The fence -/

/-- `fence.io` (R114): non-speculative, then after every earlier untracked store has been sent and observed the core's L1 drops
its clean untracked lines. -/
def fenceAt (w : Who) (s : State) : Res :=
  let s := s.settleWho w
  if !s.globalWrites.isEmpty then .wait .fence s
  else .ok (s.modCore (s.coreOf w) (fun c => { c with l1 := [] })) none false

/-- RING_INIT (R241): Installs a ring's geometry and frees all its slots. -/
def execRingInit (f : FmtDA) (s : State) : Out :=
  issue { opS (0xC00C0000 ||| encodeFmtDA f) f.st f.pr [] [.u f.d.toNat] with ring := some f.a.toNat } (fun w _ s => ringInitAt f.a.toNat (s.urd w f.d.toNat) w s) s

/-- RING_ACQ (R242): Waits for the next FREE slot and acquires it. -/
def execRingAcq (f : FmtDA) (s : State) : Out :=
  issue { opS (0xC00C0001 ||| encodeFmtDA f) f.st f.pr [.u f.d.toNat] [] with ring := some f.a.toNat } (fun w _ s => ringGetAt f.a.toNat f.d.toNat 0 w s) s

/-- RING_PUB (R243): Publishes an acquired slot, held until its checkpoint commits. -/
def execRingPub (f : FmtDA) (s : State) : Out :=
  issue { opS (0xC00C0002 ||| encodeFmtDA f) f.st f.pr [] [.u f.d.toNat] with ring := some f.a.toNat } (fun w _ s => ringPutAt f.a.toNat (s.urd w f.d.toNat).toNat 1 w s) s

/-- RING_TAKE (R242): Waits for the next PUBLISHED slot and takes it. -/
def execRingTake (f : FmtDA) (s : State) : Out :=
  issue { opS (0xC00C0003 ||| encodeFmtDA f) f.st f.pr [.u f.d.toNat] [] with ring := some f.a.toNat } (fun w _ s => ringGetAt f.a.toNat f.d.toNat 2 w s) s

/-- RING_REL (R243): Releases a taken slot to FREE and clears its tag. -/
def execRingRel (f : FmtDA) (s : State) : Out :=
  issue { opS (0xC00C0004 ||| encodeFmtDA f) f.st f.pr [] [.u f.d.toNat] with ring := some f.a.toNat } (fun w _ s => ringPutAt f.a.toNat (s.urd w f.d.toNat).toNat 3 w s) s

/-- BAR_INIT (R245): Initialises a block barrier's expected count and phase. -/
def execBarInit (f : FmtDA) (s : State) : Out :=
  issue { opS (0xC20C0000 ||| encodeFmtDA f) f.st f.pr [] [.u f.d.toNat] with seq := true, bar := some f.a.toNat } (fun w _ s =>
    let n := (s.urd w f.d.toNat).toNat
    if n = 0 ∨ 2 ^ 16 ≤ n then uninitTrap f.a.toNat else barSetAt f.a.toNat n w s) s

/-- BAR_ARV (R246): Makes one held arrival on a block barrier. -/
def execBarArv (f : FmtDA) (s : State) : Out :=
  issue { opS (0xC20C0001 ||| encodeFmtDA f) f.st f.pr [.u f.d.toNat] [] with seq := true, bar := some f.a.toNat } (fun w _ s => barArvAt f.a.toNat f.d.toNat w s) s

/-- BAR_WAIT (R245): Waits until a named barrier phase has completed. -/
def execBarWait (f : FmtDA) (s : State) : Out :=
  issue { opS (0xC20C0002 ||| encodeFmtDA f) f.st f.pr [] [.u f.d.toNat] with seq := true, bar := some f.a.toNat } (fun w _ s => barWaitAt f.a.toNat ((s.urd w f.d.toNat).setWidth 32) w s) s

/-- BAR_ARW (R245): Arrives on a barrier and waits for that phase. -/
def execBarArw (f : FmtDA) (s : State) : Out :=
  issue { opS (0xC20C0003 ||| encodeFmtDA f) f.st f.pr [.u f.d.toNat] [] with seq := true, bar := some f.a.toNat, again := true } (fun w _ s => barArwAt f.a.toNat f.d.toNat w s) s

/-- BAR_INVAL (R247): Returns a barrier to uninitialised. -/
def execBarInval (f : FmtA) (s : State) : Out :=
  issue { opS (0xC20C0004 ||| encodeFmtA f) f.st f.pr [] [] with seq := true, bar := some f.a.toNat }
    (fun w _ s => barSetAt f.a.toNat 0 w s) s

/-- BBAR (R249): Block-scope barrier over the block's members. -/
def execBbar (f : FmtD) (s : State) : Out :=
  issue { opS (0xC40C0000 ||| encodeFmtD f) f.st f.pr [.u f.d.toNat] [] with seq := true, again := true } (fun w _ s => scopeAt 0 0x40 f.d.toNat w s) s

/-- DBAR (R249): Die-scope barrier over the launch's blocks on the die. -/
def execDbar (f : FmtD) (s : State) : Out :=
  issue { opS (0xC40C0001 ||| encodeFmtD f) f.st f.pr [.u f.d.toNat] [] with seq := true, again := true } (fun w _ s => scopeAt 1 0x41 f.d.toNat w s) s

/-- CBAR (R249): Convoy-scope barrier over a convoy slot's members. -/
def execCbar (f : FmtCb) (s : State) : Out :=
  issue { opS (0xC40C0002 ||| encodeFmtCb f) f.st f.pr [.u f.d.toNat] [] with seq := true, again := true }
    (fun w _ s => scopeAt (2 + f.a.toNat) (0x44 + f.a.toNat) f.d.toNat w s) s

/-- FENCE_IO (R114): Orders untracked and irrevocable accesses and drops clean untracked L1 lines. -/
def execFenceIo (f : FmtN) (s : State) : Out :=
  issue { word := 0xC6000000 ||| encodeFmtN f, st := f.st.toNat, pr := f.pr.toNat, fixed := true } (fun w _ s => fenceAt w s) s

end Sys2Proof.Machine
end

