-- ==== Sys2Proof/Machine/Queue.lean ====
section
/-! DEFINITION. Bundles (R84 to R91, R251 to R255), gang pipes (R256 to R259, R323), stream-graph binding (R260 to R262, R309 to
R312, R444) and the counters (R264). -/
namespace Sys2Proof.Machine
open Sys2Proof

/-! ## Bundles -/

/-- A refusal of `bdecl` (R85). -/
def refusal (status : Nat) : Nat := 2 ^ 64 - 256 + status

/-- The lines of a range of virtual addresses, and the die that homes them; none where the range is no bundle range (R84, R85, R362). -/
def rangeLines (look : Nat → Walk) (base len : Nat) : Option (List Nat × List Nat) :=
  if len = 0 ∨ 2 ^ 57 < base + len then none
  else
    let first := base / 256
    ((List.range ((base + len - 1) / 256 + 1 - first)).mapM (fun i =>
      let va := 256 * (first + i)
      if localRegion ≤ va then (none : Option (Nat × Nat)) else
      match look va with
      | .bad _ _ => none
      | .leaf l =>
        let pa := l.paOf va
        if l.tracked && l.slot == 0 && l.pa2.isNone && kindOf pa == Kind.tier1 then some (pa / 256, bitsOf pa 38 37) else none)).map List.unzip

/-- A handle no bundle has, nonzero and below 2^32 (R85): the first free one from the last given on. -/
def State.newHandle (s : State) : Nat :=
  (((List.range 8192).map (fun i => (s.bundleNext + i - 1) % (2 ^ 32 - 1) + 1)).find? (fun h => (s.bundle? h).isNone)).getD 1

/-- A bundle declared (R84 to R87): its handle or a refusal, and the state after. -/
def State.declareBundle (s : State) (launch tenant : Nat) (look : Nat → Walk) (ranges : List (Nat × Nat)) : Nat × State :=
  if ranges.isEmpty || 16 < ranges.length then (refusal 1, s)
  else match ranges.mapM (fun r => rangeLines look r.1 r.2) with
    | none => (refusal 1, s)
    | some parts =>
      let lines := parts.foldl (fun acc p => addAll p.1 acc) []
      match parts.flatMap (·.2) with
      | [] => (refusal 1, s)
      | die :: dies =>
        if dies.any (· != die) || 262144 < lines.length then (refusal 1, s)
        else
          let quota := match s.tenant? tenant with | some t => t.quota die | none => 0
          if quota < lines.length then (refusal 2, s)
          else if 1024 ≤ (s.bundles.filter (fun u => u.die == die)).length then (refusal 3, s)
          else
            let h := s.newHandle
            let u : Bundle := { handle := h, launch := launch, tenant := tenant, die := die, lines := lines, state := 0,
                                entryTime := 0 }
            (h, { s with bundles := s.bundles ++ [u], bundleNext := h + 1 })

/-- The ranges of a descriptor (R252): none where COUNT is no count. -/
def descRanges (bs : List Byte) : List (Nat × Nat) :=
  (List.range (fieldAt bs 0 8)).map (fun j => (fieldAt bs (8 + 16 * j) 8, fieldAt bs (16 + 16 * j) 8))

/-- `bdecl`, a waiting form (R252). -/
def bdeclAt (d a : Nat) (w : Who) (s : State) : Res :=
  if a % 8 != 0 then .trap { wholeTrap 0x12 0 a 0 with lanes := BitVec.allOnes 32 }
  else
    let s := s.settleWho w
    match s.readWords w [] a 1 with
    | (some t, _, _) => .trap t
    | (none, head, s) =>
      let n := leNat head
      if n = 0 ∨ 16 < n then .ok (s.uwr w d (BitVec.ofNat 64 (refusal 1))) none true
      else match s.readWords w [] a (1 + 2 * n) with
        | (some t, _, _) => .trap t
        | (none, bs, s) =>
          let (vf, proc) := s.spaceOf w
          let launch := match s.launchOf w with | some l => l.id | none => 0
          let (h, s) := s.declareBundle launch (s.tenantOfWho w) (s.lookup (s.coreOf w) vf proc) (descRanges bs)
          .ok (s.uwr w d (BitVec.ofNat 64 h)) none true

/-- Is a value a handle of the agent's own launch (R86)? -/
def State.ownHandle (s : State) (w : Who) (h : Nat) : Option Bundle :=
  match s.bundle? h, s.block? (blkOf w) with
  | some u, some x => if u.launch == x.launch then some u else none
  | _, _ => none

/-- The bundles a block has entered or asked to enter, held requests included (R253). A `bleav` that the block still holds frees no place
(DESIGN CHOICE, log 57: R253 does not say whether the check looks at the table as it stands or as the held operations will leave it). -/
def Block.handles (x : Block) : List Nat :=
  (x.cars.flatMap (·.held)).foldl (fun acc h => match h with | .bentr k _ => insertNew k acc | _ => acc) (addAll (x.entries.map (·.handle)) [])

/-- `bentr` (R253): checked, then held with the arrival it owes. An uninitialised barrier is found before a value that is no handle (DESIGN
CHOICE, log 24: R253 orders neither trap before the other). -/
def bentrAt (h bar : Nat) (w : Who) (s : State) : Res :=
  match s.block? (blkOf w) with
  | none => .stop .noAgent
  | some x =>
    if (vget x.bars bar).n = 0 then uninitTrap bar
    else match s.ownHandle w h with
      | none => .trap (wholeTrap 0x23 1 0 bar)
      | some _ =>
        if !(x.handles.contains h) && 32 ≤ x.handles.length then .trap (wholeTrap 0x23 2 0 bar)
        else .ok (s.hold w (.bentr h bar)) none false

/-- `bleav` (R254). -/
def bleavAt (h : Nat) (w : Who) (s : State) : Res :=
  match s.ownHandle w h with
  | none => .trap (wholeTrap 0x23 1 0 0)
  | some _ => .ok (s.hold w (.bleav h)) none false

/-- `bstat` (R255). -/
def bstatValue (s : State) (w : Who) (h : Nat) : Nat :=
  let t := s.tenantOfWho w
  if h = 0 then
    let die := dieOf (s.coreOf w)
    let quota := match s.tenant? t with | some x => (if die < 4 then x.quota die else 0) | none => 0
    quota + 2 ^ 32 * (s.residentLines t die).length
  else match s.ownHandle w h with
    | none => 2 ^ 64 - 1
    | some u =>
      let entered := match s.block? (blkOf w) with | some x => x.entries.any (fun e => e.handle == h && e.pending.isNone) | none => false
      u.lines.length + 2 ^ 32 * (if u.state == 2 && entered then 3 else u.state) + 2 ^ 40 * u.die

/-! ## Queues -/

/-- QUEUE_FAULT on a pipe (R257). -/
def queueTrap (sub q : Nat) : Res := .trap (wholeTrap 0x25 sub 0 q)

/-- The launch and pipe an instruction of a block names, or the sub-reason of its trap (R257). -/
def State.pipeFor (s : State) (w : Who) (q : Nat) (push : Bool) : Except Nat (Launch × Pipe) :=
  match s.launchOf w, s.block? (blkOf w) with
  | some l, some x =>
    (match l.pipes[q]? with
     | some p =>
       if !l.gang || p.depth == 0 then .error 1
       else if (if push then p.pushk else p.popk) / 2 ^ x.kernel % 2 == 0 then .error 2 else .ok (l, p)
     | none => .error 1)
  | _, _ => .error 1

/-- The four registers of an entry (R256). -/
def State.entryRegs (s : State) (w : Who) (d : Nat) : List Byte :=
  (List.range 4).flatMap (fun j => leBytes 8 (s.urd w (d + j)).toNat)

/-- The feed queue of a pipe is served again when a place has come free (R367). -/
def State.refeed (s : State) (l : Launch) (p : Pipe) : State :=
  if p.feed == 1 then s.queueEvent (.feedQueuePush l.vf p.feedq) else s

/-- `qpop` and `qpop.try`, waiting forms (R258): the pipe as it stands once the caravan's own held pushes are in. -/
def qpopAt (try_ : Bool) (q d c : Nat) (w : Who) (s : State) : Res :=
  let s := s.settleWho w
  match s.pipeFor w q false with
  | .error sub => queueTrap sub q
  | .ok (l, p) => match p.entries with
    | e :: rest =>
      let s := s.modLaunch l.id (fun y => { y with pipes := y.pipes.mapIdx (fun i z => if i = q then { z with entries := rest } else z) })
      let s := (List.range 4).foldl (fun st j => st.uwr w (d + j) (BitVec.ofNat 64 (fieldAt e (8 * j) 8))) s
      .ok ((s.cwr w c true).refeed l p) none true
    | [] => if try_ || s.pipeClosed l q then .ok (s.cwr w c false) none true else .wait (.pipe q) s

/-- Does an entry for a transmit port keep R323? The timestamp's address counts only where flag bit 0 asks for one (DESIGN CHOICE, log 15). -/
def txOk (port : Nat) (e : List Byte) : Bool :=
  let len := fieldAt e 8 2
  60 ≤ len && len ≤ 9212 && fieldAt e 10 1 == port && fieldAt e 11 1 ≤ 1 && fieldAt e 24 8 == 0 &&
  (fieldAt e 11 1 == 0 || fieldAt e 16 8 % 8 == 0)

/-- `qpush` (R257, R259, R323). -/
def qpushAt (q d : Nat) (w : Who) (s : State) : Res :=
  match s.pipeFor w q true with
  | .error sub => queueTrap sub q
  | .ok (l, p) =>
    if s.pipeClosed l q then queueTrap 3 q
    else
      let e := s.entryRegs w d
      if p.drain != 0 && !(txOk (p.drain - 1) e) then queueTrap 4 q
      else if p.depth ≤ s.pipeUsed l q then .wait (.place q) (s.settleWho w)
      else if p.drain != 0 then
        .ok (((s.settleWho w).perform w (.qpush q e)).queueEvent (.transmitFrame (p.drain - 1))) none true
      else .ok (s.hold w (.qpush q e)) none false

/-! ## Stream graphs -/

/-- A bind or unbind held until its epoch commits, its status pending until then (R103, R261); an escorted caravan takes a checkpoint
after it (R394). -/
def holdBind (d slot : Nat) (image : Option Nat) (w : Who) (s : State) : Res :=
  let esc := s.escorted w
  let s := s.hold w (.sgbind d (s.spaceOf w).1 (s.tenantOfWho w) slot image)
  .ok (if d = 0 then s else s.setPend w (.u d) .held) none esc

/-- `sgbind` (R261, R444): it is held, and performed when its epoch commits. Where the slot has a graph its image is not read, and
SLOT_BUSY is decided at the commit; else the traps of its loads are taken here, and the image itself is read at the commit. A
bind or unbind that the caravan holds commits first, so that the slot and the pages of the image are met as they then stand. -/
def sgbindAt (word : W32) (place d : Nat) (slot a : Nat) (w : Who) (s : State) : Res :=
  if slot = 0 ∨ 16 ≤ slot then .trap (illegal 1 word place)
  else if a = 0 then holdBind d slot none w s
  else if a % 8 != 0 then .trap (wholeTrap 0x12 0 a 0)
  else
    let s := s.afterBinds w
    if s.slotTaken (s.tenantOfWho w) slot then holdBind d slot (some a) w s
    else match (s.readImage w (s.heldOf w) a).1 with
      | some t => .trap t
      | none => holdBind d slot (some a) w s

/-- `sgstat` (R262). -/
def sgstatValue (s : State) (tenant slot : Nat) : Nat :=
  match (if slot = 0 then none else s.openGraph? tenant slot) with
  | none => 0
  | some g =>
    let k := imgKind g.image
    1 + 2 ^ (k + 1) + 2 ^ 8 * ((imgRn g.image + imgWn g.image) % 256) + 2 ^ 32 * g.chunks.toNat

/-! ## Counters -/

/-- `rdptp` (R264): seconds and nanoseconds. -/
def ptpValue (s : State) : Nat := s.ptpNow.1 % 2 ^ 32 + 2 ^ 32 * s.ptpNow.2

/-- `rdenergy` (R264, R377, R378): the window is the clock's, and what was charged before it began counts no more. -/
def energyValue (s : State) (w : Who) : Nat :=
  let win := s.clk / 2700000
  let left := match s.vf? (s.spaceOf w).1 with | some f => if s.energyWin = win then s.energyLeft f else s.budget f.id | none => 0
  min left (2 ^ 32 - 1) + 2 ^ 32 * (win % 2 ^ 16)

/-- BDECL (R252): Declares a bundle from a descriptor and returns a handle or refusal. -/
def execBdecl (f : FmtDA) (s : State) : Out :=
  issue { opS (0xC80C0000 ||| encodeFmtDA f) f.st f.pr [.u f.d.toNat] [.u f.a.toNat] with seq := false } (fun w _ s => bdeclAt f.d.toNat (s.urd w f.a.toNat).toNat w s) s

/-- BENTR (R253): Requests that a bundle be made resident and entered, owing a barrier arrival. -/
def execBentr (f : FmtDA) (s : State) : Out :=
  issue { opS (0xC80C0001 ||| encodeFmtDA f) f.st f.pr [] [.u f.a.toNat] with seq := false, bar := some f.d.toNat } (fun w _ s => bentrAt (s.urd w f.a.toNat).toNat f.d.toNat w s) s

/-- BLEAV (R254): Ends the block's entry of a bundle. -/
def execBleav (f : FmtA) (s : State) : Out :=
  issue { opS (0xC80C0002 ||| encodeFmtA f) f.st f.pr [] [.u f.a.toNat] with seq := false } (fun w _ s => bleavAt (s.urd w f.a.toNat).toNat w s) s

/-- BSTAT (R255): Reports quota and resident set, or a bundle's size, state and die. -/
def execBstat (f : FmtDA) (s : State) : Out :=
  issue { opS (0xC80C0003 ||| encodeFmtDA f) f.st f.pr [.u f.d.toNat] [.u f.a.toNat] with seq := false }
    (fun w _ s => .ok (s.uwr w f.d.toNat (BitVec.ofNat 64 (bstatValue s w (s.urd w f.a.toNat).toNat))) none false) s

/-- QPOP (R258): Waits for and receives a pipe entry, or finds the pipe closed and empty. -/
def execQpop (f : FmtQ) (s : State) : Out :=
  issue { opS (0xCA0C0000 ||| encodeFmtQ f) f.st f.pr (.c f.c.toNat :: (List.range 4).map (fun j => Reg.u (f.d.toNat + j))) [] with seq := false, ok := f.d.toNat % 4 == 0 && 4 ≤ f.d.toNat }
    (fun w _ s => qpopAt false f.a.toNat f.d.toNat f.c.toNat w s) s

/-- QPOP_TRY (R258): Receives a pipe entry if one is present, without waiting. -/
def execQpopTry (f : FmtQ) (s : State) : Out :=
  issue { opS (0xCA0C0001 ||| encodeFmtQ f) f.st f.pr (.c f.c.toNat :: (List.range 4).map (fun j => Reg.u (f.d.toNat + j))) [] with seq := false, ok := f.d.toNat % 4 == 0 && 4 ≤ f.d.toNat }
    (fun w _ s => qpopAt true f.a.toNat f.d.toNat f.c.toNat w s) s

/-- QPUSH (R259): Reserves a pipe place and pushes a 32-byte entry after commit. -/
def execQpush (f : FmtDA) (s : State) : Out :=
  issue { opS (0xCA0C0002 ||| encodeFmtDA f) f.st f.pr [] ((List.range 4).map (fun j => Reg.u (f.d.toNat + j))) with seq := false, ok := f.d.toNat % 4 == 0 && 4 ≤ f.d.toNat }
    (fun w _ s => qpushAt f.a.toNat f.d.toNat w s) s

/-- SGBIND (R261): Binds or unbinds a stream graph image to a stream slot and returns a status. -/
def execSgbind (f : FmtDA) (s : State) : Out :=
  issue { opS (0xCC0C0000 ||| encodeFmtDA f) f.st f.pr [.u f.d.toNat] [.u f.d.toNat, .u f.a.toNat] with seq := false, porter := false }
    (fun w hs s => sgbindAt (0xCC0C0000 ||| encodeFmtDA f) hs.length f.d.toNat (s.urd w f.d.toNat).toNat (s.urd w f.a.toNat).toNat w s) s

/-- SGSTAT (R262): Reports a stream slot's binding, kind, node count and chunk count. -/
def execSgstat (f : FmtDA) (s : State) : Out :=
  issue { opS (0xCC0C0001 ||| encodeFmtDA f) f.st f.pr [.u f.d.toNat] [.u f.a.toNat] with seq := false, porter := false }
    (fun w _ s => .ok (s.uwr w f.d.toNat (BitVec.ofNat 64 (sgstatValue s (s.tenantOfWho w) ((s.urd w f.a.toNat).toNat % 16)))) none false) s

/-- RDCLK (R264): Reads core cycles since package reset. -/
def execRdclk (f : FmtD) (s : State) : Out :=
  issue { opS (0xCE0C0000 ||| encodeFmtD f) f.st f.pr [.u f.d.toNat] [] with seq := false, fixed := true } (fun w _ s => .ok (s.uwr w f.d.toNat (BitVec.ofNat 64 s.clk)) none false) s

/-- RDPTP (R264): Reads the package PTP time. -/
def execRdptp (f : FmtD) (s : State) : Out :=
  issue { opS (0xCE0C0001 ||| encodeFmtD f) f.st f.pr [.u f.d.toNat] [] with seq := false } (fun w _ s => .ok (s.uwr w f.d.toNat (BitVec.ofNat 64 (ptpValue s))) none false) s

/-- RDENERGY (R264): Reads the function's remaining energy and window number. -/
def execRdenergy (f : FmtD) (s : State) : Out :=
  issue { opS (0xCE0C0002 ||| encodeFmtD f) f.st f.pr [.u f.d.toNat] [] with seq := false } (fun w _ s => .ok (s.uwr w f.d.toNat (BitVec.ofNat 64 (energyValue s w))) none false) s

end Sys2Proof.Machine
end

