-- ==== Sys2Proof/Machine/Control.lean ====
section
/-! DEFINITION. Control flow (R285 to R295): transfers and their checks, the divergence stack, landing points and `exit`. -/
namespace Sys2Proof.Machine
open Sys2Proof

/-- The launch of an agent's block. -/
def State.launchId (s : State) (w : Who) : Nat := match s.block? (blkOf w) with | some x => x.launch | none => 0

/-- What stands at a code address, for an agent (R285). -/
def State.codeFor (s : State) (w : Who) (a : Nat) : Code := s.codeAt (s.coreOf w) (s.launchId w) (s.plvOf w) a

/-- Is a word a `land`, by its opcode (DESIGN CHOICE, log 51: whatever its other fields)? -/
def isLand (w : W32) : Bool := bitsOf w.toNat 31 25 == 0x6C
/-- Is a word a `join`, by its opcode (DESIGN CHOICE, log 51: whatever its other fields)? -/
def isJoin (w : W32) : Bool := bitsOf w.toNat 31 25 == 0x6A

/-- The target of a B-format word at an address (R150). -/
def branchTarget (at_ : Nat) (off : Nat) : Nat := (BitVec.ofNat 64 at_ + BitVec.ofInt 64 (4 * sInt 20 off)).toNat

/-- The reason a target fails the checks of R294, in their order: 1 outside, 2 misaligned, 3 an overlay not resident, 4 no `land`. -/
def State.targetStep (s : State) (w : Who) (a : Nat) (land : Bool) : Nat :=
  match s.codeFor w a with
  | .outside => 1
  | .misaligned => 2
  | .missing => 3
  | .word x => if land && !(isLand x) then 4 else 0

/-- The trap of a uniform transfer's target (R288, R294). -/
def State.targetTrap (s : State) (w : Who) (a : Nat) (land : Bool) : Option Trap :=
  match s.targetStep w a land with
  | 0 => none
  | 3 => some (wholeTrap 0x05 0 a 0)
  | 4 => some (wholeTrap 0x06 3 a 0)
  | n => some (wholeTrap 0x06 n a 0)

/-- A uniform transfer (R288). -/
def goto (a : Nat) (land : Bool) (w : Who) (s : State) : Res :=
  match s.targetTrap w a land with
  | some t => .trap t
  | none => .ok s (some a) false

/-- The link register: s63, or g15 in the sequencer (R288). -/
def linkReg : Who → Nat | .car _ _ => 63 | .seq _ => 15

/-- Common fields of a control-flow instruction (R287, R295). -/
def opC (word : W32) (st : BitVec 2) (pr : Nat) (perThread seq : Bool) (dst src : List Reg) : Op :=
  { word := word, st := st.toNat, pr := pr, perThread := perThread, dst := dst, src := src, fixed := true, seq := seq, sv := false }

/-- Change a caravan's mask and stack. -/
def State.setPaths (s : State) (w : Who) (m : W32) (stack : List StackEntry) : State :=
  match w with
  | .car b n => s.modCar b n (fun c => { c with regs := { c.regs with m := m, stack := stack } })
  | .seq _ => s

/-- STACK_OVERFLOW. -/
def overflowTrap (depth : Nat) : Res := .trap (wholeTrap 0x07 depth 0 0)

/-- An entry of the stack. -/
def entryOf (pc mask rpc : Nat) (path : Bool) : StackEntry :=
  { pc := BitVec.ofNat 32 pc, mask := BitVec.ofNat 32 mask, rpc := BitVec.ofNat 32 rpc, path := path }

/-- `brd` (R290): its partner is read and checked before its target is. -/
def brdAt (off pr : Nat) (w : Who) (hs : List W32) (s : State) : Res :=
  match w with
  | .seq _ => .ok s none false
  | .car b n => match s.car? b n with
    | none => .stop .noAgent
    | some c =>
      let x := s.pcOf w
      let y := branchTarget x off
      let t := c.active pr (hintNegp hs)
      let f := c.regs.m &&& ~~~t
      if t = 0 then .ok s none false
      else
        let partner := if 4 ≤ y ∧ (y - 4) / 0x100000 = x / 0x100000 then s.codeFor w (y - 4) else .outside
        match partner with
        | .word j =>
          if !(isJoin j) then .trap (wholeTrap 0x06 5 y 0)
          else match s.targetTrap w y false with
            | some tr => .trap tr
            | none =>
              let rpc := branchTarget (y - 4) (bitsOf j.toNat 19 0)
              if f = 0 then .ok s (some y) false
              else if 30 < c.regs.stack.length then overflowTrap c.regs.stack.length
              else .ok (s.setPaths w f (entryOf y t.toNat rpc true :: entryOf rpc c.regs.m.toNat rpc false :: c.regs.stack)) none false
        | _ => .trap (wholeTrap 0x06 5 y 0)

/-- Resume (R291): the first entry with threads that have not exited: where it goes, its threads, and the stack below it. -/
def resumeFrom (e : W32) : List StackEntry → Option (Nat × W32 × List StackEntry)
  | [] => none
  | t :: rest =>
    let m := t.mask &&& ~~~e
    if m = 0 then resumeFrom e rest else some ((if t.path then t.pc else t.rpc).toNat, m, rest)

/-- Resume as an effect: the caravan goes on at the entry, or ends (R291, R292). -/
def resumeAt (w : Who) (e : W32) (stack : List StackEntry) (s : State) : Res :=
  match resumeFrom e stack with
  | none => .ok ((s.settleWho w).endMember w) none false
  | some (a, m, rest) =>
    match s.targetTrap w a false with
    | some t => .trap t
    | none => .ok (s.setPaths w m rest) (some a) false

/-- `join` (R291). -/
def joinAt (off : Nat) (w : Who) (s : State) : Res :=
  match w with
  | .seq _ => .ok s none false
  | .car b n => match s.car? b n with
    | none => .stop .noAgent
    | some c =>
      let rpc := branchTarget (s.pcOf w) off
      match c.regs.stack with
      | [] => goto rpc false w s
      | top :: _ => if top.rpc.toNat = rpc then resumeAt w c.regs.e c.regs.stack s else goto rpc false w s

/-- The groups of a `brx` (R293): distinct addresses ascending, each with its threads. The fall-through group and the threads that land at its
address are one group (DEDUCED, log 22: R293 does not say so). -/
def brxGroups (lanes : List (Nat × Nat)) : List (Nat × W32) :=
  (sortNat (lanes.foldl (fun acc l => insertNew l.2 acc) [])).map (fun a => (a, maskOf (fun t => lanes.any (fun l => l.1 == t && l.2 == a))))

/-- `brx` (R293, R294). -/
def brxAt (a pr : Nat) (w : Who) (hs : List W32) (s : State) : Res :=
  match w with
  | .seq _ => .ok s none false
  | .car b n => match s.car? b n with
    | none => .stop .noAgent
    | some c =>
      let act := c.active pr (hintNegp hs)
      let next := s.pcOf w + 4
      let lanes := (lanesOf act).map (fun t => (t, (vget (vget c.regs.v a) t).toNat))
      let steps := lanes.map (fun l => (l.1, l.2, s.targetStep w l.2 true))
      let low := steps.foldl (fun acc x => if x.2.2 = 0 then acc else min acc x.2.2) 9
      let failing := fun (bad : List (Nat × Nat)) (code sub addr : Nat) =>
        Res.trap { code := code, sub := sub, addr := BitVec.ofNat 64 addr, synd := 0, lanes := maskOf (fun t => bad.any (fun l => l.1 == t)),
                   lreason := if code = 0x06 then bad.foldl (fun acc l => acc + BitVec.ofNat 128 (sub * 2 ^ (4 * l.1))) 0 else 0 }
      if low < 9 then
        let bad := (steps.filter (fun x => x.2.2 == low)).map (fun x => (x.1, x.2.1))
        let first := (bad.head?.map (·.2)).getD 0
        if low = 3 then failing bad 0x05 0 (bad.foldl (fun acc l => min acc l.2) first)
        else failing bad 0x06 (if low = 4 then 3 else low) first
      else
        let rpcOf := fun (x : Nat) => match s.codeFor w x with | .word j => branchTarget x (bitsOf j.toNat 19 0) | _ => 0
        let lowest := lanes.foldl (fun acc l => min acc l.2) (2 ^ 64)
        let rpc := rpcOf lowest
        let bad := lanes.filter (fun l => rpcOf l.2 != rpc)
        if !bad.isEmpty then failing bad 0x06 4 ((bad.head?.map (·.2)).getD 0)
        else
          let fall := (lanesOf (c.regs.m &&& ~~~act)).map (fun t => (t, next))
          match brxGroups (lanes ++ fall) with
          | [] => .ok s none false
          | [g] => .ok s (some g.1) false
          | g :: rest =>
            if 32 < c.regs.stack.length + rest.length + 1 then overflowTrap c.regs.stack.length
            else
              let paths := rest.map (fun x => entryOf x.1 x.2.toNat rpc true)
              .ok (s.setPaths w g.2 (paths ++ entryOf rpc c.regs.m.toNat rpc false :: c.regs.stack)) (some g.1) false

/-- `exit` (R292). The pc of a sequencer that ends stays at the first word of its `exit`, where a save keeps it (log 29). -/
def exitAt (pr : Nat) (w : Who) (hs : List W32) (s : State) : Res :=
  match w with
  | .seq b => match s.block? b with
    | none => .stop .noAgent
    | some x => if (s.pendingMx x).isEmpty then .ok (s.endMember w) (some (s.pcOf w - 4 * hs.length)) false else .wait .array s
  | .car b n => match s.car? b n with
    | none => .stop .noAgent
    | some c =>
      let act := c.active pr (hintNegp hs)
      if act = 0 then .ok s none false
      else
        let s := s.settleWho w
        let e := c.regs.e ||| act
        let m := c.regs.m &&& ~~~act
        let s := s.modCar b n (fun y => { y with regs := { y.regs with e := e, m := m } })
        if m != 0 then .ok s none false else resumeAt w e c.regs.stack s

/-- `loop` (R288). -/
def loopAt (d i : Nat) (w : Who) (hs : List W32) (s : State) : Res :=
  let x := s.urd w d - 1
  if x = 0 then .ok (s.uwr w d x) none false
  else
    let a := (BitVec.ofNat 64 (s.pcOf w) + 4 * immValue hs i false).toNat
    (goto a false w s).andThen (fun s => .ok (s.uwr w d x) (some a) false)

/-- BRA (R288): Uniform branch on a condition. -/
def execBra (f : FmtB) (s : State) : Out :=
  issue (opC (0xD0000000 ||| encodeFmtB f) f.st f.pr.toNat false true [] []) (fun w _ s => goto (branchTarget (s.pcOf w) f.off.toNat) false w s) s

/-- BRD (R290): Divergent branch that pushes path and reconvergence entries. -/
def execBrd (f : FmtB) (s : State) : Out :=
  issue (opC (0xD2000000 ||| encodeFmtB f) f.st f.pr.toNat true false [] []) (fun w hs s => brdAt f.off.toNat f.pr.toNat w hs s) s

/-- JOIN (R291): Ends a diverged path, popping to the next path or reconvergence. -/
def execJoin (f : FmtBn) (s : State) : Out :=
  issue { opC (0xD4700000 ||| encodeFmtBn f) f.st 7 false false [] [] with negp := false } (fun w _ s => joinAt f.off.toNat w s) s

/-- BRX (R293): Per-thread indirect branch to landing points, pushing groups. -/
def execBrx (f : FmtA) (s : State) : Out :=
  issue (opC (0xD60C0000 ||| encodeFmtA f) f.st f.pr.toNat true false [] [.v f.a.toNat]) (fun w hs s => brxAt f.a.toNat f.pr.toNat w hs s) s

/-- BRX_U (R288): Uniform indirect branch to a land. -/
def execBrxU (f : FmtA) (s : State) : Out :=
  issue (opC (0xD60C0001 ||| encodeFmtA f) f.st f.pr.toNat false true [] [.u f.a.toNat]) (fun w _ s => goto (s.urd w f.a.toNat).toNat true w s) s

/-- RET (R288): Returns to the address in an s or g register. -/
def execRet (f : FmtA) (s : State) : Out :=
  issue (opC (0xD60C0002 ||| encodeFmtA f) f.st f.pr.toNat false true [] [.u f.a.toNat]) (fun w _ s => goto (s.urd w f.a.toNat).toNat false w s) s

/-- LAND (R293): Landing point no-operation carrying a reconvergence address. -/
def execLand (f : FmtBn) (s : State) : Out :=
  issue { opC (0xD8700000 ||| encodeFmtBn f) f.st 7 false true [] [] with negp := false } (fun _ _ s => .ok s none false) s

/-- CALL (R288): Writes the return address to s63 or g15 and branches. -/
def execCall (f : FmtB) (s : State) : Out :=
  issue (opC (0xDA000000 ||| encodeFmtB f) f.st f.pr.toNat false true [.u (linkReg s.cur)] []) (fun w _ s =>
    let a := branchTarget (s.pcOf w) f.off.toNat
    (goto a false w s).andThen (fun s => .ok (s.uwr w (linkReg w) (BitVec.ofNat 64 (s.pcOf w + 4))) (some a) false)) s

/-- LOOP (R288): Decrements a counter and branches while it is nonzero. -/
def execLoop (f : FmtDI) (s : State) : Out :=
  issue { opC (0xDC000000 ||| encodeFmtDI f) f.st f.pr.toNat false true [.u f.d.toNat] [.u f.d.toNat] with imm := true } (fun w hs s => loopAt f.d.toNat f.i.toNat w hs s) s

/-- EXIT (R292): Exits active threads, ending the caravan, sequencer or block when all have ended. -/
def execExit (f : FmtN) (s : State) : Out :=
  let per := match s.cur with | .car _ _ => true | .seq _ => false
  issue (opC (0xDE000000 ||| encodeFmtN f) f.st f.pr.toNat per true [] []) (fun w hs s => exitAt f.pr.toNat w hs s) s

end Sys2Proof.Machine
end

