-- ==== Sys2Proof/Machine/Tile.lean ====
section
/-! DEFINITION. Matrix instructions as the sequencer issues them (R265 to R277), and the vector caravans' tile moves and `setvb`
(R148, R281 to R284). -/
namespace Sys2Proof.Machine
open Sys2Proof

/-- Common fields of a matrix instruction (R266, R272, R295). -/
def opX (word : W32) (st : BitVec 2) (pr : BitVec 3) (ok : Bool) (tile : Nat) (src : List Reg) (sat : Bool) : Op :=
  { word := word, st := st.toNat, pr := pr.toNat, ok := ok, src := src, porter := false, vector := false, seq := true, sat := sat,
    sv := false, tile := some tile }

/-- The tiles checked for usability at issue (R272, R275). -/
def issueTiles (m : MxOp) : List Nat :=
  match m.kind with
  | .mzero => (List.range (m.a + 1)).map (m.d + ·)
  | .mst | .mstF | .mstI => [m.d, m.a]
  | _ => [m.d]

/-- The checks at issue (R275, R277): those of `mma.cv` wait for the meeting, but for its convoy slot (R272, R280). -/
def mxIssueTrap (s : State) (x : Block) (m : MxOp) : Option Trap :=
  if m.kind == .mmaCv then
    (if (x.convoyOf (shapeSlot m.ga1)).isNone then some (wholeTrap 0x21 0 0 (shapeSlot m.ga1)) else none)
  else match (sortNat (issueTiles m)).find? (fun t => !x.tileUsable t) with
    | some t => some (tileTrap t)
    | none => if m.kind == .mzero then none else mxCheck s x m false

/-- A matrix instruction given to the array (R266): the sequencer goes on when the array has read its operands, or under st2 = 3
when it has completed. -/
def matrixAt (m : Nat → Sequencer → MxOp) (w : Who) (s : State) : Res :=
  match w with
  | .car _ _ => .ok s none false
  | .seq b => match s.block? b, s.seq? b with
    | some x, some q =>
      let op := m b q
      let ready := (s.pendingMx x).all (fun y => y.stage == 2 && !y.hold)
      if q.given then
        (if ready then .ok (s.modSeq b (fun z => { z with given := false })) none false else .wait .array s)
      else match mxIssueTrap s x op with
        | some t => .trap t
        | none =>
          let s := s.modCore x.core (fun c => { c with array := c.array ++ [op] })
          let i := shapeSlot op.ga1
          let s := s.modSeq b (fun z => { z with
            given := true
            cv := if op.kind == .mmaCv then vset z.cv i (vget z.cv i + 1) else z.cv })
          .wait .array (s.queueEvent (.matrixTake x.core))
    | _, _ => .stop .noAgent

/-- A matrix instruction as it is issued. -/
def mxOp (k : MxKind) (d a : Nat) (ga ga1 gb : Word) (sat hold : Bool) (b : Nat) (q : Sequencer) : MxOp :=
  { blk := b, kind := k, d := d, a := a, ga := ga, ga1 := ga1, gb := gb, sat := sat, hold := hold, stage := 0, met := false,
    nth := if k == .mmaCv then vget q.cv (shapeSlot ga1) else 0, aFmt := 0, bFmt := 0, rows := [], cols := [], index := [] }

/-- `mma`, `mmag` and `mma.cv` (R274, R277). -/
def mmaOp (word : W32) (f : FmtW) (k : MxKind) : State → Out :=
  let pair := k != .mma
  let src := [Reg.u f.a.toNat, Reg.u f.b.toNat] ++ (if pair then [Reg.u (f.a.toNat + 1)] else [])
  issue (opX word f.st f.pr (f.d.toNat < 32 && !(pair && f.a.toNat % 2 == 1)) f.d.toNat src true) fun w hs s =>
    matrixAt (fun b q => mxOp k f.d.toNat 0 (q.rd f.a.toNat) (if pair then q.rd (f.a.toNat + 1) else 0) (q.rd f.b.toNat)
      (hintSat hs) (f.st == 3) b q) w s

/-- `mst.s` in its three forms (R276). -/
def mstOp (word : W32) (f : FmtW) (k : MxKind) : State → Out :=
  issue (opX word f.st f.pr (f.d.toNat < 32 && f.a.toNat < 32) (max f.d.toNat f.a.toNat) [.u f.b.toNat] true) fun w hs s =>
    matrixAt (fun b q => mxOp k f.d.toNat f.a.toNat 0 0 (q.rd f.b.toNat) (hintSat hs) (f.st == 3) b q) w s

/-! ## Tile moves -/

/-- Element e of slice i of a tile: a row, or a column (R148, R282). -/
def sliceAt (t : Tile) (col : Bool) (i e : Nat) : W32 := if col then tileAt t e i else tileAt t i e

/-- A tile with the elements of active threads replaced in a slice (R148, R282). -/
def sliceSet (t : Tile) (col : Bool) (i : Nat) (mask : W32) (v : VReg) : Tile :=
  tileOf (fun r c =>
    let e := if col then r else c
    if (if col then c else r) == i && bitAt mask (e / 2) then
      (vget v (e / 2)).extractLsb' (32 * (e % 2)) 32
    else tileAt t r c)

/-- Common fields of a tile move (R282). -/
def opT (word : W32) (f : FmtT) (dst src : List Reg) : Op :=
  { word := word, st := f.st.toNat, pr := f.pr.toNat, perThread := true, dst := dst, src := src, porter := false, sv := false,
    tile := some f.t.toNat }

/-- A slice's number (R282). -/
def sliceNo (s : State) (w : Who) (f : FmtT) : Nat := ((s.urd w f.i.toNat).toNat + f.m.toNat) % 64

/-- What stops a tile move with active threads: a tile not usable; or a targeted tile, for which it waits (R105, R281). -/
def tileReady (f : FmtT) (w : Who) (hs : List W32) (s : State) (go : Block → W32 → Res) : Res :=
  match s.block? (blkOf w) with
  | none => .stop .noAgent
  | some x =>
    let m := s.activeMask w f.pr.toNat hs
    if m = 0 then .ok s none false
    else if !(x.tileUsable f.t.toNat) then .trap (tileTrap f.t.toNat)
    else if s.targeted x f.t.toNat then .wait (.tile f.t.toNat 1) s
    else go x m

/-- A slice read (R282). -/
def sliceRead (word : W32) (f : FmtT) (col : Bool) : State → Out :=
  issue (opT word f [.v f.v.toNat] [.u f.i.toNat]) fun w hs s =>
    tileReady f w hs s fun x m =>
      let t := vget x.tiles f.t.toNat
      let i := sliceNo s w f
      let val := vtab (fun k => (sliceAt t col i (2 * k + 1) ++ sliceAt t col i (2 * k) : BitVec (32 + 32)))
      match w with
      | .car b n => .ok (s.modCar b n (fun c => { c with regs := c.regs.wrV f.v.toNat m val })) none false
      | .seq _ => .ok s none false

/-- A slice write (R282, R283): non-speculative before it, a checkpoint after. -/
def sliceWrite (word : W32) (f : FmtT) (col : Bool) : State → Out :=
  issue { opT word f [] [.u f.i.toNat, .v f.v.toNat] with fixed := true, ok := f.i != 0 } fun w hs s =>
    tileReady f w hs s fun x m =>
      let i := sliceNo s w f
      let v := s.vreg w f.v.toNat
      let s := s.settleWho w
      .ok (s.modBlock x.id (fun y => { y with tiles := vset y.tiles f.t.toNat (sliceSet (vget y.tiles f.t.toNat) col i m v) })) none true

/-- `setvb` to n registers (R284). -/
def setvbAt (n : Nat) (w : Who) (s : State) : Res :=
  match w with
  | .seq _ => .ok s none false
  | .car b k =>
    let s := (s.settleWho w).settleRegs w ((List.range (64 - n)).map (fun i => Reg.v (n + i)))
    match s.block? b, s.car? b k with
    | some x, some c =>
      let first := (k - x.porters) * x.tilesPer
      let lost := (List.range x.tilesPer).filter (fun i => x.positionFree c.vb i && !(x.positionFree n i))
      let gained := (List.range x.tilesPer).filter (fun i => x.positionFree n i && !(x.positionFree c.vb i))
      let stops := fun (i : Nat) => s.targeted x (first + i) || vget x.tiles (first + i) != Tile.zero
      if x.window < n * 256 then .trap (wholeTrap 0x08 3 0 (0x300 + n))
      else match lost.find? stops with
        | some i => .trap (wholeTrap 0x08 3 0 (0x200 + first + i))
        | none =>
          let low := min n c.vb
          let keep := Vector.ofFn (fun r : Fin 64 => if r.val < low then c.regs.v.get r else VReg.zero)
          let s := s.modCar b k (fun y => { y with vb := n, regs := { y.regs with v := keep } })
          .ok (gained.foldl (fun st i => st.setTile b (first + i) Tile.zero) s) none true
    | _, _ => .stop .noAgent

/-- MMA (R274): Issues a 64 × 64 × 384-byte matrix product accumulated into a tile. -/
def execMma (f : FmtW) (s : State) : Out :=
  mmaOp (0xE0080000 ||| encodeFmtW f) f .mma s

/-- MZERO (R273): Zeroes a run of tiles. -/
def execMzero (f : FmtDA) (s : State) : Out :=
  issue (opX (0xE00C0000 ||| encodeFmtDA f) f.st f.pr (f.d.toNat < 32 && f.a.toNat < 32) (f.d.toNat + f.a.toNat) [] false) (fun w _ s =>
    matrixAt (fun b q => mxOp .mzero f.d.toNat f.a.toNat 0 0 0 false (f.st == 3) b q) w s) s

/-- MMAG (R274): Issues a matrix product with A rows gathered by an index vector. -/
def execMmag (f : FmtW) (s : State) : Out :=
  mmaOp (0xE2080000 ||| encodeFmtW f) f .mmag s

/-- MST_S (R276): Scatters a tile's rows into rows of destination tiles. -/
def execMstS (f : FmtW) (s : State) : Out :=
  mstOp (0xE4000000 ||| encodeFmtW f) f .mst s

/-- MST_S_ADD_F32 (R276): Scatters a tile's rows, adding in f32. -/
def execMstSAddF32 (f : FmtW) (s : State) : Out :=
  mstOp (0xE4040000 ||| encodeFmtW f) f .mstF s

/-- MST_S_ADD_I32 (R276): Scatters a tile's rows, adding in i32. -/
def execMstSAddI32 (f : FmtW) (s : State) : Out :=
  mstOp (0xE4080000 ||| encodeFmtW f) f .mstI s

/-- MMA_CV (R277): Issues a member's share of a convoy-wide matrix product, waiting to meet the others. -/
def execMmaCv (f : FmtW) (s : State) : Out :=
  mmaOp (0xE6080000 ||| encodeFmtW f) f .mmaCv s

/-- MROW_READ (R282): Reads a tile row slice into a v register. -/
def execMrowRead (f : FmtT) (s : State) : Out :=
  sliceRead (0xE8000000 ||| encodeFmtT f) f false s

/-- MCOL_READ (R282): Reads a tile column slice into a v register. -/
def execMcolRead (f : FmtT) (s : State) : Out :=
  sliceRead (0xE8004000 ||| encodeFmtT f) f true s

/-- MROW_WRITE (R283): Writes a tile row slice from a v register, non-speculatively. -/
def execMrowWrite (f : FmtT) (s : State) : Out :=
  sliceWrite (0xEA000000 ||| encodeFmtT f) f false s

/-- MCOL_WRITE (R283): Writes a tile column slice from a v register, non-speculatively. -/
def execMcolWrite (f : FmtT) (s : State) : Out :=
  sliceWrite (0xEA004000 ||| encodeFmtT f) f true s

/-- SETVB (R284): Moves the caravan's VB, trading v registers against tile positions. -/
def execSetvb (f : FmtVb) (s : State) : Out :=
  issue { word := 0xEA000000 ||| encodeFmtVb f, st := f.st.toNat, pr := f.pr.toNat, porter := false, sv := false }
    (fun w _ s => setvbAt (8 * (f.m.toNat + 1)) w s) s

end Sys2Proof.Machine
end

