-- ==== Sys2Proof/Machine/Coherence.lean ====
section
/-! DEFINITION. Requests, invalidations, epochs, escort, uncorrectable errors and completions of what an agent has sent
(R159, R298, R316, R386 to R397), and the steps of copies and of the matrix array. -/
namespace Sys2Proof.Machine
open Sys2Proof

/-- The oldest result on its way to a register of an agent is written (R159); one that a held operation gives comes with it. -/
def State.writeback (s : State) (w : Who) : State :=
  match w with
  | .seq _ => s
  | .car b n => match s.car? b n with
    | none => s
    | some c => match (c.epochs.flatMap (·.pend)).find? (fun p => p.val != PVal.held) with
      | some p => s.settleRegs w [p.reg]
      | none => s

/-- Does an agent exist and go on? -/
def State.live (s : State) (w : Who) : Bool := match s.statusOf w with | some .ended => false | some _ => true | none => false

/-- The record of a member that a termination has stopped inside an access which then fails: delivered with the block's others once it has
drained (R339, R340). -/
def State.lateRecord (s : State) (w : Who) (t : Trap) : State :=
  s.modBlock (blkOf w) (fun x => if x.ended then x else { x with closing := x.closing.map (· ++ [faultRecord s w t]) })

/-- A completion for the host lane an atomic waits for (R95, R298). Once the last has come with success, every lane is performed in
ascending order (R233). Without success the lanes before it have performed, and it too where the host says so; the caravan takes
POISON_DATA, or leaves its record where its block is terminated. -/
def State.hostDone (s : State) (b n : Nat) (ok performed : Bool) : State :=
  match (s.car? b n).bind (·.io) with
  | none => s
  | some io => match io.pending with
    | none => s
    | some q =>
      let hosts := q.lanes.filter (fun x => x.seg.host)
      let put := fun (io : Option IoWait) (s : State) => s.modCar b n (fun c => { c with io := io })
      if ok then
        if q.done + 1 < hosts.length then put (some { io with pending := some { q with done := q.done + 1 } }) s
        else
          let (got, s) := amoLanes (.car b n) q.op q.bytes q.lanes s
          put (some { io with got := got, pending := none }) s
      else match hosts[q.done]? with
        | none => put none s
        | some x =>
          let before := q.lanes.takeWhile (fun y => y.lane != x.lane)
          let (_, s) := amoLanes (.car b n) q.op q.bytes (if performed then before ++ [x] else before) s
          let s := put none s
          let t : Trap := { code := 0x30, sub := 2, addr := BitVec.ofNat 64 x.seg.laneVa, synd := 0,
                            lanes := q.report.getD (maskOf (fun t => t == x.lane)), lreason := 0 }
          if s.live (.car b n) then s.takeTrap (.car b n) t else s.lateRecord (.car b n) t

/-- A segment of a streamed access performed: through its stream, or as any other access of a caravan that is not speculative. The bytes
read, if it reads. -/
def State.serveSeg (s : State) (r : StreamReq) (g : Seg) (data : Option (List Byte)) : List Byte × State :=
  let plain := fun (second : Option Nat) (tracked : Bool) => match data with
    | none => (s.seeSeg r.who g, s.cacheRead r.who r.bypass g)
    | some bs => ([], match g.loc with
      | .glob pa => if kindOf pa == .mmio then s.mmioWrite pa bs else s.perform r.who (.store g.loc bs second tracked)
      | .ls _ _ => s.perform r.who (.store g.loc bs second tracked))
  match g.leaf, g.loc with
  | some f, .glob pa => if f.slot != 0 then s.streamAccess r.tenant f.slot pa (g.va - f.base) data g.len
      else plain (f.secondOf g.va) f.tracked
  | _, _ => plain none true

/-- A lane of a streamed access performed: its segments in ascending address (R99, R319); the value a load gets. Each lane makes events of its
own, one for each chunk it touches, be the chunk another lane's too (DEDUCED, log 26: R99 speaks of an access by one thread, the example
after R230 counts chunks). -/
def State.serveLane (s : State) (r : StreamReq) (l : Nat × List Seg) : Nat × State :=
  let formatted := r.decode && l.2.any (fun g => match g.leaf with | some f => f.fmt != 0 | none => false)
  if formatted then
    (s.laneValue r.who true l.2, (s.fetched r.who true l.2).foldl (fun st g => st.cacheRead r.who r.bypass g) s)
  else
    let data := r.store.map (fun d => ((d.find? (fun x => x.1 == l.1)).map (·.2)).getD [])
    let (bs, s) := l.2.foldl (fun (acc : List Byte × State) g =>
      let (x, s) := acc.2.serveSeg r g (data.map (fun d => (d.drop g.off).take g.len))
      (acc.1 ++ x, s)) ([], s)
    (leNat bs, s)

/-- A streamed access performed (R109, R316): its lanes in ascending order (R101), unless bytes it would read are poisoned or out of
reach, which is its trap. One sent under an earlier incarnation number of its core is never performed (R399). -/
def State.streamServe (s : State) (id : Nat) : State :=
  match s.streams.find? (fun r => r.id == id) with
  | none => s
  | some r =>
    if !(s.currentStream r) then s else
    let s := { s with streams := s.streams.filter (fun x => x.id != id) }
    let read := r.lanes.map (fun l => (l.1, if r.store.isNone then s.served r.who r.decode l.2 else l.2))
    let s := match s.reachTrap r.who read r.store.isNone r.whole (fun _ => false) with
      | some t => if s.live r.who then (s.setIo r.who none).takeTrap r.who t else s.lateRecord r.who t
      | none =>
        let (got, s) := r.lanes.foldl (fun (acc : List (Nat × Word) × State) l =>
          let (x, s) := acc.2.serveLane r l
          (acc.1 ++ [(l.1, BitVec.ofNat 64 x)], s)) ([], s)
        match s.ioOf r.who with | some io => s.setIo r.who (some { io with got := got, pending := none }) | none => s
    s.dropClosed.finishClosing (blkOf r.who)

/-- The core that holds an accepted copy. -/
def State.copyHome (s : State) (id : Nat) : Option Nat :=
  (s.cores.find? (fun c => c.copies.any (fun y => y.id == id))).map (·.id)

/-- An uncorrectable error by where it lies (R397); its rollback counts among the core's, towards no escort (R396). -/
def State.eccError (s : State) (e : EccError) : State :=
  match e with
  | .fresh b n => (s.modCar b n (fun c => c.rollTo 0 false)).modCore (s.coreOf (.car b n)) (fun k => { k with rbTotal := k.rbTotal + 1 })
  | .lasting w array => if s.statusOf w == some .ended then s else s.takeTrap w (wholeTrap 0x30 3 0 array)
  | .line pa len => (List.range len).foldl (fun st i =>
      if (st.poisonAt (.glob (pa + i))).isSome then st
      else st.poisonByte (.glob (pa + i)) { pa := pa + i, cause := 0, first := 0, last := 0 }) s

/-- A request performed after it was turned back into a NACK leaves its response held at the home (R401). -/
def State.keepResponse (s : State) (tag : Nat) : State :=
  if s.nacked.contains tag then { s with responses := insertNew tag s.responses } else s

/-- SCOREBOARD_WRITEBACK (R159): A scoreboarded result arrives, is written and clears its pending mark. -/
def execScoreboardWriteback (who : Who) (s : State) : Out :=
  .next (s.writeback who)

/-- HOST_ATOMIC_COMPLETION (R298): A PCIe AtomicOp completion returns the old value or traps with POISON_DATA. -/
def execHostAtomicCompletion (blk car : Nat) (ok performed : Bool) (s : State) : Out :=
  .next ((s.hostDone blk car ok performed).finishClosing blk)

/-- Is a number a cache's: a core, a package of the pod, or the L2 of a compute die (log 16)? -/
def State.isCache (s : State) (cache : Nat) : Bool :=
  (s.core? cache).isSome || (512 ≤ cache && cache < 528) || (576 ≤ cache && cache < 580)

/-- Would a held operation reach a home that a die can no longer reach? -/
def State.heldLost (s : State) (die : Nat) : Held → Bool
  | .store l _ second _ => (s.homeLost die (s.homeOf l)).isSome || (second.any (fun a => (s.homeLost die (s.homeOf (.glob a))).isSome))
  | .copy c => c.reps.any (fun ps => ps.any (fun p => (s.pieceLost die p).isSome))
  | _ => false

/-- A home has been cut off: caravans go back to before what they hold for it, and the instruction traps as it issues again (R402). Such a
rollback counts as any other (R394, R395). -/
def State.cutOff (s : State) : State :=
  s.blocks.foldl (fun st x => x.cars.foldl (fun st c =>
    match c.epochs.findIdx? (fun e => e.acts.any (st.heldLost (dieOf x.core))) with
    | some k => (st.modCar x.id c.n (fun y => y.rollTo k true)).countRollback x.core
    | none => st) st) s

/-- The bytes of the span that a request carries, at their address: what lies outside the span it names is not written. -/
def requestBytes (src : Requester) (line first last : Nat) : Option (Nat × List Byte) :=
  src.store.filter (fun d => 4 * first ≤ d.1 && d.1 + d.2.length ≤ 4 * (last + 1) && last < 64) |>.map (fun d => (256 * line + d.1, d.2))

/-- A request of another package of the pod performed at a home here (R17, R387): the words are collected, and the bytes it stores, or returns
as their owner, are written as one event; where they lie the package keeps what it holds. -/
def State.remoteRequest (s : State) (src : Requester) (line first last : Nat) (own : Bool) : State :=
  let s := s.homePerform src.cache line first last own
  match requestBytes src line first last with
  | some (pa, bs) => if own then s.writeEvent none (.glob pa) bs else s
  | none => s

/-- A destination chunk of a message copy from a package of another pod is written as one event here (R17, R112, R352). -/
def State.messageWrite (s : State) (src : Requester) (line first last : Nat) : State :=
  match requestBytes src line first last with
  | some (pa, bs) => s.put none (.glob pa) bs none
  | none => s

/-- Is a number that of a package of another pod: 1024, 16 for each pod and the package's own (R17; log 16)? -/
def State.isFarPackage (s : State) (cache : Nat) : Bool := 1024 ≤ cache && cache < 1024 + 4096 && (cache - 1024) / 16 != s.mypod

/-- HOME_REQUEST (R387): The home slice performs a tracked request after invalidating and collecting the span. One from a fenced source, or
that carries another incarnation number than its source's, is dropped (R399); one from another package, of this pod or another, for a frame its
tenant does not own is refused (R357). Where the home can no longer be reached from the die of a core or an L2, the caravans that read the words go
back, to trap as they read again (R402). -/
def execHomeRequest (src : Requester) (line first last : Nat) (own : Bool) (s : State) : Out :=
  let c := src.cache
  let lost := fun (die : Nat) => (s.homeLost die (s.homeOf (.glob (256 * line)))).isSome
  let foreign := !(inTiers (256 * line)) || s.ownerOf (256 * line) != src.tenant
  if !(s.isCache c || s.isFarPackage c) then .fault .noUnit
  else if src.inc != s.incarnation c then .next s
  else if 1024 ≤ c then .next (if foreign then s else s.messageWrite src line first last)
  else if 512 ≤ c && c < 528 then
    .next (if s.fenced.contains (c - 512) || foreign then s else s.remoteRequest src line first last own)
  else if lost (if c < 512 then dieOf c else c - 576) then .next (s.reachCache c line (spanMask first last))
  else .next (s.homePerform c line first last own)

/-- The caravans of a core that hold a speculative store to a line take a checkpoint, before the line leaves L1 (R389). -/
def State.closeHolders (s : State) (core line : Nat) : State :=
  (s.blocks.filter (fun x => x.core == core)).foldl (fun st x => x.cars.foldl (fun st c =>
    if c.held.any (fun h => h.lines.contains line) && c.epochs.getLast?.any (fun e => e.acts.any (fun h => h.lines.contains line)) then
      (st.modCar x.id c.n Caravan.newEpoch).queueEvent (.epochCommit x.id c.n)
    else st) st) s

/-- INVALIDATION (R392): An invalidation, recall or eviction reaches a cache and rolls back caravans holding read marks. One that carries
another incarnation number than its source's is dropped (R399). -/
def execInvalidation (x : Inval) (line : Nat) (words : BitVec 64) (s : State) : Out :=
  if !(s.isCache x.cache) then .fault .noUnit
  else if x.inc != s.incarnation x.source then .next s
  else if words = BitVec.allOnes 64 then
    .next (((s.closeHolders x.cache line).modCore x.cache (fun c => { c with l1 := c.l1.filter (fun y => y.1 != line) })).giveUp x.cache line words)
  else .next (s.giveUp x.cache line words)

/-- An epoch's commit where a bind or unbind has had to wait (R326, R444): what is late is performed first; a held bind whose image has
become unreadable goes back to its issue, where it traps, by a rollback that counts (R394, R395); one that cannot be performed yet commits all the same, to be performed late. -/
def State.commitNext (s : State) (b n : Nat) (c : Caravan) : State :=
  let w := Who.car b n
  if !c.late.isEmpty then (State.serveLate w c.late s).finishClosing b
  else if s.bindStuck w then
    match c.epochs.findIdx? (fun e => e.acts.any (s.bindLost w)) with
    | some k => (s.modCar b n (fun x => x.rollTo k true)).countRollback (s.coreOf w)
    | none => s.commitAll b n
  else if c.epochs.head?.any (·.closed) then s.commitOldest b n else s

/-- EPOCH_COMMIT (R390): An epoch whose accesses have performed commits, placing stores and issuing held operations. -/
def execEpochCommit (blk car : Nat) (s : State) : Out :=
  match s.car? blk car with
  | none => .next s
  | some c => .next (s.commitNext blk car c)

/-- CORE_ESCORT_END (R395): Core-wide escort ends 27,000 cycles after the rollback that started it. -/
def execCoreEscortEnd (core : Nat) (s : State) : Out :=
  match s.core? core with
  | none => .fault .noUnit
  | some c => .next (if c.escEnd ≤ s.clk then s.modCore core (fun c => { c with escEnd := 0 }) else s)

/-- UNCORRECTABLE_ERROR (R397): A detected uncorrectable ECC error rolls back, terminates or poisons by location. -/
def execUncorrectableError (e : EccError) (s : State) : Out :=
  match e with
  | .fresh b n => .next (if s.live (.car b n) then s.eccError e else s)
  | .lasting w _ => .next (if s.live w then s.eccError e else s)
  | .line _ _ => .next (s.eccError e)

/-- COPY_TRANSFER (R237): A committed copy's transfer writes its destination chunks and arrives on its barrier. -/
def execCopyTransfer (id : Nat) (s : State) : Out :=
  match s.copyHome id with
  | none => .next s
  | some c => .next ((s.transfer c id).keepResponse id)

/-- MATRIX_TAKE (R267): The matrix array takes the next ready sequencer's matrix instruction. -/
def execMatrixTake (core : Nat) (s : State) : Out :=
  if (s.core? core).isSome then .next (s.arrayTake core) else .fault .noUnit

/-- MATRIX_OPERAND_READ (R105): The operand latch fills and the instruction's operand read event takes place. -/
def execMatrixOperandRead (core : Nat) (s : State) : Out :=
  if (s.core? core).isSome then .next (s.arrayRead core) else .fault .noUnit

/-- MATRIX_COMPLETE (R268): A matrix instruction writes its tiles and completes. -/
def execMatrixComplete (core : Nat) (s : State) : Out :=
  if (s.core? core).isSome then .next (s.arrayComplete core) else .fault .noUnit

/-- TRAP_ENTRY (R337): After earlier checkpoints commit, a trap is routed and entered or terminates the block. -/
def execTrapEntry (who : Who) (t : Trap) (s : State) : Out :=
  .next (if s.live who then s.takeTrap who t else s)

/-- WFE_TIMEOUT (R348): A wfe wait expires after its cycle count and writes 0. -/
def execWfeTimeout (blk car : Nat) (s : State) : Out :=
  match (s.car? blk car).bind (·.wfe) with
  | none => .next s
  | some v => .next (if v.deadline.isSome then s.modCar blk car (fun c => { c with wfe := some { v with timedOut := true } }) else s)

/-- STREAM_ACCESS (R316): A stream performs an access through its graph, one step per byte. -/
def execStreamAccess (id : Nat) (s : State) : Out :=
  .next (if s.streams.any (fun r => r.id == id) then (s.streamServe id).keepResponse id else s)

end Sys2Proof.Machine
end

