-- ==== Sys2Proof/Machine/Flags.lean ====
section
/-! DEFINITION. The conditions compares compute for predicates and conditions (R188, R196). -/
namespace Sys2Proof.Machine
open Sys2Proof

/-- Condition cond3 of w-bit values a and b (R188). -/
def intCond (cond w a b : Nat) : Bool :=
  match cond with
  | 0 => a == b
  | 1 => a != b
  | 2 => sInt w a < sInt w b
  | 3 => sInt w a ≤ sInt w b
  | 4 => a < b
  | 5 => a ≤ b
  | 6 => a &&& b != 0
  | _ => a &&& b == 0

end Sys2Proof.Machine
end

