-- ==== Sys2Proof/Machine/Float.lean ====
section
/-! DEFINITION. Instructions whose result is rounded with draws of the generator (R130 to R137). -/
namespace Sys2Proof.Machine
open Sys2Proof

/-- A per-thread instruction that rounds n elements a thread: each lane's value from its draws; GS moves on (R136). -/
def roundedOp (o : Op) (d n : Nat) (f : CRegs → Nat → List W32 → (Nat → Nat) → Word) : State → Out :=
  issue o (regEffect fun c hs x =>
    let m := c.active o.pr (hintNegp hs)
    let (ds, gs) := drawsFor (hintRm hs) n m x.gs
    { x.wrV d m (vtab fun t => f x t hs (drawAt ds n m t)) with gs := gs })

end Sys2Proof.Machine
end

