-- ==== Sys2Proof/Machine/VecFloat.lean ====
section
/-! DEFINITION. Vector floating point (R198 to R202). -/
namespace Sys2Proof.Machine
open Sys2Proof

/-- Common fields of a floating instruction: vector caravans only (R35). -/
def opF (word : W32) (st : BitVec 2) (pr : BitVec 3) (ok : Bool) (dst src : List Reg) : Op :=
  { opV word st pr ok dst src with porter := false }

/-- Element k of v register r in thread t, as a code of width w. -/
def laneElem (x : CRegs) (w r t k : Nat) : Nat := elem w (vget (vget x.v r) t) k

/-- A rounding arithmetic instruction (R199): `three` marks those that read d; `g` is the exact result from a, b and d, given
whether the mode is RDN. -/
def vecArith (word : W32) (fm : Fmt) (st : BitVec 2) (pr : BitVec 3) (ok : Bool) (d a b : BitVec 6) (three : Bool)
    (g : Bool → Num → Num → Num → Num) : State → Out :=
  roundedOp { opF word st pr ok [.v d.toNat] ([.v a.toNat, .v b.toNat] ++ (if three then [.v d.toNat] else [])) with rm := true, sat := true }
    d.toNat (64 / fm.width) (fun x t hs draw => ofElems fm.width (fun k =>
      let v := fun (r : BitVec 6) => fm.decode (laneElem x fm.width r.toNat t k)
      fm.round (hintRm hs) (hintSat hs) (draw k) (g (hintRm hs == 2) (v a) (v b) (v d))))

/-- `fmin` and `fmax` (R200). -/
def vecPick (word : W32) (fm : Fmt) (st : BitVec 2) (pr : BitVec 3) (ok : Bool) (d a b : BitVec 6) (greatest : Bool) : State → Out :=
  vecOp (opF word st pr ok [.v d.toNat] [.v a.toNat, .v b.toNat]) d.toNat a.toNat b.toNat
    (fun x y _ => ofElems fm.width (fun k => fm.pick greatest (elem fm.width x k) (elem fm.width y k)))

/-- `fsetp` (R201). -/
def vecSetp (word : W32) (fm : Fmt) (st : BitVec 2) (pr : BitVec 3) (ok : Bool) (cond : Nat) (q : BitVec 3) (a b : BitVec 6) : State → Out :=
  cmpOp (opF word st pr ok [.p q.toNat] [.v a.toNat, .v b.toNat]) q.toNat
    (fun x t => floatCond cond (fm.decode (laneElem x fm.width a.toNat t 0)) (fm.decode (laneElem x fm.width b.toNat t 0)))

/-- A floating unary form (R202): a function of each code. -/
def vecFun (word : W32) (fm : Fmt) (st : BitVec 2) (pr : BitVec 3) (ok : Bool) (d a : BitVec 6) (g : Nat → Nat) : State → Out :=
  vecOp (opF word st pr ok [.v d.toNat] [.v a.toNat]) d.toNat a.toNat a.toNat
    (fun x _ _ => ofElems fm.width (fun k => g (elem fm.width x k)))

/-- The sign bit of a code inverted. -/
def Fmt.flip (f : Fmt) (c : Nat) : Nat := c ^^^ 2 ^ (f.width - 1)
/-- The sign bit of a code cleared. -/
def Fmt.clear (f : Fmt) (c : Nat) : Nat := c % 2 ^ (f.width - 1)

/-- FADD (R199): Floating add in f16, f32 or f64, rounded once. -/
def execFadd (f : FmtR) (s : State) : Out :=
  vecArith (0x30000000 ||| encodeFmtR f) (.ofSize f.sz.toNat) f.st f.pr (f.sz != 0) f.d f.a f.b false
    (fun dn a b _ => a.add dn b) s

/-- FSUB (R199): Floating subtract in f16, f32 or f64. -/
def execFsub (f : FmtR) (s : State) : Out :=
  vecArith (0x32000000 ||| encodeFmtR f) (.ofSize f.sz.toNat) f.st f.pr (f.sz != 0) f.d f.a f.b false
    (fun dn a b _ => a.add dn b.neg) s

/-- FMUL (R199): Floating multiply in f16, f32 or f64. -/
def execFmul (f : FmtR) (s : State) : Out :=
  vecArith (0x34000000 ||| encodeFmtR f) (.ofSize f.sz.toNat) f.st f.pr (f.sz != 0) f.d f.a f.b false
    (fun _ a b _ => a.mul b) s

/-- FMA (R199): Fused multiply-add a × b + d with one rounding. -/
def execFma (f : FmtR) (s : State) : Out :=
  vecArith (0x36000000 ||| encodeFmtR f) (.ofSize f.sz.toNat) f.st f.pr (f.sz != 0) f.d f.a f.b true
    (fun dn a b d => (a.mul b).add dn d) s

/-- FMIN (R200): Floating minimum returning one operand unchanged. -/
def execFmin (f : FmtR) (s : State) : Out :=
  vecPick (0x38000000 ||| encodeFmtR f) (.ofSize f.sz.toNat) f.st f.pr (f.sz != 0) f.d f.a f.b false s

/-- FMAX (R200): Floating maximum returning one operand unchanged. -/
def execFmax (f : FmtR) (s : State) : Out :=
  vecPick (0x3A000000 ||| encodeFmtR f) (.ofSize f.sz.toNat) f.st f.pr (f.sz != 0) f.d f.a f.b true s

/-- FSETP (R201): Floating compare of sub-element 0 into a predicate. -/
def execFsetp (f : FmtCmp) (s : State) : Out :=
  vecSetp (0x3C000000 ||| encodeFmtCmp f) (.ofSize f.sz.toNat) f.st f.pr (f.sz != 0) f.c.toNat f.q f.a f.b s

/-- FNEG (R202): Inverts the sign bit. -/
def execFneg (f : FmtZDA) (s : State) : Out :=
  vecFun (0x3E000000 ||| encodeFmtZDA f) (.ofSize f.sz.toNat) f.st f.pr (f.sz != 0) f.d f.a (Fmt.ofSize f.sz.toNat).flip s

/-- FABS (R202): Clears the sign bit. -/
def execFabs (f : FmtZDA) (s : State) : Out :=
  vecFun (0x3E000001 ||| encodeFmtZDA f) (.ofSize f.sz.toNat) f.st f.pr (f.sz != 0) f.d f.a (Fmt.ofSize f.sz.toNat).clear s

/-- FCLASS (R202): Writes a bit mask naming each value's floating class. -/
def execFclass (f : FmtZDA) (s : State) : Out :=
  vecFun (0x3E000002 ||| encodeFmtZDA f) (.ofSize f.sz.toNat) f.st f.pr (f.sz != 0) f.d f.a (Fmt.ofSize f.sz.toNat).class s

/-- FADD_BF16 (R199): bf16 floating add. -/
def execFaddBf16 (f : FmtW) (s : State) : Out :=
  vecArith (0x40040000 ||| encodeFmtW f) .bf16 f.st f.pr true f.d f.a f.b false
    (fun dn a b _ => a.add dn b) s

/-- FSUB_BF16 (R199): bf16 floating subtract. -/
def execFsubBf16 (f : FmtW) (s : State) : Out :=
  vecArith (0x42040000 ||| encodeFmtW f) .bf16 f.st f.pr true f.d f.a f.b false
    (fun dn a b _ => a.add dn b.neg) s

/-- FMUL_BF16 (R199): bf16 floating multiply. -/
def execFmulBf16 (f : FmtW) (s : State) : Out :=
  vecArith (0x44040000 ||| encodeFmtW f) .bf16 f.st f.pr true f.d f.a f.b false
    (fun _ a b _ => a.mul b) s

/-- FMA_BF16 (R199): bf16 fused multiply-add. -/
def execFmaBf16 (f : FmtW) (s : State) : Out :=
  vecArith (0x46040000 ||| encodeFmtW f) .bf16 f.st f.pr true f.d f.a f.b true
    (fun dn a b d => (a.mul b).add dn d) s

/-- FMIN_BF16 (R200): bf16 minimum. -/
def execFminBf16 (f : FmtW) (s : State) : Out :=
  vecPick (0x48040000 ||| encodeFmtW f) .bf16 f.st f.pr true f.d f.a f.b false s

/-- FMAX_BF16 (R200): bf16 maximum. -/
def execFmaxBf16 (f : FmtW) (s : State) : Out :=
  vecPick (0x4A040000 ||| encodeFmtW f) .bf16 f.st f.pr true f.d f.a f.b true s

/-- FSETP_BF16 (R201): bf16 compare into a predicate. -/
def execFsetpBf16 (f : FmtCmpB) (s : State) : Out :=
  vecSetp (0x4C040000 ||| encodeFmtCmpB f) .bf16 f.st f.pr true f.c.toNat f.q f.a f.b s

/-- FNEG_BF16 (R202): bf16 sign inversion. -/
def execFnegBf16 (f : FmtDA) (s : State) : Out :=
  vecFun (0x4E040000 ||| encodeFmtDA f) .bf16 f.st f.pr true f.d f.a Fmt.bf16.flip s

/-- FABS_BF16 (R202): bf16 sign clear. -/
def execFabsBf16 (f : FmtDA) (s : State) : Out :=
  vecFun (0x4E040001 ||| encodeFmtDA f) .bf16 f.st f.pr true f.d f.a Fmt.bf16.clear s

/-- FCLASS_BF16 (R202): bf16 class mask. -/
def execFclassBf16 (f : FmtDA) (s : State) : Out :=
  vecFun (0x4E040002 ||| encodeFmtDA f) .bf16 f.st f.pr true f.d f.a Fmt.bf16.class s

end Sys2Proof.Machine
end

