-- ==== Sys2Proof/Machine/Convert.lean ====
section
/-! DEFINITION. Conversions, block scales and byte swizzles (R205 to R213). -/
namespace Sys2Proof.Machine
open Sys2Proof

/-- Is a code of R205 an integer type? Its signedness and width; the floating type otherwise. -/
def typeElem (c : Nat) : Option Elem :=
  if c < 8 then some (.int (c < 4) (8 * 2 ^ (c % 4)))
  else match c with
    | 8 => some (.flt .f16) | 9 => some (.flt .bf16) | 10 => some (.flt .f32) | 11 => some (.flt .f64) | _ => none

/-- Is sz2 the width of the wider of two types (R205)? -/
def widerIs (sz : Nat) (a b : Elem) : Bool := widthOf sz == max a.width b.width

/-- A conversion between two types (R205 to R207): value k from the low bits of slot k to the low bits of slot k. -/
def convertOp (word : W32) (st : BitVec 2) (pr : BitVec 3) (sz : BitVec 2) (d a : BitVec 6) (dest : Elem) (src : Option Elem) : State → Out :=
  let w := widthOf sz.toNat
  let from_ := src.getD dest
  roundedOp { opF word st pr (src.isSome && widerIs sz.toNat dest from_) [.v d.toNat] [.v a.toNat] with rm := true, sat := true }
    d.toNat (64 / w) (fun x t hs draw => ofElems w (fun k =>
      dest.code (hintRm hs) (hintSat hs) (draw k) (from_.value (laneElem x w a.toNat t k))))

/-- The element format sF names, none where it traps with FORMAT_MISMATCH (R208). -/
def scaleFmt (block : Bool) (x : Word) : Option Elem :=
  if 2 ^ 10 ≤ x.toNat || (block && bitsOf x.toNat 9 8 == 3) then none else elemOf (bitsOf x.toNat 7 0)

/-- An instruction that names its element format in s register b (R208): the format is an operand check, made where a thread is
active. -/
def formatOp (o : Op) (b : Nat) (block : Bool) (eff : Elem → Who → List W32 → State → Res) : State → Out :=
  issue o fun w hs s =>
    let live := match w with
      | .car k n => (match s.car? k n with | some c => c.active o.pr (hintNegp hs) != 0 | none => false)
      | .seq _ => false
    if live then
      match scaleFmt block (s.urd w b) with
      | some e => eff e w hs s
      | none => .trap (wholeTrap 0x13 0 0 0)
    else .ok s none false

/-- The code of element k of a thread's pair (R209). -/
def pairCode (e : Elem) (x : Word) (k : Nat) : Nat := elem e.width x k
/-- A thread's pair of codes with a shift count above them (R209, R211). -/
def pairWord (e : Elem) (c0 c1 : Nat) (shift : Nat) : Word := BitVec.ofNat 64 (c0 + c1 * 2 ^ e.width + shift * 2 ^ 56)

/-- Ceil(Log2(a / b)) of two positive finite values. -/
def ceilLog2 (a b : Num) : Int :=
  match a, b with
  | .fin _ m e, .fin _ n k =>
    -- the least i with m × 2^e ≤ n × 2^(k + i)
    let g : Int := (Nat.log2 m : Int) + e - (Nat.log2 n : Int) - k
    let fits := fun (i : Int) => let q := min e (k + i); scaled false m e q ≤ scaled false n (k + i) q
    if fits (g - 1) then g - 1 else if fits g then g else g + 1
  | _, _ => 0

/-- The shift count of a block (R211), from the values of its elements that active threads hold. -/
def blockShift (e : Elem) (xs : List Num) : Int :=
  if xs.all Num.isZero then -128
  else
    let mags := xs.filterMap (fun x => match x with | .fin _ m k => if m = 0 then none else some (Num.fin false m k) | _ => none)
    match mags with
    | [] => 0
    | m :: ms =>
      let amax := ms.foldl (fun a b => if a.lt b then b else a) m
      max (-127) (min 127 (ceilLog2 amax e.maxFinite))

/-- The shift count of thread t's block under `qblk` with blocks of 16 × 2^lb elements (R211). -/
def threadShift (e : Elem) (x : CRegs) (a lb : Nat) (active : W32) (t : Nat) : Int :=
  let per := 8 * 2 ^ lb
  let ts := (List.range 32).filter (fun u => u / per == t / per && bitAt active u)
  blockShift e (ts.flatMap (fun u => [0, 1].map (fun k => Fmt.f32.decode (laneElem x 32 a u k))))

/-- CVT_FLOAT (R206): Converts integer or floating values to a floating type with rounding. -/
def execCvtFloat (f : FmtCvtF) (s : State) : Out :=
  convertOp (0x52000000 ||| encodeFmtCvtF f) f.st f.pr f.sz f.d f.a ((typeElem (8 + f.e.toNat)).getD (.flt .f32)) (typeElem f.src.toNat) s

/-- CVT_INT (R207): Converts floating values to an integer type, saturating. -/
def execCvtInt (f : FmtCvtI) (s : State) : Out :=
  convertOp (0x54000000 ||| encodeFmtCvtI f) f.st f.pr f.sz f.d f.a ((typeElem f.e.toNat).getD (.flt .f32)) (typeElem (8 + f.src.toNat)) s

/-- CVT_X_F32 (R210): Converts f32 elements to the 8-bit or 4-bit format named by sF. -/
def execCvtXF32 (f : FmtW) (s : State) : Out :=
  formatOp { opF (0x56080000 ||| encodeFmtW f) f.st f.pr true [.v f.d.toNat] [.v f.a.toNat, .u f.b.toNat] with rm := true, sat := true }
    f.b.toNat false (fun e => regEffect fun c hs x =>
      let m := c.active f.pr.toNat (hintNegp hs)
      let (ds, gs) := drawsFor (hintRm hs) 2 m x.gs
      let code := fun t k => e.code (hintRm hs) (hintSat hs) (drawAt ds 2 m t k) (Fmt.f32.decode (laneElem x 32 f.a.toNat t k))
      { x.wrV f.d.toNat m (vtab fun t => pairWord e (code t 0) (code t 1) 0) with gs := gs }) s

/-- CVT_F32_X (R210): Converts 8-bit or 4-bit element codes to f32. -/
def execCvtF32X (f : FmtW) (s : State) : Out :=
  formatOp (opF (0x58080000 ||| encodeFmtW f) f.st f.pr true [.v f.d.toNat] [.v f.a.toNat, .u f.b.toNat]) f.b.toNat false
    (fun e => regEffect fun c hs x => x.wrV f.d.toNat (c.active f.pr.toNat (hintNegp hs))
      (vtab fun t => ofElems 32 (fun k => Fmt.f32.round 0 false 0 (e.value (pairCode e (vget (vget x.v f.a.toNat) t) k))))) s

/-- QBLK (R211): Computes block shift counts and quantises each block. -/
def execQblk (f : FmtW) (s : State) : Out :=
  formatOp { opF (0x5A080000 ||| encodeFmtW f) f.st f.pr true [.v f.d.toNat] [.v f.a.toNat, .u f.b.toNat] with fixed := false, multi := true, rm := true, sat := true }
    f.b.toNat true (fun e w hs s => match w with
      | .seq _ => .ok s none false
      | .car b n => match s.car? b n with
        | none => .ok s none false
        | some c =>
          let x := c.regs
          let m := c.active f.pr.toNat (hintNegp hs)
          let (ds, gs) := drawsFor (hintRm hs) 2 m x.gs
          let lb := bitsOf (x.rd c.plv f.b.toNat).toNat 9 8
          let y := vtab fun t =>
            let sh := threadShift e x f.a.toNat lb m t
            let code := fun k => if sh = -128 then 0
              else e.code (hintRm hs) (hintSat hs) (drawAt ds 2 m t k) ((Fmt.f32.decode (laneElem x 32 f.a.toNat t k)).scale (-sh))
            pairWord e (code 0) (code 1) (wrapInt 8 sh)
          .ok ((s.modCar b n (fun c => { c with regs := { c.regs with gs := gs } })).setPend w (.v f.d.toNat) (.v m y)) none false) s

/-- DQBLK (R212): Decodes block-scaled codes to f32. -/
def execDqblk (f : FmtW) (s : State) : Out :=
  formatOp (opF (0x5C080000 ||| encodeFmtW f) f.st f.pr true [.v f.d.toNat] [.v f.a.toNat, .u f.b.toNat]) f.b.toNat false
    (fun e => regEffect fun c hs x => x.wrV f.d.toNat (c.active f.pr.toNat (hintNegp hs)) (vtab fun t =>
      let y := vget (vget x.v f.a.toNat) t
      let sh := sInt 8 (y.toNat / 2 ^ 56)
      ofElems 32 (fun k => if sh = -128 then 0 else Fmt.f32.round 0 false 0 ((e.value (pairCode e y k)).scale sh)))) s

/-- SWZ (R213): Permutes bytes within each thread from A and D. -/
def execSwz (f : FmtW) (s : State) : Out :=
  vecOp (opF (0x5E000000 ||| encodeFmtW f) f.st f.pr true [.v f.d.toNat] [.v f.a.toNat, .v f.b.toNat, .v f.d.toNat]) f.d.toNat f.a.toNat f.b.toNat
    (fun a b d => ofElems 8 (fun i =>
      let x := elem 8 b i
      let y := if x % 16 < 8 then elem 8 a (x % 16) else elem 8 d (x % 16 - 8)
      if x / 128 = 1 then 0 else if x / 64 % 2 = 1 then (if y / 128 = 1 then 255 else 0) else y)) s

end Sys2Proof.Machine
end

