-- ==== Sys2Proof/Machine/System.lean ====
section
/-! DEFINITION. The system instructions and the system registers (R18 to R20, R329 to R350, R358, R396, R431 to R438), and the
hint words (R163 to R169). -/
namespace Sys2Proof.Machine
open Sys2Proof

/-- Common fields of a system instruction (R341). -/
def opY (word : W32) (st : BitVec 2) (pr : BitVec 3) (levels : List Nat) (dst src : List Reg) : Op :=
  { word := word, st := st.toNat, pr := pr.toNat, levels := levels, dst := dst, src := src, sv := false, ckpv := false }

/-- PERMISSION, sub-reason 2. -/
def levelTrap : Res := .trap (wholeTrap 0x11 2 0 0)

/-! ## System registers (R332) -/

/-- The levels at which a system register may be read or written; none for a number no chapter assigns. An `mtsr` to a read-only
register is allowed where a read is (R332). -/
def sysLevels (r : Nat) (write : Bool) : Option (List Nat) :=
  let any := [0, 1, 2]
  if r = 0x00 then some (if write then [1, 2] else any)
  else if r ≤ 0x03 then some [1, 2]
  else if r ≤ 0x05 then some (if write then [1] else any)
  else if r = 0x06 then some [1, 2]
  else if r = 0x07 then some any
  else if r ≤ 0x0F then some [1, 2]
  else if r ≤ 0x11 then some [1]
  else if r = 0x18 ∨ r = 0x19 then some [2]
  else if 0x20 ≤ r ∧ r ≤ 0x24 then some any
  else if 0x28 ≤ r ∧ r ≤ 0x2B then some [2]
  else if r = 0x30 then some [1, 2]
  else if r = 0x31 then some any
  else if r = 0x32 then some (if write then [1] else any)
  else if 0x34 ≤ r ∧ r ≤ 0x36 then some [1, 2]
  else if r = 0x40 then some any
  else if r = 0x41 then some [1, 2]
  else if r = 0x42 then some [2]
  else if 0x50 ≤ r ∧ r ≤ 0x53 then some [2]
  else if r = 0x56 ∨ r = 0x57 then some [2]
  else if 0x60 ≤ r ∧ r ≤ 0x6F then some [2]
  else none

/-- The process of an agent's space. -/
def State.procOf (s : State) (w : Who) : Option Proc := (s.vf? (s.spaceOf w).1).bind (fun f => f.proc? (s.spaceOf w).2)

/-- RBSTAT (R396). -/
def State.rbstat (s : State) (w : Who) (c : Caravan) : Nat :=
  let core := match s.core? (s.coreOf w) with | some k => decide (s.clk < k.escEnd) | none => false
  c.rbCur + (if c.rbEsc then 8 else 0) + (if core then 16 else 0) + 2 ^ 32 * c.rbTotal.toNat

/-- CORERB (R396). -/
def CoreSt.corerb (k : CoreSt) (clk : Nat) : Nat :=
  (if k.rbWindow = clk / 27000 then k.rbCount % 2 ^ 16 else 0) + (if clk < k.escEnd then 2 ^ 16 else 0) + 2 ^ 32 * (k.escEnd % 2 ^ 32)

/-- SYZSTAT of a port (R437). -/
def State.syzstat (s : State) (p : Nat) : Nat :=
  match s.links.find? (fun l => l.1 == p) with
  | some (_, l) => (if l.up then 1 else 0) + (if l.failed then 2 else 0) + 2 ^ 8 * (l.peer % 256) + 2 ^ 32 * l.retries.toNat
  | none => 0

/-- What a system register reads as (R18, R162, R332, R358, R396, R431, R433, R437, R438). -/
def State.sysValue (s : State) (w : Who) (c : Caravan) (r : Nat) : Nat :=
  let f := s.vf? (s.spaceOf w).1
  let l := s.launchOf w
  let k := s.core? (s.coreOf w)
  let ofF := fun (g : Vf → Nat) => match f with | some x => g x | none => 0
  let ofL := fun (g : Launch → Nat) => match l with | some x => g x | none => 0
  let ofK := fun (g : CoreSt → Nat) => match k with | some x => g x | none => 0
  let ofP := fun (g : Proc → Nat) => match s.procOf w with | some x => g x | none => 0
  match r with
  | 0x00 => (s.cstOf w c).toNat
  | 0x01 => c.epc.toNat
  | 0x02 => c.ecst.toNat
  | 0x03 => c.emask.toNat
  | 0x04 => ofF (fun x => x.tvec.toNat)
  | 0x05 => ofF (fun x => x.trapen.toNat)
  | 0x06 => ofL (·.cimg)
  | 0x07 => ofL (·.farea)
  | 0x10 => ofF (fun x => (vget x.bpa 0).toNat)
  | 0x11 => ofF (fun x => (vget x.bpa 1).toNat)
  | 0x18 => ofK (fun x => x.svec.toNat)
  | 0x20 => s.grade.toNat
  | 0x21 => s.lscap
  | 0x22 => 0x10000000
  | 0x23 => 0x8000000000
  | 0x24 => 0x20000000000
  | 0x28 => (vget s.dieen 0).toNat
  | 0x29 => (vget s.dieen 1).toNat
  | 0x2A => (vget s.dieen 2).toNat
  | 0x2B => (vget s.dieen 3).toNat
  | 0x30 => ofP (fun x => x.ptroot.toNat)
  | 0x31 => ofF (fun x => x.tenant % 256) + 2 ^ 8 * ofP (fun x => x.id % 256)
  | 0x32 => ofP (fun x => x.fmttab.toNat)
  | 0x34 => ofP (fun x => x.dhva.toNat)
  | 0x36 => ofP (fun x => x.dhstat.toNat)
  | 0x40 => s.rbstat w c
  | 0x41 => ofK (fun x => x.corerb s.clk)
  | 0x42 => ofK (fun x => x.rbTotal.toNat)
  | 0x50 => s.fw.bootwhy.toNat
  | 0x52 => s.fw.fwstat.toNat
  | 0x53 => s.fw.pwrcap.toNat
  | 0x56 => s.fw.sfring.toNat
  | 0x57 => ofK (·.stlaunch)
  | r => if 0x08 ≤ r ∧ r ≤ 0x0F then (vget c.frec (r - 8)).toNat else if 0x60 ≤ r ∧ r ≤ 0x6F then s.syzstat (r - 0x60) else 0

/-- Is a value one that an `mtsr` to a register takes? If not it traps with ILLEGAL_INSTRUCTION, sub-reason 1. -/
def State.sysTakes (s : State) (w : Who) (r : Nat) (x : Nat) : Bool :=
  match r with
  | 0x00 => bitsOf x 63 6 == 0
  | 0x04 => x == 0 || (x % 4 == 0 && 0x10000000 ≤ x && x ≤ 0x10007FFC)
  | 0x05 => bitsOf x 63 4 == 0
  | 0x10 => bitsOf x 1 1 == 0 && bitsOf x 63 32 == 0
  | 0x11 => bitsOf x 1 1 == 0 && bitsOf x 63 32 == 0
  | 0x32 => x % 2048 == 0
  | 0x35 => (x == 1 || x == 2) && !(match s.procOf w with | some p => bitsOf p.dhstat.toNat 1 0 == 1 | none => false)
  | 0x51 => x == 1 || x == 2
  | _ => true

/-- The effect of an `mtsr` (R162, R332, R358, R431, R433, R437, R438); writes that start something queue its step. BPA0 and BPA1
are a virtual function's, as TVEC and TRAPEN are (DEDUCED, log 27: the table gives them no scope). -/
def State.sysWrite (s : State) (w : Who) (r : Nat) (x : Word) : State :=
  let (vf, proc) := s.spaceOf w
  let core := s.coreOf w
  let car := fun (g : Caravan → Caravan) => match w with | .car b n => s.modCar b n g | .seq _ => s
  match r with
  | 0x00 => car (fun c => { c with cst := (c.cst &&& ~~~7) ||| (x &&& 7) })
  | 0x01 => car (fun c => { c with epc := x })
  | 0x02 => car (fun c => { c with ecst := x })
  | 0x03 => car (fun c => { c with emask := x.setWidth 32 })
  | 0x04 => s.modVf vf (fun f => { f with tvec := x })
  | 0x05 => s.modVf vf (fun f => { f with trapen := x })
  | 0x10 => s.modVf vf (fun f => { f with bpa := vset f.bpa 0 x })
  | 0x11 => s.modVf vf (fun f => { f with bpa := vset f.bpa 1 x })
  | 0x18 => s.modCore core (fun k => { k with svec := x })
  | 0x19 => s.queueEvent (.wake x)
  | 0x32 => s.modProc vf proc (fun p => { p with fmttab := x })
  | 0x34 => s.modProc vf proc (fun p => { p with dhva := x })
  | 0x35 => s.queueEvent (if x = 1 then .dhctlSync vf proc else .dhctlSwitch vf proc)
  | 0x51 => s.queueEvent (if x = 1 then .fwctlReady else .fwctlActivate)
  | 0x53 => s.queueEvent (.pwrcap x)
  | 0x56 => { s with fw := { s.fw with sfring := x, sfNext := 0 } }
  | 0x57 => s.queueEvent (.stlaunch core x)
  | r => if 0x60 ≤ r ∧ r ≤ 0x6F ∧ x.getLsbD 1 then s.queueEvent (.syzstatRetrain (r - 0x60)) else s

/-- What the issue path needs of an access to a system register (R36, R332): its number is assigned, and its levels. -/
def opSys (word : W32) (st : BitVec 2) (pr : BitVec 3) (r : Nat) (write : Bool) (dst src : List Reg) : Op :=
  { opY word st pr ((sysLevels r write).getD []) dst src with ok := (sysLevels r write).isSome }

/-- `mfsr` (R333). -/
def mfsrAt (d r : Nat) (w : Who) (s : State) : Res :=
  match w with
  | .seq _ => .ok s none false
  | .car b n => match s.car? b n with
    | none => .stop .noAgent
    | some c => .ok (s.uwr w d (BitVec.ofNat 64 (s.sysValue w c r))) none false

/-- `mtsr` (R333). -/
def mtsrAt (word : W32) (place r : Nat) (x : Word) (w : Who) (s : State) : Res :=
  if !(s.sysTakes w r x.toNat) then .trap (illegal 1 word place)
  else .ok ((s.settleWho w).sysWrite w r x) none true

/-! ## `eret` (R338) -/

/-- The trap of an `eret`'s target (R294, steps 1 to 3), at the level it returns to. -/
def State.returnTrap (s : State) (w : Who) (lvl a : Nat) : Option Trap :=
  match s.codeAt (s.coreOf w) (s.launchId w) lvl a with
  | .outside => some (wholeTrap 0x06 1 a 0)
  | .misaligned => some (wholeTrap 0x06 2 a 0)
  | .missing => some (wholeTrap 0x05 0 a 0)
  | .word _ => none

/-- `eret`, with NOBP or TERM (R338). A level that the core does not run (R329) is none to return to. -/
def eretAt (word : W32) (place : Nat) (nobp term : Bool) (w : Who) (s : State) : Res :=
  match w with
  | .seq _ => .ok s none false
  | .car b n => match s.car? b n with
    | none => .stop .noAgent
    | some c =>
      let lvl := bitsOf c.ecst.toNat 5 4
      let m := c.emask &&& ~~~c.regs.e
      let steward := isSteward (s.coreOf w)
      if c.plv < lvl || (steward && lvl == 1) || bitsOf c.ecst.toNat 63 6 != 0 || m == 0 then .trap (illegal 1 word place)
      else
        let s := s.settleWho w
        if term then
          .ok (if steward then (s.stewardRecord c.frec).endMember w else s.terminate b (some c.frec)) none false
        else match s.returnTrap w lvl c.epc.toNat with
          | some t => .trap t
          | none =>
            .ok (s.modCar b n (fun y => { y with cst := (c.ecst &&& ~~~8) ||| (if y.rbEsc then 8 else 0), nobp := nobp, regs := { y.regs with m := m } })) (some c.epc.toNat) true

/-! ## Translations, caches and cores -/

/-- Does an operation of `tlbi` remove the translations of a space: KIND 0 and 1 those of one, KIND 2 those of a tenant? -/
def State.tlbiSpace (s : State) (kind ten : Nat) (own : Nat × Nat) (vf proc : Nat) : Bool :=
  if kind = 2 then (match s.vf? vf with | some f => f.tenant == ten | none => false) else own == (vf, proc)

/-- Caravans of the spaces settle what they hold, their accepted copies arrive, their streamed accesses are performed, and the entries are gone (R343, R361); a window whose
leaf is closed is over (R363). -/
def State.tlbiDo (s : State) (w : Who) (kind ten va : Nat) : State :=
  let own := s.spaceOf w
  let mine := (s.blocks.filter (fun x => match s.launch? x.launch with
    | some l => s.tlbiSpace kind ten own l.vf l.proc
    | none => false)).map (·.id)
  let s := mine.foldl (fun st b => match st.block? b with
    | some x => x.cars.foldl (fun st c => if c.status == Status.ended then st else st.commitAll b c.n) st
    | none => st) s
  let s := mine.foldl State.drainCopies s
  let s := ((s.streams.filter (fun r => mine.contains (blkOf r.who))).map (·.id)).foldl State.streamServe s
  let open_ := fun (f : Vf) (p : Proc) => match s.walk f.id p.id p.dhva.toNat with | .leaf l => l.pa2.isSome | .bad _ _ => false
  { s with
    cores := s.cores.map (fun (k : CoreSt) => { k with tlb := k.tlb.filter (fun (e : TlbEntry) =>
      !(s.tlbiSpace kind ten own e.vf e.proc && (kind != 0 || (e.va ≤ va && va < e.va + e.leaf.size)))) })
    vfs := s.vfs.map (fun f => { f with procs := f.procs.map (fun p => if p.switched && !(open_ f p) then { p with switched := false } else p) }) }

/-- `tlbi` of a kind, from its scope word and address (R343). It waits until no caravan has stores that a bind or unbind keeps late, nor an
atomic at the host (R361). -/
def tlbiAt (word : W32) (place scope va : Nat) (w : Who) (s : State) : Res :=
  let kind := bitsOf scope 1 0
  if bitsOf scope 63 16 != 0 || bitsOf scope 7 2 != 0 || kind == 3 then .trap (illegal 1 word place)
  else if kind == 2 && s.plvOf w == 1 then levelTrap
  else
    let s := s.settleWho w
    if s.anyLate || s.atHost then .wait .epoch s else .ok (s.tlbiDo w kind (bitsOf scope 15 8) va) none true

/-- A line leaves every cache of this package, and none of another's: marked readers are told as of an invalidation (R346, R392); the die cache
keeps it where an entered bundle holds it (R89), which shows in no value. -/
def State.flushLine (s : State) (line : Nat) : State :=
  let here := (s.sharers line).filter (fun r => (cacheDie r.cache).isSome)
  let s := here.foldl (fun st r => st.giveUp r.cache line (BitVec.allOnes 64)) s
  { s with cores := s.cores.map (fun (k : CoreSt) =>
      { k with l1 := k.l1.filter (fun y => y.1 != line), consts := k.consts.filter (fun y => y.2.1 != line) }) }

/-- `cacheop` (R346). An address with no translation names no line. -/
def cacheopAt (word : W32) (place op va : Nat) (w : Who) (s : State) : Res :=
  if 3 ≤ op then .trap (illegal 1 word place)
  else
    let s := s.settleWho w
    let core := s.coreOf w
    let (vf, proc) := s.spaceOf w
    let line := if localRegion ≤ va then none else
      match s.lookup core vf proc va with | .leaf l => some (l.paOf va / 256) | .bad _ _ => none
    let s := match op, line with
      | 0, some ln => s.modCore core (fun k => { k with l1 := k.l1.filter (fun y => y.1 != ln) })
      | 1, some ln => s.flushLine ln
      | 2, _ => s.modCore core (fun k => { k with l1 := [] })
      | _, _ => s
    .ok s none true

/-- Is a core site of a die enabled by its fuse (R20)? -/
def State.siteOn (s : State) (die site : Nat) : Bool := site < 48 && die < 4 && (vget s.dieen die).getLsbD site

/-- `scrub` (R347), which waits for its completion; the caravan's record of it stands in its io. -/
def scrubAt (d x : Nat) (w : Who) (s : State) : Res :=
  let s := s.settleWho w
  let answer := fun (st : Nat) (s : State) => Res.ok (s.uwr w d (BitVec.ofNat 64 st)) none true
  let core := 64 * bitsOf x 9 8 + bitsOf x 5 0
  match s.ioOf w with
  | some io => .ok (s.writeIo w io) none true
  | none =>
  if bitsOf x 63 10 != 0 || bitsOf x 7 6 != 0 then answer 3 s
  else if !(s.siteOn (bitsOf x 9 8) (bitsOf x 5 0)) then answer 2 s
  else if s.occupied core then answer 1 s
  else .wait (.scrub core) ((s.scrubCore core).setIo w (some { got := [(0, 0)], pending := none, dest := .u d }))

/-! ## `ovld` (R344) -/

/-- Bytes of the instruction scratchpad in use (R286). -/
def CoreSt.scratchUsed (k : CoreSt) : Nat :=
  k.images.foldl (fun acc i => acc + 4 * i.2.length) 0 + k.overlays.foldl (fun acc o => acc + 4 * o.words.length) 0

/-- Code addresses that keep an overlay: the pc of a member, and the pc and rpc of its stack entries (R344). -/
def Block.codeHeld (x : Block) : List Nat :=
  x.liveCars.flatMap (fun c => c.regs.pc.toNat :: c.regs.stack.flatMap (fun e => [e.pc.toNat, e.rpc.toNat])) ++
  (match x.seq with | some q => if q.status == Status.ended then [] else [q.pc.toNat] | none => [])

/-- May `ovld` evict an overlay of a core? -/
def State.evictable (s : State) (core : Nat) (o : Overlay) : Bool :=
  let here := s.blocks.filter (fun x => x.core == core && x.launch == o.launch && !x.ended)
  (o.n != 0 || here.isEmpty) && !(here.any (fun x => x.codeHeld.any (fun a => a < 2 ^ 28 && bitsOf a 27 20 == o.n)))

/-- The overlays left after evicting, least recently loaded first, until n bytes fit; none where they never do. -/
def State.makeRoom (s : State) (core n : Nat) : Nat → CoreSt → Option CoreSt
  | 0, k => if k.scratchUsed + n ≤ 0x40000 then some k else none
  | fuel + 1, k =>
    if k.scratchUsed + n ≤ 0x40000 then some k
    else match k.overlays.findIdx? (s.evictable core) with
      | some i => s.makeRoom core n fuel { k with overlays := k.overlays.eraseIdx i }
      | none => none

/-- `ovld` (R344). -/
def ovldAt (d addr desc : Nat) (w : Who) (s : State) : Res :=
  let s := s.settleWho w
  let n := bitsOf desc 7 0
  let len := bitsOf desc 50 32
  let core := s.coreOf w
  let launch := s.launchId w
  let answer := fun (st : Nat) (s : State) => Res.ok (s.uwr w d (BitVec.ofNat 64 st)) none true
  match s.core? core with
  | none => .stop .noUnit
  | some k =>
    if bitsOf desc 31 8 != 0 || bitsOf desc 63 51 != 0 || len == 0 || 0x40000 < len || len % 4 != 0 || addr % 256 != 0 then answer 3 s
    else if k.overlays.any (fun o => o.launch == launch && o.n == n) then answer 1 s
    else match s.makeRoom core len k.overlays.length k with
      | none => answer 2 s
      | some k' => match s.readUnits w [] 4 addr (len / 4) with
        | (some t, _, _) => .trap t
        | (none, bs, s) =>
          let o : Overlay := { launch := launch, n := n, words := imageWords bs }
          answer 0 (s.modCore core (fun k => { k with overlays := k'.overlays ++ [o] }))

/-! ## `wfe` and `halt` (R348, R349) -/

/-- The place `wfe` watches, or its trap: a load's address check, then PERMISSION, sub-reason 4, for a chunk elsewhere. On a page of an unbound
stream slot that is 4 and not a load's PAGE_NOT_PRESENT, while a page of another pod keeps a load's sub-reason 5 (DESIGN CHOICE, log 28: R348
gives both checks, and neither an order for these). -/
def State.wfePlace (s : State) (w : Who) (va : Nat) : Except Trap Seg :=
  let (fails, segs) := s.checkLane w { read := true, size := 1 } va
  let own := fails.filter (fun f => f.rank ≤ 2 && !(f.code == 0x10 && f.sub == 3))
  match firstFail own, segs with
  | some f, _ => .error (wholeTrap f.code f.sub f.addr f.synd)
  | none, g :: _ =>
    let ok := match g.loc, g.leaf with
      | .ls _ _, _ => true
      | .glob pa, some l => l.tracked && l.fmt == 0 && l.slot == 0 &&
          (match kindOf pa with | .tier1 | .tier2 | .pod _ => true | _ => false)
      | .glob _, none => false
    if ok then .ok g else .error (wholeTrap 0x11 4 va 0)
  | none, [] => .error (wholeTrap 0x11 4 va 0)

/-- The aligned chunk of a watched place (R348), as a read of its 64 bytes. -/
def Seg.whole (g : Seg) : Seg := { g with off := 0, len := 64, va := g.va / 64 * 64, loc := g.loc.chunk }

/-- `wfe` (R348). Its read leaves no mark: the caravan is non-speculative and waits for the write itself. What stops a load's bytes stops
those of the chunk (R397, R402). -/
def wfeAt (d va timeout : Nat) (w : Who) (s : State) : Res :=
  match w with
  | .seq _ => .ok s none false
  | .car b n => match s.car? b n with
    | none => .stop .noAgent
    | some c =>
      let done := fun (x : Nat) (s : State) =>
        Res.ok ((s.modCar b n (fun y => { y with wfe := none })).uwr w d (BitVec.ofNat 64 x)) none true
      match c.wfe with
      | some v => done (if v.woken then 1 else 0) s
      | none => match s.wfePlace w va with
        | .error t => .trap t
        | .ok g =>
          let s := s.settleWho w
          match s.reachTrap w [(0, [g.whole])] true true (fun _ => false) with
          | some t => .trap t
          | none =>
          let s := s.request (s.coreOf w) g.whole false
          let (vf, proc) := s.spaceOf w
          let s := if g.leaf.isSome then s.fillTlb (s.coreOf w) vf proc va else s
          if timeout = 0 then done 0 s
          else
            let v : WfeWait := { chunk := g.loc.chunk, deadline := if timeout = 2 ^ 64 - 1 then none else some (s.clk + timeout),
                                 woken := false, timedOut := false }
            .wait .chunk (s.modCar b n (fun y => { y with wfe := some v }))

/-! ## Hint words (R163) -/

/-- A hint word issues: it joins the open group and takes a slot. What is wrong with it is found with the instruction it modifies (R36). -/
def hintWord (word : W32) (s : State) : Out :=
  let w := s.cur
  if (s.statusOf w).isNone then .fault .noAgent
  else
    let s := (s.setPc w (s.pcOf w + 4) (s.hintsOf w ++ [word])).setFix w (spaced (s.fixOf w) 0)
    .next { s with clk := s.clk + 2 }

/-- SVC (R342): Raises SVC with the service number. -/
def execSvc (f : FmtS) (s : State) : Out :=
  issue (opY (0xEC000000 ||| encodeFmtS f) f.st f.pr [0] [] []) (fun _ _ _ => .trap (wholeTrap 0x40 f.n.toNat 0 0)) s

/-- ERET (R338): Returns from a handler to EPC with ECST and EMASK. -/
def execEret (f : FmtN) (s : State) : Out :=
  issue (opY (0xEE000000 ||| encodeFmtN f) f.st f.pr [1, 2] [] [])
    (fun w hs s => eretAt (0xEE000000 ||| encodeFmtN f) hs.length false false w s) s

/-- ERET_NOBP (R338): Returns from a handler, exempting the next hint group from breakpoints. -/
def execEretNobp (f : FmtN) (s : State) : Out :=
  issue (opY (0xEE000001 ||| encodeFmtN f) f.st f.pr [1, 2] [] [])
    (fun w hs s => eretAt (0xEE000001 ||| encodeFmtN f) hs.length true false w s) s

/-- ERET_TERM (R338): Terminates the block with the record in FREC, whether or not NOBP stands beside TERM (R341). -/
def execEretTerm (f : FmtTm) (s : State) : Out :=
  issue (opY (0xEE000002 ||| encodeFmtTm f) f.st f.pr [1, 2] [] [])
    (fun w hs s => eretAt (0xEE000002 ||| encodeFmtTm f) hs.length false true w s) s

/-- MFSR (R333): Reads a system register. -/
def execMfsr (f : FmtDI) (s : State) : Out :=
  issue (opSys (0xF0000000 ||| encodeFmtDI f) f.st f.pr f.i.toNat false [.u f.d.toNat] [])
    (fun w _ s => mfsrAt f.d.toNat f.i.toNat w s) s

/-- MTSR (R333): Writes a system register non-speculatively, followed by a checkpoint. -/
def execMtsr (f : FmtAI) (s : State) : Out :=
  issue (opSys (0xF2000000 ||| encodeFmtAI f) f.st f.pr f.r.toNat true [] [.u f.a.toNat])
    (fun w hs s => mtsrAt (0xF2000000 ||| encodeFmtAI f) hs.length f.r.toNat (s.urd w f.a.toNat) w s) s

/-- TLBI_PAGE (R343): Invalidates translations of one page of the space, waiting for every die. -/
def execTlbiPage (f : FmtDA) (s : State) : Out :=
  issue (opY (0xF40C0000 ||| encodeFmtDA f) f.st f.pr [1, 2] [] [.u f.d.toNat, .u f.a.toNat])
    (fun w hs s => tlbiAt (0xF40C0000 ||| encodeFmtDA f) hs.length (s.urd w f.d.toNat).toNat (s.urd w f.a.toNat).toNat w s) s

/-- TLBI_SPACE (R343): Invalidates every translation of the caravan's space. -/
def execTlbiSpace (f : FmtDA) (s : State) : Out :=
  issue (opY (0xF40C0000 ||| encodeFmtDA f) f.st f.pr [1, 2] [] [.u f.d.toNat, .u f.a.toNat])
    (fun w hs s => tlbiAt (0xF40C0000 ||| encodeFmtDA f) hs.length (s.urd w f.d.toNat).toNat (s.urd w f.a.toNat).toNat w s) s

/-- TLBI_TENANT (R343): Invalidates every translation of a tenant, at steward level. -/
def execTlbiTenant (f : FmtDA) (s : State) : Out :=
  issue (opY (0xF40C0000 ||| encodeFmtDA f) f.st f.pr [1, 2] [] [.u f.d.toNat, .u f.a.toNat])
    (fun w hs s => tlbiAt (0xF40C0000 ||| encodeFmtDA f) hs.length (s.urd w f.d.toNat).toNat (s.urd w f.a.toNat).toNat w s) s

/-- SCRUB (R347): Writes back and zeroes every state of a physical core. -/
def execScrub (f : FmtDA) (s : State) : Out :=
  issue (opY (0xF40C0001 ||| encodeFmtDA f) f.st f.pr [2] [.u f.d.toNat] [.u f.a.toNat])
    (fun w _ s => scrubAt f.d.toNat (s.urd w f.a.toNat).toNat w s) s

/-- OVLD (R344): Makes an overlay resident on the core, evicting as needed, and returns a status. -/
def execOvld (f : FmtDA) (s : State) : Out :=
  issue { opY (0xF40C0002 ||| encodeFmtDA f) f.st f.pr [1] [.u f.d.toNat] [.u f.a.toNat, .u (f.a.toNat + 1)] with ok := f.a.toNat % 2 == 0 }
    (fun w _ s => ovldAt f.d.toNat (s.urd w f.a.toNat).toNat (s.urd w (f.a.toNat + 1)).toNat w s) s

/-- CACHEOP_DROP_LINE (R346): Drops the clean untracked L1 line holding an address. -/
def execCacheopDropLine (f : FmtDA) (s : State) : Out :=
  issue (opY (0xF40C0003 ||| encodeFmtDA f) f.st f.pr [1, 2] [] [.u f.d.toNat, .u f.a.toNat])
    (fun w hs s => cacheopAt (0xF40C0003 ||| encodeFmtDA f) hs.length (s.urd w f.d.toNat).toNat (s.urd w f.a.toNat).toNat w s) s

/-- CACHEOP_WRITEBACK (R346): Writes back a line and removes it from every cache of the package. -/
def execCacheopWriteback (f : FmtDA) (s : State) : Out :=
  issue (opY (0xF40C0003 ||| encodeFmtDA f) f.st f.pr [1, 2] [] [.u f.d.toNat, .u f.a.toNat])
    (fun w hs s => cacheopAt (0xF40C0003 ||| encodeFmtDA f) hs.length (s.urd w f.d.toNat).toNat (s.urd w f.a.toNat).toNat w s) s

/-- CACHEOP_DROP_ALL (R346): Drops every clean untracked line of the core's L1. -/
def execCacheopDropAll (f : FmtDA) (s : State) : Out :=
  issue (opY (0xF40C0003 ||| encodeFmtDA f) f.st f.pr [1, 2] [] [.u f.d.toNat, .u f.a.toNat])
    (fun w hs s => cacheopAt (0xF40C0003 ||| encodeFmtDA f) hs.length (s.urd w f.d.toNat).toNat (s.urd w f.a.toNat).toNat w s) s

/-- WFE (R348): Reads a chunk and waits for another agent's write to it or a timeout. -/
def execWfe (f : FmtW) (s : State) : Out :=
  issue (opY (0xF60C0000 ||| encodeFmtW f) f.st f.pr [0, 1, 2] [.u f.d.toNat] [.u f.a.toNat, .u f.b.toNat])
    (fun w _ s => wfeAt f.d.toNat (s.urd w f.a.toNat).toNat (s.urd w f.b.toNat).toNat w s) s

/-- HALT (R349): Stops a steward caravan until a WAKE write. -/
def execHalt (f : FmtN) (s : State) : Out :=
  issue (opY (0xF6000000 ||| encodeFmtN f) f.st f.pr [2] [] []) (fun w _ s => .wait .halt (s.settleWho w)) s

/-- IMM (R164): Hint word supplying the upper bits of a wide immediate. -/
def execImm (f : FmtImm) (s : State) : Out :=
  hintWord (0xF8000000 ||| encodeFmtImm f) s

/-- REP (R165): Hint word repeating a copy with a stride. -/
def execRep (f : FmtRep) (s : State) : Out :=
  hintWord (0xFA000000 ||| encodeFmtRep f) s

/-- MOD (R166): Hint word carrying rounding, saturate, predicate negation, cache policy and seed. -/
def execMod (f : FmtMod) (s : State) : Out :=
  hintWord (0xFC000000 ||| encodeFmtMod f) s

/-- SCHED (R167): Hint word carrying yield, checkpoint and memory priority requests. -/
def execSched (f : FmtSched) (s : State) : Out :=
  hintWord (0xFE000000 ||| encodeFmtSched f) s

/-- RESERVED_HINT_WORD (R163): A hint word of a reserved kind, such as the 0xFFFF_FFFF padding, takes one issue slot as a no-operation and modifies nothing. -/
def execReservedHintWord (w : BitVec 32) (s : State) : Out :=
  hintWord w s

/-- UNASSIGNED_ENCODING (R169): A caravan or the sequencer issues a word that is not an instruction (unassigned opcode, sub-operation, size or nonzero zero field) and traps precisely with ILLEGAL_INSTRUCTION. A malformed hint word joins its group, and its trap
comes with the modified instruction (R36, R163); before a word that is no instruction, a word of its group that is malformed or repeated
is the one reported (log 41). -/
def execUnassignedEncoding (w : BitVec 32) (s : State) : Out :=
  let who := s.cur
  if (s.statusOf who).isNone then .fault .noAgent
  else if 0x7C ≤ hintOp w then hintWord w s
  else
    let hs := s.hintsOf who
    .next (s.takeTrap who (match badHint (fun _ => true) [] hs 0 with
      | some i => illegal 0 (hs.getD i 0) i
      | none => illegal 0 w hs.length))

end Sys2Proof.Machine
end

