-- ==== Sys2Proof/Machine/Boot.lean ====
section
/-! DEFINITION. Package reset, the boot ROM, failed starts and minimal mode (R429 to R431). -/
namespace Sys2Proof.Machine
open Sys2Proof

/-- The cores of a part: the eight steward cores, and one at each site its enable bitmaps show (R2, R14, R20). -/
def coresOf (dieen : Vector Word 4) : List CoreSt :=
  (List.range 8).map (fun k => CoreSt.empty (256 + k)) ++
    (List.range 4).flatMap (fun d => ((List.range 48).filter (fun i => (vget dieen d).getLsbD i)).map (fun i => CoreSt.empty (64 * d + i)))

/-- Package reset: everything at its reset value but what the package keeps over it: its fuses (R1, R2, R20), whether each upper die
is there (R15), what stands in its firmware slots and its rollback counter, BOOTWHY (R430, R431), its place in the pod, and
the free values not yet used. The cores are those of the enable bitmaps. The upper dies are in use only where all four are there
(R15). A core retired in service comes back: its DIEEN bit stays set and its retired mark goes, since the bitmaps show fuses alone and
the remap table that records a retirement is reset (DESIGN CHOICE: R20 says only that the bit stays until the reset; log 39). -/
def State.packageReset (s : State) (bootwhy : Word) : State :=
  { State.reset with
    grade := s.grade, uppers := s.uppers, upper := s.uppers.toList.all id, dieen := s.dieen, cores := coresOf s.dieen
    serial := s.serial, mypkg := s.mypkg, mypod := s.mypod, free := s.free
    fw := { Firmware.reset with slots := s.fw.slots, rollback := s.fw.rollback, bootwhy := bootwhy } }

/-- FAILS of BOOTWHY. -/
def failsOf (x : Word) : Nat := bitsOf x.toNat 3 2

/-- BOOTWHY after a failed start with a reason: one more failure, the other slot next; minimal mode after the third (R430). -/
def failedBootwhy (x : Word) (reason mdie : Nat) : Word :=
  let fails := min 3 (failsOf x + 1)
  let slot := 1 - bitsOf x.toNat 1 1
  if fails = 3 then BitVec.ofNat 64 (1 + 2 * slot + 4 * fails + 16 * reason + 256 * mdie)
  else BitVec.ofNat 64 (2 * slot + 4 * fails + 16 * reason)

/-- The lowest-numbered compute die that passes memory training; die 0 if none does (R431). -/
def trainedDie : Nat := ((List.range 4).find? (fun d => Config.trains (d + 1))).getD 0

/-- The package reset with BOOTWHY as failed starts leave it: it tries the slot that names, or enters minimal mode (R430). -/
def State.failWith (s : State) (x : Word) : State :=
  let s := s.packageReset x
  if x.getLsbD 0 then { s with fw := { s.fw with phase := .minimal } } else s

/-- A failed start (R430): the package is reset, and tries the other slot, or enters minimal mode. -/
def State.failStart (s : State) (reason : Nat) : State := s.failWith (failedBootwhy s.fw.bootwhy reason trainedDie)

/-- A caravan sent to an address at level 2, with nothing of what it was doing (R429, R434). -/
def Caravan.sentTo (c : Caravan) (entry : Word) : Caravan :=
  let regs : CRegs := { c.regs with pc := entry }
  { c with regs := regs, cst := (c.cst &&& ~~~0x30) ||| 0x20, hints := [], fix := [], status := .running, phase := none, wfe := none,
           io := none, multi := none, epochs := [Epoch.start regs] }

/-- Does a caravan run, so that the entry of an image sends it there: it has not ended, and does not wait in `halt`? -/
def Caravan.runs (c : Caravan) : Bool := c.status != .ended && c.status != .waiting .halt

/-- A steward core with an image in its scratchpad, as overlay 0 of the standing space; others are evicted as `ovld` evicts them where it
needs the room, and all of them where that does not do; the scratchpad takes the first 256 KiB of a longer one (R14, R286; DESIGN CHOICE,
log 38). -/
def State.withFirmware (s : State) (bytes : List Byte) (c : CoreSt) : CoreSt :=
  let bytes := bytes.take 0x40000
  let c : CoreSt := { c with overlays := c.overlays.filter (fun o => o.launch != 0 || o.n != 0) }
  let c := (s.makeRoom c.id bytes.length c.overlays.length c).getD { c with overlays := [] }
  { c with overlays := c.overlays ++ [{ launch := 0, n := 0, words := imageWords bytes }] }

/-- An image entered: copied into steward memory and the steward cores' scratchpads, the SVEC of every steward core set from its
header, and every boot caravan of a steward core that runs sent to an entry address at level 2 (R332, R429, R434). One in `halt` stays
there, and one that has ended has ended (DESIGN CHOICE, log 38). -/
def State.enterImage (s : State) (bytes : List Byte) (entry : Word) : State :=
  let s := s.writeMem Config.imageBase bytes
  let loaded := s.cores.map (fun (c : CoreSt) =>
    if isSteward c.id then { s.withFirmware bytes c with svec := Config.imageField bytes 3 } else c)
  let booted := fun (w : Who) => match s.block? (blkOf w) with | some x => x.launch == 0 | none => false
  { s with
    cores := loaded
    streams := s.streams.filter (fun r => !(booted r.who))
    blocks := s.blocks.map (fun (x : Block) =>
      if x.launch == 0 then { x with cars := x.cars.map (fun c => if c.runs then c.sentTo entry else c) } else x) }

/-- The boot ROM's work after a reset, as one step (R429): training, the active slot's signature and version, and entry, or a
failed start with its reason. -/
def State.bootRom (s : State) : State :=
  let slot := bitsOf s.fw.bootwhy.toNat 1 1
  let img := vget s.fw.slots slot
  if !((List.range 5).all (fun u => Config.trains u)) then s.failStart 6
  else if !(Config.rsaPssOk Config.bootKey img.bytes []) || img.bytes.isEmpty then s.failStart (1 + slot)
  else if img.version < s.fw.rollback then s.failStart 3
  else
    let s := s.enterImage img.bytes (Config.imageField img.bytes 1)
    { s with fw := { s.fw with phase := .entered, watchdog := true } }

/-- The current agent takes a fetch trap: a run past the end names the address itself (R285). -/
def State.trapFetch (s : State) (t : Trap) : State :=
  if t.code = 0x06 && t.sub = 6 then (s.setPc s.cur (s.pcOf s.cur) []).takeTrap s.cur t else s.takeTrap s.cur t

/-- Is the current agent inside a hint group, so that its next word issues next (R163, R376)? -/
def State.midGroup (s : State) : Bool := !(s.hintsOf s.cur).isEmpty && s.statusOf s.cur == some .running

/-- The turn passes to an agent (R376), whose slot is not gated (R438). -/
def State.pass (s : State) (w : Who) (turn : Nat) : State := (({ s with cur := w, turn := turn } : State).noteSlot w false).noteIssue w

end Sys2Proof.Machine
end

