-- ==== Sys2Proof/Machine/Place.lean ====
section
/-! DEFINITION. Bundle requests served (R88, R304 to R306) and blocks placed on cores (R43, R44, R64, R135, R146, R177, R178,
R286, R302, R375). -/
namespace Sys2Proof.Machine
open Sys2Proof

/-! ## Bundles -/

/-- A number later than every earlier one (R304). -/
def State.tick (s : State) : Nat × State := (s.nextId, { s with nextId := s.nextId + 1 })

/-- Does a block's entry pin its bundle: it is complete, or about to be, with no request of it waiting in the queue (R90, R304)? -/
def State.pins (s : State) (blk handle : Nat) (e : Entry) : Bool :=
  e.handle == handle && (e.pending.isNone || !(s.bundleReqs.any (fun r => !r.served && r.blk == some blk && r.handles.contains handle)))

/-- Is a bundle pinned (R90, R304, R305): a block, resident or saved, has entered it or is about to, or an admission that has been served
waits to start? The last is no victim though no block has entered it yet (DESIGN CHOICE, log 57: R304 speaks only of entered blocks). -/
def State.held (s : State) (handle : Nat) : Bool :=
  s.blocks.any (fun x => x.entries.any (s.pins x.id handle)) ||
  s.saved.any (fun x => x.entries.any (s.pins x.blk handle)) ||
  s.bundleReqs.any (fun r => r.served && r.handles.contains handle)

/-- The lines some bundles would add to a resident set. -/
def newLines (us : List Bundle) (resident : List Nat) : List Nat :=
  (us.foldl (fun acc u => addAll u.lines acc) []).filter (fun l => !(resident.contains l))

/-- The bundle evicted next (R304): resident, with no entered block, entered least recently. -/
def State.victim (s : State) (tenant die : Nat) (keep : List Nat) : Option Bundle :=
  (s.bundles.filter (fun u => u.tenant == tenant && u.die == die && u.state == 2 && !(keep.contains u.handle) && !(s.held u.handle))).foldl
    (fun (acc : Option Bundle) u => match acc with
      | some v => if u.entryTime < v.entryTime then some u else acc
      | none => some u) none

/-- Does a tenant's quota on a die take some bundles beside its resident set (R87)? -/
def State.fits (s : State) (tenant die : Nat) (handles : List Nat) : Bool :=
  let quota := match s.tenant? tenant with | some t => t.quota die | none => 0
  let r := s.residentLines tenant die
  r.length + (newLines (s.bundles.filter (fun u => handles.contains u.handle)) r).length ≤ quota

/-- Are two requests one and the same? -/
def BundleReq.same (a b : BundleReq) : Bool := a.tenant == b.tenant && a.die == b.die && a.handles == b.handles && a.blk == b.blk

/-- A bundle evicted for a request: the lines it shares with what is asked for stay resident and pass to it (R304). -/
def State.evictBundle (s : State) (r : BundleReq) (v : Bundle) : State :=
  let wanted := (s.bundles.filter (fun u => r.handles.contains u.handle)).flatMap (·.lines)
  let s := s.modBundle v.handle (fun u => { u with state := 0 })
  { s with bundleReqs := s.bundleReqs.map (fun q => if q.same r then { q with kept := addAll (v.lines.filter wanted.contains) q.kept } else q) }

/-- Victims evicted one at a time until the quota takes a request's bundles or no victim is left (R88, R304): what is evicted stays so even
where it is not enough yet. -/
def State.roomFor (s : State) (r : BundleReq) : Nat → State
  | 0 => s
  | n + 1 =>
    if s.fits r.tenant r.die r.handles then s
    else match s.victim r.tenant r.die r.handles with
      | none => s
      | some v => (s.evictBundle r v).roomFor r n

/-- The oldest request of a tenant and die not yet served (R305). -/
def State.nextRequest (s : State) (tenant die : Nat) : Option BundleReq :=
  s.bundleReqs.find? (fun r => r.tenant == tenant && r.die == die && !r.served)

/-- BUNDLE_REQUEST_SERVE (R305): the oldest request of a tenant and die is served where the quota takes it: its loads start, whose lines
count at once, and each completes as its own step. An admission's request stays, served, until its blocks start. A request whose
bundles are gone is dropped. -/
def State.serveBundles (s : State) (tenant die : Nat) : State :=
  match s.nextRequest tenant die with
  | none => s
  | some r =>
    let next := fun (s : State) => if (s.nextRequest tenant die).isSome then s.queueEvent (.bundleRequestServe tenant die) else s
    let us := s.bundles.filter (fun u => r.handles.contains u.handle)
    if us.isEmpty then next { s with bundleReqs := s.bundleReqs.filter (fun q => !(q.same r)) }
    else
      let s := s.roomFor r s.bundles.length
      if !(s.fits tenant die r.handles) then s
      else
        let s := us.foldl (fun st u => (st.modBundle u.handle (fun v => { v with state := max v.state 1 })).queueEvent
          (.bundleEntryComplete (r.blk.getD 0) u.handle)) s
        next { s with bundleReqs := if r.blk.isSome then s.bundleReqs.filter (fun q => !(q.same r))
          else s.bundleReqs.map (fun q => if q.same r then { q with served := true, kept := [] } else q) }

/-- Copies of a bundle's lines held where they may no longer be are recalled (R89): tracked words, clean untracked bytes, and those of a
constant cache. -/
def State.recallAway (s : State) (u : Bundle) : State :=
  let s := u.lines.foldl (fun st line => (st.sharers line).foldl (fun st r =>
    if st.mayHold r.cache line then st else st.giveUp r.cache line r.valid) st) s
  let away := fun (core line : Nat) => u.lines.contains line && !(s.mayHold core line)
  { s with cores := s.cores.map (fun (c : CoreSt) =>
      { c with l1 := c.l1.filter (fun y => !(away c.id y.1)), consts := c.consts.filter (fun y => !(away c.id y.2.1)) }) }

/-- A bundle counts as entered from now (R304): copies elsewhere are recalled. -/
def State.enterAt (s : State) (handle : Nat) : State :=
  let (t, s) := s.tick
  let s := s.modBundle handle (fun u => { u with state := 2, entryTime := t })
  match s.bundle? handle with | some u => s.recallAway u | none => s

/-- BUNDLE_ENTRY_COMPLETE (R88): every line is in the die's L2. The entries of a block that wait for it are complete: each makes its
arrival, and the block has entered unless a `bleav` follows each of them. Where no entry waits, the load was an admission's, which
looks again. -/
def State.completeEntry (s : State) (b handle : Nat) : State :=
  let s := s.modBundle handle (fun u => { u with state := if u.state = 0 then 0 else 2 })
  let mine := fun (e : Entry) => e.handle == handle && e.pending.isSome
  let es := match s.block? b with | some x => x.entries.filter mine | none => []
  if es.isEmpty then [0, 1, 2, 3].foldl (fun st d => st.queueEvent (.blockAdmission d)) s
  else
    let kept : List Entry := if es.all (·.leave) then [] else [{ handle := handle, pending := none, leave := false }]
    let s := s.modBlock b (fun y => { y with entries := y.entries.filter (fun e => !(mine e)) ++ kept })
    let s := s.enterAt handle
    es.foldl (fun st e => match e.pending with | some k => (st.arrive b k).2 | none => st) s

/-! ## Kernels and cores -/

/-- A kernel's pool footprint F (R38, R39). -/
def Kernel.pool (k : Kernel) : Nat := k.p * (k.vbp * 256 + 4096) + k.v * (k.vbv * 256 + k.t * 16384 + 4096)
/-- LSG of a kernel's blocks (R64). -/
def State.lsgOf (s : State) (k : Kernel) : Nat := min (k.lsz * 65536) s.lscap
/-- The convoy slots of a block (R49). -/
def Kernel.convoySlots (k : Kernel) (lin : Nat) : List (Option ConvoySlot) :=
  let cs := (k.convoys.filter (fun c => c.2.contains lin)).map (fun c =>
    some ({ index := c.1, rank := c.2.idxOf lin, members := c.2 } : ConvoySlot))
  (cs ++ List.replicate 4 none).take 4

/-- The blocks that hold resources of a core; a steward core's boot caravans are none (log 3). -/
def State.on (s : State) (core : Nat) : List Block := s.blocks.filter (fun x => x.core == core && x.launch != 0 && s.holds x)

/-- Pool bytes a resident block takes. -/
def Block.pool (x : Block) : Nat := x.porters * (x.vbp * 256 + 4096) + x.vectors * (x.vbv * 256 + x.tilesPer * 16384 + 4096)

/-- The overlay directory entry n of a code image (R345): offset and length, none where it cannot be read. -/
def State.directory (s : State) (vf proc cimg n : Nat) : Option (Nat × Nat) :=
  (s.deviceRead vf proc (cimg + 8 * n) 8).map (fun bs => (bitsOf (leNat bs) 31 0, bitsOf (leNat bs) 50 32))

/-- Overlay 0 of a launch brought to a core (R286), if it is not there: the core after, none where it does not fit. -/
def State.withCode (s : State) (core : Nat) (l : Launch) : Option CoreSt :=
  match s.core? core with
  | none => none
  | some c =>
    if c.overlays.any (fun o => o.launch == l.id && o.n == 0) then some c
    else match s.directory l.vf l.proc l.cimg 0 with
      | none => none
      | some (off, len) => match s.makeRoom core len c.overlays.length c, s.deviceRead l.vf l.proc (l.cimg + off) len with
        | some c, some bs => some { c with overlays := c.overlays ++ [{ launch := l.id, n := 0, words := imageWords bs }] }
        | _, _ => none

/-- Have a core's resources room for a block of a kernel (R43, R64, R178)? -/
def State.roomOn (s : State) (core : Nat) (k : Kernel) : Bool :=
  let here := s.on core
  let sum := fun (f : Block → Nat) => here.foldl (fun acc x => acc + f x) 0
  here.length < 4 && sum (fun x => x.porters + x.vectors) + k.p + k.v ≤ 32 && sum Block.pool + k.pool ≤ 524288 &&
  sum (·.lsg) + s.lsgOf k ≤ s.lscap && sum (·.nbar) + k.nbar ≤ 512

/-- May a core take a block of a tenant now: it serves the package and is not about to be retired, no scrub runs, and no block of another tenant holds it (R347,
R406, R417, R431)? -/
def State.coreFree (s : State) (core tenant : Nat) : Bool :=
  (match s.core? core with | some c => !c.retired && c.scrubEnd ≤ s.clk | none => false) && !(s.retiring.contains core) &&
  (s.fw.phase != .minimal || dieOf core == bitsOf s.fw.bootwhy.toNat 9 8) &&
  (s.on core).all (fun x => (match (s.launch? x.launch).bind (fun l => s.vf? l.vf) with | some f => f.tenant == tenant | none => false))

/-- Must a core be scrubbed before it takes a block of a tenant (R417)? -/
def State.foreign (s : State) (core tenant : Nat) : Bool :=
  match s.core? core with | some c => c.tenant != 0 && c.tenant != tenant | none => false

/-- Free pool bytes of a core. -/
def State.freePool (s : State) (core : Nat) : Nat := 524288 - (s.on core).foldl (fun acc x => acc + x.pool) 0

/-- The core a block of a kernel goes to among some, most free pool bytes first, the earliest listed on a tie (R375). -/
def State.bestCore (s : State) (l : Launch) (k : Kernel) (tenant : Nat) (cores : List Nat) : Option Nat :=
  (cores.filter (fun c => s.coreFree c tenant && s.roomOn c k && (s.withCode c l).isSome)).foldl (fun (acc : Option Nat) c =>
    match acc with | some d => if s.freePool d < s.freePool c then some c else acc | none => some c) none

/-! ## Block start (R146) -/

/-- The next caravan's place on a core (R44): the quarter with fewest taken slots, and its lowest free slot (log 5). -/
def nextSlot (used : List (Nat × Nat)) : Nat × Nat :=
  let count := fun (q : Nat) => (used.filter (fun u => u.1 == q)).length
  let q := [1, 2, 3].foldl (fun best q => if count q < count best then q else best) 0
  (q, ((List.range 8).find? (fun i => !(used.contains (q, i)))).getD 0)

/-- Places for n caravans in turn. -/
def slotsFor : Nat → List (Nat × Nat) → List (Nat × Nat)
  | 0, _ => []
  | n + 1, used => let p := nextSlot used; p :: slotsFor n (used ++ [p])

/-- The entry bundles of every block of a launch, in declaration order (R302). -/
def Launch.entryHandles (l : Launch) : List Nat := (l.kernels.flatMap (fun k => (k.bundles.filter (·.2)).map (·.1))).eraseDups

/-- A new block of a kernel on a core: its registers, seeds and role entries (R44, R135, R146, R177), the entry bundles of its
launch, whichever kernel declares them (R302), and the lowest free block slot (DESIGN CHOICE, log 5: the spec does not say which free
slot a new or restored block takes). -/
def State.newBlock (s : State) (l : Launch) (kernel : Nat) (k : Kernel) (lin core plv : Nat) : Block :=
  let used := (s.on core).flatMap (fun x => x.cars.map (fun c => (c.quarter, c.slot))) ++
    (s.blocks.filter (fun x => x.core == core && x.launch == 0)).flatMap (fun x => x.cars.map (fun c => (c.quarter, c.slot)))
  let places := slotsFor (k.p + k.v) used
  let cst : Word := BitVec.ofNat 64 ((if k.chk then 1 else 0) + 16 * plv)
  let cars := (List.range (k.p + k.v)).map (fun n =>
    let place := places.getD n (0, 0)
    let vector := decide (k.p ≤ n)
    Caravan.start n vector (BitVec.ofNat 64 (if vector then k.ventry else k.pentry))
      (seedOf (BitVec.ofNat 64 (kernel * 2 ^ 40 + lin * 64 + n + 1))) cst (if vector then k.vbv else k.vbp) place.1 place.2)
  let slot := ((List.range 4).find? (fun i => !((s.on core).any (fun x => x.slot == i)))).getD 0
  { id := s.nextId, launch := l.id, kernel := kernel, lin := lin, core := core, slot := slot, porters := k.p, vectors := k.v,
    tilesPer := k.t, vbp := k.vbp, vbv := k.vbv, nbar := k.nbar, nring := k.nring, lsg := s.lsgOf k, cars := cars,
    seq := if k.s = 0 then none else some (Sequencer.start (BitVec.ofNat 64 k.sentry)), tiles := Vector.replicate 32 Tile.zero,
    ls := [], lsPoison := [], rings := Vector.replicate 8 Ring.empty, bars := Vector.replicate 64 Barrier.empty,
    entries := l.entryHandles.map (fun h => { handle := h, pending := none, leave := false }),
    convoys := k.convoySlots lin, closing := none, ended := false }

/-- A core as it takes a block of a launch: overlay 0 there, the launch's constant lines dropped before its first block (R70), the
tenant noted. -/
def State.readyCore (s : State) (core tenant : Nat) (l : Launch) : State :=
  let first := !(s.blocks.any (fun x => x.core == core && x.launch == l.id))
  let s := match s.withCode core l with | some c => s.modCore core (fun _ => c) | none => s
  s.modCore core (fun c => { c with tenant := tenant, consts := if first then c.consts.filter (fun z => z.1 != l.id) else c.consts })

/-- A block put on a core: it starts, or goes on, there. -/
def State.putBlock (s : State) (x : Block) (tenant : Nat) (l : Launch) : State :=
  let s := s.readyCore x.core tenant l
  { s with blocks := s.blocks ++ [x], nextId := s.nextId + 1 }

/-- The entry bundles of a block that starts are entered now (R302, R304). -/
def State.enterNow (s : State) (x : Block) : State :=
  x.entries.foldl (fun st e => st.enterAt e.handle) s

/-- The cores of some dies of a function's slice, dense numbers ascending. -/
def Vf.coresOn (f : Vf) (dies : List Nat) : List Nat := (f.dense.filter (fun x => dies.contains (dieOf x.2))).map (·.2)

/-- A block of a launch started on the best core of some dies (R375), or none. -/
def State.startBlock (s : State) (launch : Nat) (dies : List Nat) (c : Cand) : Option State :=
  match s.launch? launch with
  | none => none
  | some l => match l.kernels[c.kernel]?, s.vf? l.vf with
    | some k, some f => match s.bestCore l k f.tenant (f.coresOn dies) with
      | none => none
      | some core =>
        let x := s.newBlock l c.kernel k c.lin core 0
        some ((s.putBlock x f.tenant l).enterNow x)
    | _, _ => none

/-- Several blocks started together, or none (R50, R54). -/
def State.startAll (s : State) (launch : Nat) (dies : List Nat) : List Cand → Option State
  | [] => some s
  | c :: cs => match s.startBlock launch dies c with
    | none => none
    | some s => s.startAll launch dies cs

/-- BUNDLE_REQUEST_SERVE (R305): The oldest request needing new bundle lines is served, evicting victims and starting loads. -/
def execBundleRequestServe (tenant die : Nat) (s : State) : Out :=
  .next (s.serveBundles tenant die)

/-- BUNDLE_ENTRY_COMPLETE (R88): A bundle's lines are all resident, the entry completes and its barrier arrival is made. -/
def execBundleEntryComplete (blk handle : Nat) (s : State) : Out :=
  .next (if (s.bundle? handle).isSome then s.completeEntry blk handle else s)

end Sys2Proof.Machine
end

