-- ==== Sys2Proof/Machine/Preempt.lean ====
section
/-! DEFINITION. Pre-emption and restore (R59, R116, R161, R250, R380 to R385, R396): stopping a block at instruction boundaries,
its save area byte by byte, and the block read back. -/
namespace Sys2Proof.Machine
open Sys2Proof

/-! ## Stopping a block (R381) -/

/-- A caravan whose last issued word is an instruction of R184 that has not completed: it is abandoned, and the pc and the generator
stand as before it. -/
def Caravan.abandoned (c : Caravan) : Caravan :=
  match c.multi with
  | some m =>
    if c.epochs.any (fun e => e.pend.any (fun p => p.reg == m.reg)) then
      { c with
        regs := { c.regs with pc := m.pc, gs := m.gs }, hints := [], multi := none
        epochs := c.epochs.map (fun e => { e with pend := e.pend.filter (fun p => p.reg != m.reg) }) }
    else { c with multi := none }
  | none => c

/-- Does a caravan hold operations besides stores, which a save cancels (R103, R381)? -/
def Caravan.holdsMore (c : Caravan) : Bool := c.held.any (fun h => match h with | .store _ _ _ _ => false | _ => true)

/-- A caravan stops at its saved boundary (R116, R184, R381): a wait whose arrival is made stays pending (R250). One that holds an operation
besides stores rolls back to its checkpoint, which cancels it, and the rollback counts on the core (R395); any other becomes
non-speculative (DESIGN CHOICE, log 53: R116 leaves open which of the two). An instruction of R184 that is its last word is abandoned, an
earlier one completes. No access of several steps is under way (log 17). -/
def State.stopCaravan (s : State) (b n : Nat) : State :=
  match s.car? b n with
  | none => s
  | some c =>
    if c.status == Status.ended then s
    else if c.phase.isSome then s.modCar b n (fun c => { c with status := .running })
    else
      let s := if c.holdsMore then (s.modCar b n (fun c => c.rollTo 0 false)).countRollback (s.coreOf (.car b n))
        else (s.modCar b n Caravan.abandoned).commitAll b n
      s.modCar b n (fun c => { c with
        regs := c.snapshot, hints := [], fix := [], wfe := none, io := none, status := if c.status == Status.ended then .ended else .running })

/-- A sequencer at its saved boundary: an instruction it has given to the array and that is not taken is issued again; one that
is taken has been issued (R267, R277). -/
def Sequencer.stopped (q : Sequencer) (untaken : Option MxOp) : Sequencer :=
  if q.status == Status.ended then q
  else if q.given then
    match untaken with
    | some m =>
      let i := shapeSlot m.ga1
      { q with given := false, status := .running, hints := [], pc := q.pc - BitVec.ofNat 64 (4 * q.hints.length)
               cv := if m.kind == MxKind.mmaCv then vset q.cv i (vget q.cv i - 1) else q.cv }
    | none => { q with given := false, status := .running, hints := [], pc := q.pc + 4 }
  else { q with status := .running, hints := [], pc := q.pc - BitVec.ofNat 64 (4 * q.hints.length) }

/-- A block stopped and drained (R381, steps 1 to 5). A matrix instruction whose members have met is performed; one that the array has
taken still makes its checks at its own pc (R266). -/
def State.stopBlock (s : State) (b : Nat) : State :=
  match s.block? b with
  | none => s
  | some x =>
    let untaken := (s.pendingMx x).find? (fun m => !m.begun)
    let s := s.modCore x.core (fun c => { c with array := c.array.filter (fun m => m.blk != b || m.begun) })
    let s := { s with streams := s.streams.filter (fun r => blkOf r.who != b) }
    let s := (x.cars.map (·.n)).foldl (fun st n => st.stopCaravan b n) s
    let s := (s.drainArray b).modBlock b (fun y => { y with seq := y.seq.map (fun q => q.stopped untaken) })
    (s.drainCopies b).finishClosing b

/-! ## The save area (R383, R384) -/

/-- Bytes cut or filled with zeros to n. -/
def padTo (n : Nat) (bs : List Byte) : List Byte := (bs ++ List.replicate n 0).take n

/-- Four conditions as a byte's bits [3:0]. -/
def condByte (c : Vector Bool 4) : Nat := (List.range 4).foldl (fun acc i => if vget c i then acc + 2 ^ i else acc) 0

/-- WAITK, WAITARG and WAITPH of a pending phase wait. -/
def phaseBytes (p : Option PhaseWait) : Nat × Nat × Nat :=
  match p with | some w => (1, w.arg + 2 ^ 8 * w.d, w.ph.toNat) | none => (0, 0, 0)

/-- RBSTAT as it is saved: bit 4 zero (R396). -/
def Caravan.escortWord (c : Caravan) : Nat := c.rbCur + (if c.rbEsc then 8 else 0) + 2 ^ 32 * c.rbTotal.toNat

/-- A v register's bytes (R30). -/
def VReg.bytes (v : VReg) : List Byte := (List.range 32).flatMap (fun t => leBytes 8 (vget v t).toNat)
/-- A tile's bytes, row by row. -/
def Tile.bytes (t : Tile) : List Byte := (List.range 64).flatMap (fun i => (List.range 64).flatMap (fun j => leBytes 4 (tileAt t i j).toNat))

/-- A caravan's window in bytes: W of a vector caravan, VBp x 256 of a porter. -/
def Block.windowOf (x : Block) (c : Caravan) : Nat := if c.vector then x.window else x.vbp * 256

/-- The window copied byte for byte: registers from byte 0 up, tiles from the top down (R40), zeros between. -/
def Block.windowBytes (x : Block) (c : Caravan) : List Byte :=
  let regs := (List.range c.vb).flatMap (fun r => (vget c.regs.v r).bytes)
  let tiles := if c.vector then (List.range x.tilesPer).reverse.filter (fun i => x.positionFree c.vb i) else []
  let top := tiles.flatMap (fun i => (vget x.tiles ((c.n - x.porters) * x.tilesPer + i)).bytes)
  padTo (x.windowOf c - top.length) regs ++ top

/-- A stack entry's 16 bytes. -/
def StackEntry.bytes (e : StackEntry) : List Byte :=
  leBytes 4 e.pc.toNat ++ leBytes 4 e.mask.toNat ++ leBytes 4 e.rpc.toNat ++ leBytes 4 (if e.path then 0 else 1)

/-- A caravan's part of the area (R384). -/
def Block.caravanBytes (x : Block) (c : Caravan) : List Byte :=
  let w := phaseBytes c.phase
  let r := c.regs
  padTo 1280 (leBytes 8 (r.pc.toNat - 4 * c.hints.length) ++ leBytes 8 c.cst.toNat ++ leBytes 8 r.gs.toNat ++
    leBytes 4 r.m.toNat ++ leBytes 4 r.e.toNat ++
    (List.range 7).flatMap (fun i => leBytes 4 (vget r.p i).toNat) ++ leBytes 4 0 ++
    leBytes 1 (condByte r.c) ++ leBytes 1 r.stack.length ++ leBytes 1 c.vb ++ leBytes 1 w.1 ++ leBytes 4 w.2.1 ++ leBytes 4 w.2.2 ++
    leBytes 4 c.emask.toNat ++ leBytes 8 c.epc.toNat ++ leBytes 8 c.ecst.toNat ++ leBytes 8 c.escortWord ++
    (List.range 6).flatMap (fun i => leBytes 4 (vget c.scope i).toNat) ++ recordBytes c.frec ++
    (List.range 64).flatMap (fun i => leBytes 8 (vget r.s i).toNat) ++ (List.range 8).flatMap (fun i => leBytes 8 (vget r.s2 i).toNat) ++
    r.stack.reverse.flatMap StackEntry.bytes) ++ x.windowBytes c

/-- The sequencer's part. An ended sequencer's pc is that of its `exit`, which ends it again (log 29). -/
def Sequencer.bytes (q : Sequencer) : List Byte :=
  let w := phaseBytes q.phase
  padTo 256 (leBytes 8 q.pc.toNat ++ (List.range 16).flatMap (fun i => leBytes 8 (vget q.g i).toNat) ++ leBytes 1 (condByte q.c) ++
    leBytes 1 w.1 ++ leBytes 2 0 ++ leBytes 4 w.2.1 ++ leBytes 4 w.2.2 ++ (List.range 4).flatMap (fun i => leBytes 4 (vget q.cv i).toNat) ++
    (List.range 6).flatMap (fun i => leBytes 4 (vget q.scope i).toNat))

/-- A ring's 32 bytes. -/
def Ring.bytes (r : Ring) : List Byte :=
  let states := (List.range 16).foldl (fun acc j => acc + vget r.states j * 4 ^ j) 0
  padTo 32 (leBytes 8 r.init.toNat ++ leBytes 4 r.acquired.toNat ++ leBytes 4 r.published.toNat ++ leBytes 4 r.taken.toNat ++
    leBytes 4 r.released.toNat ++ leBytes 4 states)

/-- Bytes of a source block of the format a slot's tag names: one shift count stands for them (R80). -/
def State.blockBytes (s : State) (x : Block) (tag : Nat) : Nat :=
  match s.launch? x.launch with
  | some l => match s.fmtEntry l.vf l.proc tag with | some e => max 4 (e.elem.width * e.block / 8) | none => 8
  | none => 8

/-- The shift counts of a slot, Z / 8 bytes: one for each source block in turn, zero where unused. -/
def State.shiftBytes (s : State) (x : Block) (r : Ring) (j : Nat) : List Byte :=
  let bb := s.blockBytes x (vget r.tags j)
  (List.range (r.size / 8)).map (fun u =>
    match r.shifts.find? (fun z => z.1 == j && z.2.1 == u * bb / 4) with | some z => z.2.2 | none => 0)

/-- The whole area of a block (R383), without the padding of its length. -/
def State.areaBytes (s : State) (x : Block) : List Byte :=
  padTo 256 (leBytes 4 1 ++ leBytes 4 x.lin ++ leBytes 2 x.kernel ++ leBytes 1 x.porters ++ leBytes 1 x.vectors ++
    leBytes 1 (if x.seq.isSome then 1 else 0) ++ leBytes 1 x.tilesPer ++ leBytes 1 x.nbar ++ leBytes 1 x.nring ++ leBytes 4 x.lsg ++
    leBytes 4 0 ++ leBytes 8 x.launch ++ leBytes 1 (min 32 x.entries.length)) ++
  (List.range 8).flatMap (fun k => (vget x.rings k).bytes) ++
  (List.range 8).flatMap (fun k => (List.range 16).flatMap (fun j => leBytes 1 (vget (vget x.rings k).tags j))) ++
  (List.range 64).flatMap (fun k => let b := vget x.bars k; padTo 32 (leBytes 2 b.n ++ leBytes 2 b.count ++ leBytes 4 b.p.toNat)) ++
  padTo 256 (x.entries.flatMap (fun e => leBytes 8 (e.handle + (match e.pending with | some k => 2 ^ 32 + 2 ^ 40 * k | none => 0)))) ++
  (match x.seq with | some q => q.bytes | none => List.replicate 256 0) ++
  x.cars.flatMap x.caravanBytes ++ x.ls.readN 0 x.lsg ++
  (List.range 8).flatMap (fun k => let r := vget x.rings k
    if r.live then (List.range r.slots).flatMap (s.shiftBytes x r) else [])

/-- A length rounded up to a multiple of 4 KiB. -/
def roundPage (n : Nat) : Nat := (n + 4095) / 4096 * 4096

/-- Where an area of a length goes in a function's context region: the first free place, 4 KiB aligned. -/
def State.areaPlace (s : State) (f : Vf) (len : Nat) : Option Nat :=
  let mine := s.saved.filter (fun x => x.vf == f.id)
  (f.context.1 :: mine.map (fun x => x.area + x.len)).find? (fun a =>
    f.context.1 ≤ a && a + len ≤ f.context.2 && mine.all (fun x => a + len ≤ x.area || x.area + x.len ≤ a))

/-- The offset of the local store in a block's area. -/
def Block.lsOffset (x : Block) : Nat := 3200 + x.cars.foldl (fun acc c => acc + 1280 + x.windowOf c) 0

/-- A stopped block is written to its function's context region and gives up its core (R381, R383); its bundle entries stay. None
where the region has no room. -/
def State.saveBlock (s : State) (b : Nat) : Option State :=
  match s.block? b with
  | none => some s
  | some x => match (s.launch? x.launch).bind (fun l => s.vf? l.vf) with
    | none => none
    | some f =>
      let bs := s.areaBytes x
      let len := roundPage bs.length
      match s.areaPlace f len with
      | none => none
      | some a =>
        let s := s.writeMem a (padTo len bs)
        let s := x.lsPoison.foldl (fun st o =>
          st.poisonByte (.glob (a + x.lsOffset + o)) { pa := a + x.lsOffset + o, cause := 0, first := 0, last := 0 }) s
        let sv : Saved := { blk := b, launch := x.launch, kernel := x.kernel, lin := x.lin, vf := f.id, area := a, len := len, entries := x.entries }
        some ({ s with saved := s.saved ++ [sv], blocks := s.blocks.filter (fun y => y.id != b) } : State).dropOverlays

/-- Pre-emption of blocks, in the steps of R381: all are stopped and drained, then all that still hold resources are saved. The phases of
`dbar` on their dies then no longer wait for them (R249). -/
def State.preempt (s : State) (ids : List Nat) : Option State :=
  let s := ids.foldl State.stopBlock s
  let mine := s.blocks.filter (fun x => ids.contains x.id && s.holds x)
  ((mine.map (·.id)).foldl (fun (acc : Option State) b => acc.bind (fun st => st.saveBlock b)) (some s)).map (fun st =>
    let st := mine.foldl (fun st x => ((st.updateDbar x.launch (dieOf x.core)).endYields x.core)) st
    [0, 1, 2, 3].foldl (fun st d => st.queueEvent (.blockAdmission d)) st.nudgeArrays)

/-- The resident blocks of a launch that hold resources. -/
def State.residentOf (s : State) (launch : Nat) : List Nat :=
  (s.blocks.filter (fun x => x.launch == launch && s.holds x)).map (·.id)

/-- The blocks that are saved with a block: its whole gang, or its convoy group (R51, R54). -/
def State.together (s : State) (b : Nat) : List Nat :=
  match s.block? b with
  | none => []
  | some x => match s.launch? x.launch, s.kernelOf x.launch x.kernel with
    | some l, some k =>
      if l.gang then s.residentOf l.id
      else (let g := k.group x.lin
            (s.blocks.filter (fun y => y.launch == x.launch && y.kernel == x.kernel && g.contains y.lin && s.holds y)).map (·.id))
    | _, _ => [b]

/-! ## Restore (R385) -/

/-- A field of an area as a word. -/
def wordAt (bs : List Byte) (i : Nat) : Word := BitVec.ofNat 64 (fieldAt bs i 8)
/-- A field of an area as a 32-bit word. -/
def halfAt (bs : List Byte) (i : Nat) : W32 := BitVec.ofNat 32 (fieldAt bs i 4)
/-- Conditions from a byte. -/
def condsOf (x : Nat) : Vector Bool 4 := Vector.ofFn (fun i : Fin 4 => x / 2 ^ i.val % 2 == 1)
/-- A pending phase wait from WAITK, WAITARG and WAITPH. -/
def phaseFrom (k arg : Nat) (ph : W32) : Option PhaseWait :=
  if k = 1 then some { arg := arg % 256, d := bitsOf arg 13 8, ph := ph } else none

/-- A divergence stack from its bytes, entry 0 at the bottom. -/
def stackFrom (bs : List Byte) (depth : Nat) : List StackEntry :=
  ((List.range depth).map (fun i =>
    { pc := halfAt bs (16 * i), mask := halfAt bs (16 * i + 4), rpc := halfAt bs (16 * i + 8), path := fieldAt bs (16 * i + 12) 1 == 0 })).reverse

/-- A caravan read back from its part: 1,280 bytes and its window. -/
def Caravan.readBack (c : Caravan) (bs : List Byte) : Caravan :=
  let vb := fieldAt bs 66 1
  let win := bs.drop 1280
  let regs : CRegs :=
    { pc := wordAt bs 0, gs := wordAt bs 16, m := halfAt bs 24, e := halfAt bs 28
      v := Vector.ofFn (fun r : Fin 64 => if r.val < vb then vtab (fun t => wordAt win (256 * r.val + 8 * t)) else VReg.zero)
      s := Vector.ofFn (fun i : Fin 64 => wordAt bs (192 + 8 * i.val)), s2 := Vector.ofFn (fun i : Fin 8 => wordAt bs (704 + 8 * i.val))
      p := Vector.ofFn (fun i : Fin 7 => halfAt bs (32 + 4 * i.val)), c := condsOf (fieldAt bs 64 1)
      stack := stackFrom (bs.drop 768) (fieldAt bs 65 1) }
  let esc := fieldAt bs 96 8
  { c with
    regs := regs, cst := wordAt bs 8, vb := vb, epc := wordAt bs 80, ecst := wordAt bs 88, emask := halfAt bs 76
    frec := Vector.ofFn (fun i : Fin 8 => wordAt bs (128 + 8 * i.val))
    status := if regs.e == BitVec.allOnes 32 then .ended else .running
    scope := Vector.ofFn (fun i : Fin 6 => halfAt bs (104 + 4 * i.val))
    phase := phaseFrom (fieldAt bs 67 1) (fieldAt bs 68 4) (halfAt bs 72)
    epochs := [{ Epoch.start regs with target := bitsOf esc 2 0 != 0 }], rbCur := bitsOf esc 2 0, rbEsc := bitsOf esc 3 3 == 1, rbTotal := BitVec.ofNat 32 (bitsOf esc 63 32) }

/-- A sequencer read back from its part. -/
def Sequencer.readBack (bs : List Byte) : Sequencer :=
  { Sequencer.start (wordAt bs 0) with
    g := Vector.ofFn (fun i : Fin 16 => wordAt bs (8 + 8 * i.val)), c := condsOf (fieldAt bs 136 1)
    phase := phaseFrom (fieldAt bs 137 1) (fieldAt bs 140 4) (halfAt bs 144)
    cv := Vector.ofFn (fun i : Fin 4 => halfAt bs (148 + 4 * i.val)), scope := Vector.ofFn (fun i : Fin 6 => halfAt bs (164 + 4 * i.val)) }

/-- A ring read back: its 32 bytes and its slots' tags. -/
def Ring.readBack (bs tags : List Byte) : Ring :=
  let states := fieldAt bs 24 4
  { init := wordAt bs 0, acquired := halfAt bs 8, published := halfAt bs 12, taken := halfAt bs 16, released := halfAt bs 20
    states := Vector.ofFn (fun j : Fin 16 => states / 4 ^ j.val % 4), tags := Vector.ofFn (fun j : Fin 16 => fieldAt tags j.val 1), shifts := [] }

/-- The places of the caravans' parts in an area. -/
def Block.parts (x : Block) : List (Caravan × Nat) :=
  (x.cars.foldl (fun (acc : List (Caravan × Nat) × Nat) c => (acc.1 ++ [(c, acc.2)], acc.2 + 1280 + x.windowOf c)) ([], 3200)).1

/-- A tile read back from the window of its caravan, zero where its position is not usable. -/
def Block.tileBack (x : Block) (bs : List Byte) (n : Nat) : Tile :=
  if x.tilesPer = 0 then Tile.zero else
  match x.parts.find? (fun p => p.1.n == x.porters + n / x.tilesPer) with
  | none => Tile.zero
  | some (c, at_) =>
    let i := n % x.tilesPer
    let vb := fieldAt bs (at_ + 66) 1
    if n < x.vectors * x.tilesPer && x.positionFree vb i then
      (let base := at_ + 1280 + x.windowOf c - (i + 1) * 16384
       tileOf (fun r k => halfAt bs (base + 4 * (64 * r + k))))
    else Tile.zero

/-- The shift counts of a block's tagged slots read back, one for each 4-byte word. -/
def State.shiftsBack (s : State) (x : Block) (bs : List Byte) : Vector Ring 8 :=
  let step := fun (acc : Vector Ring 8 × Nat) (k : Nat) =>
    let r := vget acc.1 k
    if !r.live then acc
    else (List.range r.slots).foldl (fun (acc : Vector Ring 8 × Nat) j =>
      let r := vget acc.1 k
      let bb := s.blockBytes x (vget r.tags j)
      let rows := if vget r.tags j = 0 then [] else (List.range (r.size / 4)).map (fun i => (j, i, bs.getD (acc.2 + 4 * i / bb) 0))
      (vset acc.1 k { r with shifts := r.shifts ++ rows }, acc.2 + r.size / 8)) acc
  ((List.range 8).foldl step (x.rings, x.lsOffset + x.lsg)).1

/-- Bytes of the shift counts of an area's rings (R383). -/
def shiftLength (bs : List Byte) : Nat :=
  (List.range 8).foldl (fun acc k =>
    let r := Ring.readBack (bs.drop (256 + 32 * k)) []
    if r.live then acc + r.slots * (r.size / 8) else acc) 0

/-- Does an area fit its launch's kernel (R385): FORMAT, P, V, S, T, LSG, and the windows, by the area's length and the registers of
each caravan? -/
def State.areaFits (s : State) (l : Launch) (k : Kernel) (sv : Saved) : Bool :=
  let bs := s.peekN (.glob sv.area) (min sv.len 3200)
  let fresh := s.newBlock l sv.kernel k sv.lin 0 0
  fieldAt bs 0 4 == 1 && fieldAt bs 10 1 == k.p && fieldAt bs 11 1 == k.v && fieldAt bs 12 1 == k.s && fieldAt bs 13 1 == k.t &&
  fieldAt bs 16 4 == s.lsgOf k && sv.len == roundPage (fresh.lsOffset + fresh.lsg + shiftLength bs) &&
  fresh.parts.all (fun p => (s.peek (.glob (sv.area + p.2 + 66))).toNat * 256 ≤ fresh.windowOf p.1)

/-- A saved block read back onto a core (R385): placed afresh, its members at their saved boundaries. -/
def State.readBack (s : State) (l : Launch) (k : Kernel) (sv : Saved) (core : Nat) : Block :=
  let bs := s.peekN (.glob sv.area) sv.len
  let fresh := s.newBlock l sv.kernel k sv.lin core 0
  let cars := fresh.parts.map (fun p => p.1.readBack (bs.drop p.2))
  let ls := Memory.writeN [] 0 ((bs.drop fresh.lsOffset).take fresh.lsg)
  let poison := (List.range fresh.lsg).filter (fun o => (s.poisonAt (.glob (sv.area + fresh.lsOffset + o))).isSome)
  let seq := if k.s = 0 then none else
    some (let q := Sequencer.readBack (bs.drop 2944); q)
  let x : Block := { fresh with
    id := sv.blk, cars := cars, seq := seq, ls := ls, lsPoison := poison, entries := sv.entries
    tiles := Vector.ofFn (fun n : Fin 32 => fresh.tileBack bs n.val)
    rings := Vector.ofFn (fun k : Fin 8 => Ring.readBack (bs.drop (256 + 32 * k.val)) (bs.drop (512 + 16 * k.val)))
    bars := Vector.ofFn (fun k : Fin 64 =>
      { n := fieldAt bs (640 + 32 * k.val) 2, count := fieldAt bs (642 + 32 * k.val) 2, p := halfAt bs (644 + 32 * k.val) }) }
  let done := match s.launch? sv.launch with | some l => l.endedBlocks.contains (sv.kernel, sv.lin) | none => false
  { x with rings := s.shiftsBack x bs, ended := done }

/-- One saved block restored on the best core of its slice, or none. Entries that completed meanwhile arrive (R382; one whose request still
stands in the queue keeps its place there, log 57), and it counts for the phases of `dbar` on its die (R249). -/
def State.restoreOne (s : State) (sv : Saved) : Option State :=
  match s.launch? sv.launch with
  | none => none
  | some l => match l.kernels[sv.kernel]?, s.vf? l.vf with
    | some k, some f =>
      if !(s.areaFits l k sv) then none
      else match s.bestCore l k f.tenant (f.coresOn f.dies) with
        | none => none
        | some core =>
          let x := s.readBack l k sv core
          let s := { s with saved := s.saved.erase sv }
          let s := s.putBlock x f.tenant l
          some (x.entries.foldl (fun st e =>
            if e.pending.isSome && st.pins x.id e.handle e && (match st.bundle? e.handle with | some u => u.state == 2 | none => false) then
              st.queueEvent (.bundleEntryComplete x.id e.handle) else st) (s.updateDbar x.launch (dieOf core)))
    | _, _ => none

/-- Saved blocks restored together, or none. -/
def State.restoreAll (s : State) : List Saved → Option State
  | [] => some s
  | v :: vs => match s.restoreOne v with
    | none => none
    | some s => s.restoreAll vs

/-- The saved blocks restored with one: its gang, or its convoy group. -/
def State.savedWith (s : State) (sv : Saved) : List Saved :=
  match s.launch? sv.launch, s.kernelOf sv.launch sv.kernel with
  | some l, some k =>
    if l.gang then s.saved.filter (fun y => y.launch == sv.launch)
    else (let g := k.group sv.lin
          s.saved.filter (fun y => y.launch == sv.launch && y.kernel == sv.kernel && g.contains y.lin))
  | _, _ => [sv]


end Sys2Proof.Machine
end

