-- ==== Sys2Proof/Machine/Launch.lean ====
section
/-! DEFINITION. Work queues and launches (R25, R27, R33, R38, R47 to R56, R180, R303, R327, R365 to R373, R379, R441): which packet
goes next, its checks in their order, semaphores, completion, and feed queues. -/
namespace Sys2Proof.Machine
open Sys2Proof

/-! ## Queues (R365 to R367) -/

/-- Slots of a queue's ring (R365). -/
def Queue.size (q : Queue) : Nat := 16 * 2 ^ min 12 (bitsOf q.ctl.toNat 3 0)
/-- Slots the host has filled and the device has not read. -/
def Queue.filled (q : Queue) : Nat := (q.tail.toNat + q.size - q.head.toNat % q.size) % q.size
/-- QCTL.PROC. -/
def Queue.proc (q : Queue) : Nat := bitsOf q.ctl.toNat 15 8
/-- QCTL.PRI. -/
def Queue.pri (q : Queue) : Nat := bitsOf q.ctl.toNat 6 4
/-- Is a queue a feed queue? -/
def Queue.feeds (q : Queue) : Bool := q.ctl.getLsbD 7
/-- May the device read a queue: MAPPED, EN, no ERROR, and its function's interface not in ERROR (R365, R366, R421)? -/
def Queue.serves (q : Queue) (f : Vf) : Bool := q.stat.getLsbD 0 && q.ctl.getLsbD 16 && !(q.stat.getLsbD 3) && f.ifstate != 3

/-- Bytes of host memory at a host address, or none outside it (R351, R366). -/
def State.hostBytes (s : State) (a n : Nat) : Option (List Byte) :=
  if a + n ≤ 2 ^ 48 then some (s.peekN (.glob (0x2000000000000 + a)) n) else none

/-- The slots at a queue's head, n bytes. -/
def State.slotBytes (s : State) (q : Queue) (n : Nat) : Option (List Byte) :=
  s.hostBytes (bitsOf q.base.toNat 63 12 * 4096 + 32 * (q.head.toNat % q.size)) n

/-- A root table's address as PTROOT holds it: bits [51:13] (R358). -/
def rootOf (x : Word) : Word := x &&& 0x000FFFFFFFFFE000

/-- A process of a function: it comes into being, with the root table the innkeeper assigns it, when it is first named (R358). -/
def State.withProc (s : State) (vf p : Nat) : State :=
  match s.vf? vf with
  | some f => match f.proc? p with
    | some _ => s
    | none => s.modVf vf (fun x => { x with procs := x.procs ++
        [{ id := p, ptroot := rootOf (Config.ptroot vf p), fmttab := 0, dhva := 0, dhstat := 0, switched := false, weight := 1, served := 0 }] })
  | none => s

/-- A queue stops on an error (R366). -/
def State.queueError (s : State) (vf q code : Nat) : State :=
  s.modQueue vf q (fun x => { x with stat := (x.stat &&& 0xFFFF00FF) ||| BitVec.ofNat 32 (8 + 256 * code) })

/-! ## Which packet goes next (R371 to R373, R379) -/

/-- A launch queue's head packet: none where it has none; a slot that cannot be read counts as a packet of zeros. -/
def State.headPacket (s : State) (f : Vf) (q : Queue) : Option (List Byte) :=
  if !(q.serves f) || q.feeds || q.filled < 4 then none
  else some ((s.slotBytes q 128).getD (List.replicate 128 0))

/-- The head packet of a queue that is eligible (R369). -/
def State.eligible (s : State) (f : Vf) (q : Queue) : Option (List Byte) :=
  match s.headPacket f q with
  | some p => if fieldAt p 48 8 == 0 || q.ready then some p else none
  | none => none

/-- Does a function's energy hold a packet of a class (R371, R378, R379)? -/
def State.heldBack (s : State) (f : Vf) (eclass : Nat) : Bool :=
  eclass != 0 && (s.energyLeft f == 0 || (eclass == 3 && 4 * s.energyLeft f < s.budget f.id))

/-- The queues of a function that are eligible, with their packets' classes. -/
def State.eligibles (s : State) (f : Vf) : List (Queue × Nat) :=
  f.queues.filterMap (fun q => (s.eligible f q).map (fun p => (q, fieldAt p 1 1)))

/-- Is a function active (R371)? -/
def State.active (s : State) (f : Vf) : Bool :=
  !(s.eligibles f).isEmpty || s.blocks.any (fun x => (match s.launch? x.launch with | some l => l.vf == f.id | none => false) && s.holds x)

/-- The functions in the order of R371: the slice holder first, then ascending number, wrapping round. -/
def State.turnOrder (s : State) : List Vf := (List.range 64).filterMap (fun i => s.vf? ((s.sliceHolder + i) % 64))

/-- The queues of a function that may be served now: those its energy holds only where no other function with budget has an
eligible queue (R371). -/
def State.servable (s : State) (f : Vf) : List (Queue × Nat) :=
  let rival := s.vfs.any (fun g => g.id != f.id && s.energyLeft g != 0 && !(s.eligibles g).isEmpty)
  (s.eligibles f).filter (fun x => !rival || !(s.heldBack f x.2))

/-- Of the processes with a servable queue, the one the cycle serves (R372). -/
def nextProc (f : Vf) (ps : List Nat) : Option Nat :=
  let used := match f.proc? f.procLast with | some p => p.served | none => 0
  let weight := match f.proc? f.procLast with | some p => p.weight | none => 1
  if ps.contains f.procLast && used < weight then some f.procLast
  else
    let least := fun (l : List Nat) => l.min?
    match least (ps.filter (fun p => f.procLast < p)) with
    | some p => some p
    | none => least ps

/-- The priority a packet counts at (R373). -/
def State.priOf (s : State) (f : Vf) (x : Queue × Nat) : Nat := if s.heldBack f x.2 then 0 else x.1.pri

/-- The queue served next in a process: the highest priority, then the first queue after the one served last at it (R373). -/
def State.nextQueue (s : State) (f : Vf) (xs : List (Queue × Nat)) : Option (Nat × Nat) :=
  let proc := match xs.head? with | some x => x.1.proc | none => 0
  match (xs.map (s.priOf f)).max? with
  | none => none
  | some pri =>
    let qs := (xs.filter (fun x => s.priOf f x == pri)).map (fun x => x.1.q)
    let last := match f.queueLast.find? (fun y => y.1 == proc && y.2.1 == pri) with | some y => some y.2.2 | none => none
    let after := match last with | some l => qs.filter (fun q => l < q) | none => qs
    (match after.min? with | some q => some q | none => qs.min?).map (fun q => (q, pri))

/-- The function, process, queue and priority served next (R371 to R373). -/
def State.choice (s : State) : Option (Nat × Nat × Nat × Nat) :=
  s.turnOrder.findSome? (fun f =>
    let xs := s.servable f
    match nextProc f (xs.map (fun x => x.1.proc)) with
    | none => none
    | some p => (s.nextQueue f (xs.filter (fun x => x.1.proc == p))).map (fun q => (f.id, p, q.1, q.2)))

/-- A dispatch counted in its process and priority. -/
def State.noteServed (s : State) (vf p q pri : Nat) : State :=
  s.modVf vf (fun f => { f with
    procs := f.procs.map (fun x => if x.id == p then { x with served := if f.procLast == p && x.served < x.weight then x.served + 1 else 1 } else x)
    procLast := p
    queueLast := (p, pri, q) :: f.queueLast.filter (fun y => y.1 != p || y.2.1 != pri) })

/-! ## Semaphores (R369) -/

/-- The place of a semaphore, where its address keeps R369. -/
def State.semPlace (s : State) (vf proc a : Nat) : Option Nat :=
  if a % 8 != 0 then none
  else match s.deviceXlate vf proc a false with
    | some (pa, l) => if l.tracked && l.fmt == 0 && l.slot == 0 && inTiers pa && l.far.isNone then some pa else none
    | none => none

/-- SEMAPHORE_POLL (R369): the queue manager reads the head packet's semaphore. -/
def State.pollSemaphore (s : State) (vf q : Nat) : State :=
  match s.vf? vf with
  | none => s
  | some f => match f.queue? q with
    | none => s
    | some x =>
      let clear := fun (s : State) => s.modQueue vf q (fun y => { y with stat := y.stat &&& ~~~2 })
      match s.headPacket f x with
      | none => clear s
      | some p =>
        let sem := fieldAt p 48 8
        if sem == 0 then clear s
        else
          let s := s.withProc vf x.proc
          match s.semPlace vf x.proc sem with
          | none => s.queueError vf q 5
          | some pa =>
            if fieldAt p 56 8 ≤ s.memNat pa 8 then
              ((clear s).modQueue vf q (fun y => { y with ready := true })).queueEvent .packetDispatch
            else s.modQueue vf q (fun y => { y with stat := y.stat ||| 2 })

/-! ## Reading a packet (R367) -/

/-- Are bytes zero? -/
def zeroBytes (bs : List Byte) (i n : Nat) : Bool := ((bs.drop i).take n).all (· == 0)

/-- A convoy table (R47): an entry for each convoy in use, its index, its members as the list holds them, and whether the list is one
(R48); none where the table breaks R47. -/
def State.convoyTable (s : State) (vf proc a n blocks : Nat) : Option (List (Nat × List Nat)) :=
  if n = 0 then some [] else
  match s.deviceRead vf proc a (16 * n) with
  | none => none
  | some bs =>
    if !((List.range n).all (fun e => zeroBytes bs (16 * e + 10) 6)) then none
    else ((List.range n).filter (fun e => fieldAt bs (16 * e + 8) 2 != 0)).mapM (fun e =>
      let at_ := fieldAt bs (16 * e) 8
      let count := fieldAt bs (16 * e + 8) 2
      if at_ % 4 != 0 then none
      else match s.deviceRead vf proc at_ (4 * count) with
        | none => none
        | some ms =>
          let members := (List.range count).map (fun i => fieldAt ms (4 * i) 4)
          if members.all (· < blocks) && (members.zip members.tail).all (fun p => p.1 < p.2) then some (e, members) else none)

/-- A kernel descriptor's fields as a kernel, before its convoys and bundles are known. -/
def kernelFrom (bs : List Byte) (blocks : Nat) (consts : List (Nat × Nat)) : Kernel :=
  { p := fieldAt bs 0 1, v := fieldAt bs 1 1, s := fieldAt bs 2 1, vbp := fieldAt bs 3 1, vbv := fieldAt bs 4 1, t := fieldAt bs 5 1
    lsz := fieldAt bs 6 1, nbar := fieldAt bs 7 1, nring := fieldAt bs 8 1, chk := fieldAt bs 9 1 == 1, blocks := blocks
    pentry := fieldAt bs 16 4, ventry := fieldAt bs 20 4, sentry := fieldAt bs 24 4, convoys := [], consts := consts, bundles := [] }

/-- A launch bundle as its list gives it (R367): descriptor, handle word, and whether it is an entry bundle. -/
structure BundleDecl where
  desc : Nat
  word : Nat
  entry : Bool
deriving DecidableEq, Repr

/-- A kernel as its descriptor, constant table and bundle list give it, its convoy table not yet read. -/
structure KernelDesc where
  kernel : Kernel
  convoyAt : Nat
  nconvoy : Nat
  decls : List BundleDecl
deriving DecidableEq, Repr

/-- A bundle list (R367): none where it is malformed. -/
def State.bundleList (s : State) (vf proc a : Nat) : Option (List BundleDecl) :=
  if a = 0 then some [] else
  match s.deviceRead vf proc a 8 with
  | none => none
  | some h =>
    let n := leNat h
    if 1024 < n then none
    else match s.deviceRead vf proc (a + 8) (24 * n) with
      | none => none
      | some bs => (List.range n).mapM (fun i =>
          if 1 < fieldAt bs (24 * i + 16) 1 || !(zeroBytes bs (24 * i + 17) 7) then none
          else some { desc := fieldAt bs (24 * i) 8, word := fieldAt bs (24 * i + 8) 8, entry := fieldAt bs (24 * i + 16) 1 == 1 })

/-- A kernel descriptor read (R367): none where it is malformed. An NCONVOY above 256 is a value outside R47, which R56 decides. -/
def State.kernelDesc (s : State) (vf proc a : Nat) (gang : Bool) (grid : Nat) : Option KernelDesc :=
  match s.deviceRead vf proc a 64 with
  | none => none
  | some bs =>
    let nc := fieldAt bs 28 2
    if 1 < fieldAt bs 9 1 || !(zeroBytes bs 10 2) || !(zeroBytes bs 30 2) || !(zeroBytes bs 56 8) ||
        (nc == 0 && fieldAt bs 32 8 != 0) then none
    else match s.deviceRead vf proc (fieldAt bs 40 8) 256, s.bundleList vf proc (fieldAt bs 48 8) with
      | some cs, some decls =>
        let consts := (List.range 16).map (fun i => (fieldAt cs (16 * i) 8, fieldAt cs (16 * i + 8) 8))
        if consts.any (fun c => 0x4000000 < c.2) then none
        else some { kernel := kernelFrom bs (if gang then fieldAt bs 12 4 else if fieldAt bs 12 4 == 0 then grid else 0) consts
                    convoyAt := fieldAt bs 32 8, nconvoy := nc, decls := decls }
      | _, _ => none

/-- A pipe table read (R367): none where it is malformed. -/
def State.pipeTable (s : State) (vf proc a : Nat) : Option (List Pipe) :=
  match s.deviceRead vf proc a 256 with
  | none => none
  | some bs => (List.range 16).mapM (fun i =>
      let depth := fieldAt bs (16 * i) 4
      let feed := fieldAt bs (16 * i + 6) 1
      let drain := fieldAt bs (16 * i + 7) 1
      if !(depth == 0 || (16 ≤ depth && depth ≤ 65536)) || 3 < feed || 2 < drain || !(zeroBytes bs (16 * i + 10) 6) then none
      else some { depth := depth, popk := fieldAt bs (16 * i + 4) 1, pushk := fieldAt bs (16 * i + 5) 1, feed := feed, drain := drain
                  feedq := fieldAt bs (16 * i + 8) 2, entries := [], closed := false })

/-- A packet read whole. -/
structure Packet where
  gang : Bool
  nk : Nat
  descs : List KernelDesc
  pipes : List Pipe
  launch : Launch
deriving DecidableEq, Repr

/-- A packet's fields and what they point to: a queue error (R366), or the packet. -/
def State.readPacket (s : State) (vf : Nat) (q : Queue) : Except Nat Packet :=
  match s.slotBytes q 128 with
  | none => .error 2
  | some p =>
    let gang := fieldAt p 0 1 == 2
    let nk := fieldAt p 38 1
    let g := (fieldAt p 32 2, fieldAt p 34 2, fieldAt p 36 2)
    let kdesc := fieldAt p 8 8
    let grid := g.1 * g.2.1 * g.2.2
    if !(fieldAt p 0 1 == 1 || gang) then .error 3
    else if 3 < fieldAt p 1 1 || kdesc % 64 != 0 || fieldAt p 16 8 % 64 != 0 || fieldAt p 24 8 % 4096 != 0 || fieldAt p 80 8 % 32 != 0 ||
        !(zeroBytes p 39 9) || !(zeroBytes p 96 32) || (gang && g != (0, 0, 0)) || (!gang && (fieldAt p 88 8 != 0 || nk != 1)) then .error 4
    else match (List.range nk).mapM (fun k => s.kernelDesc vf q.proc (kdesc + 64 * k) gang grid),
        (if gang then s.pipeTable vf q.proc (fieldAt p 88 8) else some []) with
      | some descs, some pipes =>
        if [48, 64].any (fun i => fieldAt p i 8 != 0 && (s.semPlace vf q.proc (fieldAt p i 8)).isNone) then .error 5
        else
          let l : Launch :=
            { id := s.nextId, vf := vf, queue := q.q, proc := q.proc, gang := gang, eclass := fieldAt p 1 1, facnt := fieldAt p 4 4
              farea := fieldAt p 16 8, cimg := fieldAt p 24 8, grid := g, kernels := descs.map (·.kernel), pipes := pipes
              sigsem := fieldAt p 64 8, sigval := BitVec.ofNat 64 (fieldAt p 72 8), compl := fieldAt p 80 8, chunks := [], unplaced := []
              total := descs.foldl (fun acc d => acc + d.kernel.blocks) 0, endedBlocks := []
              dbarDone := Vector.replicate 4 0, records := 0, started := s.clk, energy := 0, paused := false, silent := false
              discarded := false }
          .ok { gang := gang, nk := nk, descs := descs, pipes := pipes, launch := l }
      | _, _ => .error 4

/-! ## Launch errors (R56, R441) -/

/-- Does a pipe break R327 or R367? -/
def pipeBad (f : Vf) (nk : Nat) (p : Pipe) : Bool :=
  p.depth != 0 && ((p.drain != 0 && (p.feed != 0 || p.popk != 0 || p.pushk == 0)) || (p.feed != 0 && p.pushk != 0) ||
    2 ^ nk ≤ p.popk || 2 ^ nk ≤ p.pushk ||
    (p.feed == 1 && !(match f.queue? p.feedq with | some q => q.feeds | none => false)))

/-- Step 1 of R441: the shape of the grid, or of the gang. A gang with no pipe in use breaks R53, and a gang kernel of more than 65,535
blocks breaks R327: both are GANG_SHAPE (DEDUCED, log 30: R56 names neither). -/
def shapeError (f : Vf) (k : Packet) : Option Nat :=
  let (x, y, z) := k.launch.grid
  if k.gang then
    (if k.nk = 0 || 8 < k.nk || k.descs.any (fun d => d.kernel.blocks == 0 || 65535 < d.kernel.blocks) ||
        k.pipes.all (fun p => p.depth == 0) || k.pipes.any (pipeBad f k.nk) then some 0x0B else none)
  else if x = 0 || y = 0 || z = 0 || 0xFFFFFFFF < x * y * z then some 0x09
  else if k.descs.any (fun d => d.kernel.blocks == 0) then some 0x0B else none

/-- Step 2 of R441 for one kernel (R33, R38, R39, R64, R176, R177); `code0` is the length of overlay 0. -/
def kernelError (code0 : Nat) (k : Kernel) : Option Nat :=
  let window := fun (v : Nat) => 8 ≤ v && v ≤ 64 && v % 8 == 0
  let entry := fun (declared : Bool) (a : Nat) => !declared || (a % 4 == 0 && a < code0)
  if 8 < k.p || k.v = 0 || 32 < k.v || 32 < k.p + k.v || 1 < k.s then some 0x01
  else if (k.p != 0 && !(window k.vbp)) || !(window k.vbv) || 32 < k.t || 32 < k.v * k.t then some 0x02
  else if 64 < k.lsz || 64 < k.nbar || 8 < k.nring then some 0x0A
  else if 524288 < k.pool then some 0x03
  else if !(entry (k.p != 0) k.pentry) || !(entry true k.ventry) || !(entry (k.s != 0) k.sentry) then some 0x0C
  else none

/-- The most supervisor-image bytes on a core of some (R286). -/
def State.imageBytes (s : State) (cores : List Nat) : Nat :=
  cores.foldl (fun acc c => max acc (match s.core? c with | some k => k.images.foldl (fun n i => n + 4 * i.2.length) 0 | none => 0)) 0

/-- Step 4 of R441 for one kernel: its convoys, or the error. -/
def State.kernelConvoys (s : State) (vf proc : Nat) (d : KernelDesc) : Except Nat (List (Nat × List Nat)) :=
  if 256 < d.nconvoy then .error 0x04
  else match s.convoyTable vf proc d.convoyAt d.nconvoy d.kernel.blocks with
  | none => .error 0x04
  | some cs =>
    let busy := (cs.flatMap (·.2)).any (fun b => 4 < (cs.filter (fun c => c.2.contains b)).length)
    if busy || cs.any (fun c => 256 < c.2.length) then .error 0x05 else .ok cs

/-- The bundles of a kernel declared as `bdecl` would declare them (R180): handles or refusals, with their entry marks. -/
def State.declareAll (s : State) (l : Launch) (tenant : Nat) : List BundleDecl → List (Nat × BundleDecl) × State
  | [] => ([], s)
  | d :: ds =>
    let head := match s.deviceRead l.vf l.proc d.desc 8 with | some bs => leNat bs | none => 0
    let ranges := if d.desc % 8 != 0 || 16 < head then [] else
      match s.deviceRead l.vf l.proc d.desc (8 + 16 * head) with | some bs => descRanges bs | none => []
    let (h, s) := s.declareBundle l.id tenant (s.walk l.vf l.proc) ranges
    let (rest, s) := s.declareAll l tenant ds
    ((h, d) :: rest, s)

/-- Do the lines of some entry bundles exceed the quota of a die (R303)? -/
def State.entryUnfit (s : State) (tenant : Nat) (handles : List Nat) : Bool :=
  [0, 1, 2, 3].any (fun die =>
    let us := s.bundles.filter (fun u => handles.contains u.handle && u.die == die)
    (match s.tenant? tenant with | some t => t.quota die | none => 0) < (newLines us []).length)

/-- Is a port granted by a function's policy (R409)? -/
def State.portGranted (s : State) (vf p : Nat) : Bool := s.vfPolicy vf 50 1 / 2 ^ p % 2 == 1

/-- The ports and feed queue of a gang (R327), looked at in step 6 of R441 and again when the gang would be admitted; another gang holds its
own once it has been admitted (log 31). -/
def State.feedError (s : State) (l : Launch) : Bool :=
  let taken := fun (g : Pipe → Bool) => s.launches.any (fun y => y.id != l.id && s.attached y && y.pipes.any (fun p => p.depth != 0 && g p))
  l.pipes.any (fun p => p.depth != 0 && (
    (2 ≤ p.feed && (!(s.portGranted l.vf (p.feed - 2)) ||
      (let port := vget s.ports (p.feed - 2)
       !(port.enabled && port.vf == l.vf && port.proc == l.proc)) || taken (fun z => z.feed == p.feed))) ||
    (p.drain != 0 && (!(s.portGranted l.vf (p.drain - 1)) || taken (fun z => z.drain == p.drain))) ||
    (p.feed == 1 && s.launches.any (fun y => y.id != l.id && y.vf == l.vf && s.attached y &&
      y.pipes.any (fun z => z.depth != 0 && z.feed == 1 && z.feedq == p.feedq)))))

/-- The slice otherwise empty (R50, R54): no tenant block resident, no scrub running, no overlay loaded. -/
def State.emptied (s : State) : State :=
  { s with
    blocks := s.blocks.filter (fun x => x.launch == 0)
    cores := s.cores.map (fun (c : CoreSt) => { c with scrubEnd := 0, overlays := [] }) }

/-- The blocks of a gang, in ascending kernel and linear index (R375). -/
def Launch.members (l : Launch) : List Cand :=
  (l.kernels.zipIdx).flatMap (fun k => (List.range k.1.blocks).map (fun i => { die := 0, kernel := k.2, lin := i }))

/-- The convoy groups of a launch, each as its blocks (R50). -/
def Launch.groups (l : Launch) : List (List Cand) :=
  (l.kernels.zipIdx).flatMap (fun k =>
    (((k.1.convoys.flatMap (·.2)).filter (fun b => (k.1.group b).head? == some b)).foldl (fun acc b => insertNew b acc) []).map
      (fun b => (k.1.group b).map (fun i => ({ die := 0, kernel := k.2, lin := i } : Cand))))

/-- Step 7 of R441: residency on an otherwise empty slice. The launch is in the state. -/
def State.unfit (s : State) (l : Launch) (f : Vf) : Option Nat :=
  let e := s.emptied
  if l.groups.any (fun g => (e.startAll l.id f.dies g).isNone) then some 0x06
  else if l.gang && (e.startAll l.id f.dies l.members).isNone then some 0x07 else none

/-- A `.stream` directive's bind (R176), as `sgbind` would make it: its status and the state after. In the pause of an activation it waits, with
its packet (R326, log 21). -/
def State.bindDirective (s : State) (l : Launch) (tenant slot a : Nat) : Nat × State :=
  if s.slotTaken tenant slot then (3, s)
  else match s.deviceRead l.vf l.proc a 64 with
    | none => (1, s)
    | some head =>
      let len := imgLen head
      if len < 64 ∨ 65536 < len then (1, s)
      else match s.deviceRead l.vf l.proc a len with
        | some img => s.bindImage l.vf tenant slot img
        | none => (1, s)

/-- Step 8 of R441: the binds in ascending slot; on a failure its status and slot, with the earlier binds undone. -/
def State.bindAll (s : State) (l : Launch) (tenant : Nat) (done : List Nat) : List (Nat × Nat) → Option (Nat × Nat) × State
  | [] => (none, s)
  | (slot, a) :: rest =>
    match s.bindDirective l tenant slot a with
    | (0, s) => s.bindAll l tenant (done ++ [slot]) rest
    | (st, s) => (some (st, slot), done.foldl (fun st z => st.unbind tenant z) s)

/-- What the checks of a launch answer: an error with bytes 2 and 3 of its record, or the launch as it goes on, the handle words
to write, and the state with its bundles and binds made. -/
inductive Checked where
  | bad (code status slot : Nat) (s : State)
  | good (l : Launch) (words : List (Nat × Nat)) (s : State)

/-- The checks of R441, in its order (LAUNCH_CHECK). Where the code image's directory cannot be read, overlay 0 counts as empty, so that the
launch fails with ENTRY_POINT (DEDUCED, log 30: the spec gives an unreadable CIMG no error of its own). -/
def State.checkLaunch (s : State) (f : Vf) (k : Packet) (binds : List (Nat × Nat)) : Checked :=
  let l := k.launch
  let code0 := match s.directory l.vf l.proc l.cimg 0 with | some d => d.2 | none => 0
  let slice := f.dense.map (·.2)
  match shapeError f k with
  | some e => .bad e 0 0 s
  | none => match k.descs.findSome? (fun d => kernelError code0 d.kernel) with
    | some e => .bad e 0 0 s
    | none =>
      if 0x40000 < code0 + s.imageBytes slice then .bad 0x0D 0 0 s
      else match k.descs.mapM (s.kernelConvoys l.vf l.proc) with
        | .error e => .bad e 0 0 s
        | .ok convoys =>
          let step := fun (acc : List (List (Nat × BundleDecl)) × State) (d : KernelDesc) =>
            let (hs, s') := acc.2.declareAll l f.tenant d.decls
            (acc.1 ++ [hs], s')
          let (handles, s1) := k.descs.foldl step ([], s)
          let entries := ((handles.flatMap id).filter (fun h => h.2.entry)).map (·.1)
          if entries.any (fun h => 2 ^ 32 ≤ h) || s1.entryUnfit f.tenant entries then .bad 0x08 0 0 s
          else
            let kernels := ((l.kernels.zip convoys).zip handles).map (fun x =>
              { x.1.1 with convoys := x.1.2, bundles := (x.2.filter (fun h => h.1 < 2 ^ 32)).map (fun h => (h.1, h.2.entry)) })
            let l : Launch := { l with kernels := kernels }
            if s1.feedError l then .bad 0x07 0 0 s
            else
              let s2 := { s1 with launches := s1.launches ++ [l], nextId := s1.nextId + 1 }
              match s2.unfit l f with
              | some e => .bad e 0 0 s
              | none => match s2.bindAll l f.tenant [] (sortBy (fun a b => a.1 ≤ b.1) binds) with
                | (some (st, slot), _) => .bad 0x0E st slot s
                | (none, s3) => .good { l with binds := binds.map (·.1) } ((handles.flatMap id).map (fun h => (h.2.word, h.1)))
                    (s3.modLaunch l.id (fun y => { y with binds := binds.map (·.1) }))

/-! ## Completion (R368) -/

/-- A completion record. -/
def completionBytes (l : Launch) (now status code b2 b3 : Nat) : List Byte :=
  leBytes 1 status ++ leBytes 1 code ++ leBytes 1 b2 ++ leBytes 1 b3 ++ leBytes 4 l.records ++ leBytes 8 l.started ++ leBytes 8 now ++
  leBytes 8 l.energy

/-- The record of a launch and the signal after it (R368, R369). -/
def State.signalEnd (s : State) (l : Launch) (status code b2 b3 : Nat) : State :=
  let rec_ := completionBytes l s.clk status code b2 b3
  let s := if l.vf == stewardVf then s.put none (.glob l.compl) rec_ none else s.deviceWrite l.vf l.proc l.compl rec_
  if l.sigsem == 0 then s
  else match s.deviceXlate l.vf l.proc l.sigsem true with
    | some (pa, leaf) => s.put none (.glob pa) (leBytes 8 (s.memNat pa 8 + l.sigval.toNat)) (leaf.secondOf l.sigsem)
    | none => s

/-- Every die's admission looks again, and the queue manager. -/
def State.lookAgain (s : State) : State := [0, 1, 2, 3].foldl (fun st d => st.queueEvent (.blockAdmission d)) (s.queueEvent .packetDispatch)

/-- A launch's blocks, overlays and bundles go with it (R46, R86); what it moved stays noted (R378). -/
def State.removeLaunch (s : State) (id : Nat) : State :=
  let s := s.noteMoved id
  let tenants := (s.bundles.filter (fun u => u.launch == id)).map (fun u => (u.tenant, u.die))
  let s := { s with
    launches := s.launches.filter (fun x => x.id != id)
    blocks := s.blocks.filter (fun x => x.launch != id)
    saved := s.saved.filter (fun x => x.launch != id)
    bundles := s.bundles.filter (fun u => u.launch != id)
    bundleReqs := s.bundleReqs.filter (fun r => r.handles.any (fun h => s.bundles.any (fun u => u.handle == h && u.launch != id)))
    cores := s.cores.map (fun (c : CoreSt) => { c with overlays := c.overlays.filter (fun o => o.launch != id) }) }
  (tenants.foldl (fun st t => st.queueEvent (.bundleRequestServe t.1 t.2)) s).lookAgain

/-- LAUNCH_COMPLETION (R368): every block has ended; the record, the signal, and the launch goes. A steward kernel's core reads 2 in
STLAUNCH (R433). -/
def State.completeLaunch (s : State) (id : Nat) : State :=
  match s.launch? id with
  | none => s
  | some l =>
    if l.endedBlocks.length != l.total && !l.discarded then s
    else
      let cores := (s.blocks.filter (fun x => x.launch == id)).map (·.core)
      let s := s.signalEnd l (if l.discarded then 3 else 1) 0 0 0
      let s := if l.vf == stewardVf then cores.foldl (fun st c => st.modCore c (fun k => { k with stlaunch := 2 })) s else s
      s.removeLaunch id

/-- A gang that waits for admission fails with GANG_UNFIT, where its port or feed queue has meanwhile gone to another (R327): what its
directives bound is unbound again before its record (R441). -/
def State.failGang (s : State) (l : Launch) : State :=
  let tenant := match s.vf? l.vf with | some f => f.tenant | none => 0
  (((l.binds.foldl (fun st z => st.unbind tenant z) s).signalEnd l 2 0x07 0 0)).removeLaunch l.id

/-! ## Dispatch (R371, R441) -/

/-- The chunks of a grid on a slice of D dies (R27). -/
def gridChunks (blocks dies : Nat) : List Chunk :=
  (List.range ((blocks + 15) / 16)).map (fun c => { c := c, die := c % dies, next := 16 * c, last := min blocks (16 * c + 16), issued := false })

/-- A device write to an address of a process that a program may only read: the runtime's own store (R180). -/
def State.runtimeWrite (s : State) (vf proc va : Nat) (bs : List Byte) : State :=
  match s.deviceXlate vf proc va false with
  | some (pa, l) => s.put none (.glob pa) bs (l.secondOf va)
  | none => s

/-- A checked launch goes on: its handle words are written and its blocks wait for admission. -/
def State.beginLaunch (s : State) (f : Vf) (l : Launch) (words : List (Nat × Nat)) : State :=
  let s := words.foldl (fun st w => st.runtimeWrite l.vf l.proc w.1 (leBytes 8 w.2)) s
  let s := s.modLaunch l.id (fun y => { y with
    chunks := if l.gang then [] else gridChunks l.total (max 1 f.dies.length)
    unplaced := if l.gang then [{ die := 0, kernel := 0, lin := 0 }] else [] })
  [0, 1, 2, 3].foldl (fun st d => st.queueEvent (.blockAdmission d)) s

/-- A queue's head packet is taken: QHEAD moves past it, and WAIT stands clear (R369). -/
def State.takePacket (s : State) (vf q : Nat) : State :=
  (s.modQueue vf q (fun x => { x with head := BitVec.ofNat 32 ((x.head.toNat + 4) % x.size), ready := false, stat := x.stat &&& ~~~2,
                                      slices := 0, eventSent := false })).queueEvent (.semaphorePoll vf q)

/-- Has a queue's head packet `.stream` directives, whose binds wait out the pause of an activation (R176, R326)? -/
def State.bindsIn (s : State) (vf q : Nat) : Bool :=
  ((s.vf? vf).bind (·.queue? q)).any (fun x => !(Config.streamBinds ((s.slotBytes x 128).getD [])).isEmpty)

/-- PACKET_DISPATCH (R371): the next packet is taken, checked, and begun or ended with its launch error. One whose launch would bind
stream graphs waits for the end of an activation's pause, and those after it in the order with it (R326; DESIGN CHOICE, log 21). -/
def State.dispatch (s : State) : State :=
  match s.choice with
  | none => s
  | some (vf, proc, q, pri) =>
    if s.fw.phase == .paused && s.bindsIn vf q then { s with ik := { s.ik with held := s.ik.held ++ [.packetDispatch] } } else
    let s := (s.withProc vf proc).noteServed vf proc q pri
    match s.vf? vf with
    | none => s
    | some f => match f.queue? q with
      | none => s
      | some x =>
        let s := s.queueEvent .packetDispatch
        match s.readPacket vf x with
        | .error e => s.queueError vf q e
        | .ok k =>
          let binds := Config.streamBinds ((s.slotBytes x 128).getD [])
          match s.checkLaunch f k binds with
          | .bad e st slot s => (s.takePacket vf q).signalEnd k.launch 2 e st slot
          | .good l words s => (s.takePacket vf q).beginLaunch f l words

/-! ## Feed queues (R367) -/

/-- The gang pipe a feed queue's entries go to: that of the resident gang that names it (R317, R367). -/
def State.feedPipe (s : State) (vf q : Nat) : Option (Launch × Nat) :=
  s.launches.findSome? (fun l =>
    if l.vf == vf && s.residentGang l then
      ((List.range 16).find? (fun i => match l.pipes[i]? with | some p => p.depth != 0 && p.feed == 1 && p.feedq == q | none => false)).map
        (fun i => (l, i))
    else none)

/-- An entry pushed into a pipe by the queue manager or an engine (R108). -/
def State.pushEntry (s : State) (launch pipe : Nat) (e : List Byte) : State :=
  s.modLaunch launch (fun l => { l with pipes := l.pipes.mapIdx (fun i p => if i = pipe then { p with entries := p.entries ++ [e] } else p) })

/-- A resident gang's feeds are served (R327, R367). -/
def State.serveFeeds (s : State) (l : Launch) : State :=
  l.pipes.foldl (fun st p => if p.depth != 0 && p.feed == 1 then st.queueEvent (.feedQueuePush l.vf p.feedq) else st) s

/-- FEED_QUEUE_PUSH (R367): one entry, of the emit buffer if it holds one, else of the ring, goes into the pipe where it has room. -/
def State.feedPush (s : State) (vf q : Nat) : State :=
  match s.vf? vf, s.feedPipe vf q with
  | some f, some (l, i) => match f.queue? q, l.pipes[i]? with
    | some x, some p =>
      if p.closed || p.depth ≤ s.pipeUsed l i then s
      else match x.emit with
        | e :: rest => ((s.modQueue vf q (fun y => { y with emit := rest })).pushEntry l.id i e).queueEvent (.feedQueuePush vf q)
        | [] =>
          if !(x.serves f) || !x.feeds || x.filled == 0 then s
          else match s.slotBytes x 32 with
            | none => s.queueError vf q 2
            | some e =>
              ((s.modQueue vf q (fun y => { y with head := BitVec.ofNat 32 ((y.head.toNat + 1) % y.size) })).pushEntry l.id i e).queueEvent
                (.feedQueuePush vf q)
    | _, _ => s
  | _, _ => s

/-- PACKET_DISPATCH (R371): The queue manager takes the next eligible launch packet. -/
def execPacketDispatch (s : State) : Out :=
  .next s.dispatch

/-- SEMAPHORE_POLL (R369): The queue manager re-reads a waiting packet's semaphore at least every 1 µs. -/
def execSemaphorePoll (vf q : Nat) (s : State) : Out :=
  .next (s.pollSemaphore vf q)

/-- FEED_QUEUE_PUSH (R367): The queue manager pushes a feed-queue entry into its gang pipe when there is room. -/
def execFeedQueuePush (vf q : Nat) (s : State) : Out :=
  .next (s.feedPush vf q)

/-- LAUNCH_COMPLETION (R368): After every block has ended, the completion record is written and the semaphore signalled. -/
def execLaunchCompletion (launch : Nat) (s : State) : Out :=
  .next (s.completeLaunch launch)

end Sys2Proof.Machine
end

