-- ==== Sys2Proof/Machine/Sched.lean ====
section
/-! DEFINITION. Distribution, admission and placement (R27, R50, R54, R302, R305, R374, R375, R385, R417), slices (R370, R371, R380)
and energy (R377, R378, R438). -/
namespace Sys2Proof.Machine
open Sys2Proof

/-! ## Admission (R374, R375) -/

/-- What a die's admission may do for a launch: restore saved blocks, place a candidate, or let the distributor issue the next
block of a chunk. -/
inductive Unit_ where
  | restore (saved : List Saved)
  | start (launch : Nat) (c : Cand)
  | issue (launch : Nat) (c : Chunk)
deriving DecidableEq, Repr

/-- The dense number of a physical die in a function's slice. -/
def Vf.denseDie (f : Vf) (die : Nat) : Option Nat := f.dies.idxOf? die

/-- The launches of a function that take part in admission, oldest first: not paused, not ended. -/
def State.openLaunches (s : State) (f : Vf) : List Launch :=
  s.launches.filter (fun l => l.id != 0 && l.vf == f.id && !l.paused && !l.discarded)

/-- A launch's units on a dense die, in their order: saved blocks are restored by the first die's admission. -/
def State.unitsOf (s : State) (l : Launch) (dense : Nat) : List Unit_ :=
  let saved := if dense = 0 then (match s.saved.find? (fun v => v.launch == l.id) with | some v => [Unit_.restore (s.savedWith v)] | none => [])
    else []
  let waiting := l.unplaced.filter (fun c => c.die == dense)
  let next := if waiting.isEmpty then ((l.chunks.find? (fun c => c.die == dense && c.next < c.last)).map (Unit_.issue l.id)).toList else []
  saved ++ waiting.map (Unit_.start l.id) ++ next

/-- What one look at a unit gives: it was placed or issued; it cannot be; or it waits for bundle lines only. -/
inductive Admit where
  | done (s : State)
  | blocked (s : State)
  | lines (s : State)

/-- Is a candidate's block one of a convoy group, be it a group of its own (R50)? -/
def Launch.inGroup (l : Launch) (c : Cand) : Bool :=
  (l.kernels[c.kernel]?).any (fun k => k.convoys.any (fun v => v.2.contains c.lin))

/-- The blocks a candidate stands for: a gang, a convoy group, or itself (R50, R54). -/
def Launch.unit (l : Launch) (c : Cand) : List Cand :=
  if l.gang then l.members
  else if l.inGroup c then (match l.kernels[c.kernel]? with | some k => (k.group c.lin).map (fun i => { c with lin := i }) | none => [c])
  else [c]

/-- Cores just taken that another tenant's block left unscrubbed (R417). -/
def State.unscrubbed (before after : State) (tenant : Nat) : List Nat :=
  ((after.blocks.filter (fun x => (before.block? x.id).isNone)).map (·.core)).filter (fun c => before.foreign c tenant)

/-- A core scrubbed for a new tenant (R417). -/
def State.scrubFor (s : State) (tenant core : Nat) : State := (s.scrubCore core).modCore core (fun c => { c with tenant := tenant })

/-- The entry bundles of an admission that are not all in L2 are asked for, with the others of the launch on that die (R302, R305): one
request for each home die, once. -/
def State.askBundles (s : State) (tenant : Nat) (l : Launch) (lacking : List Bundle) : State :=
  (lacking.map (·.die)).eraseDups.foldl (fun st die =>
    let hs := l.entryHandles.filter (fun h => st.bundles.any (fun u => u.handle == h && u.die == die))
    let q : BundleReq := { tenant := tenant, die := die, handles := hs, blk := none, served := false }
    if st.bundleReqs.any (fun r => r.same q) then st
    else ({ st with bundleReqs := st.bundleReqs ++ [q] } : State).queueEvent (.bundleRequestServe tenant die)) s

/-- A candidate's blocks have started: it waits no longer, the requests for its bundles are done with, and an admitted gang's feeds are
served (R305, R327). -/
def State.started (s : State) (l : Launch) (c : Cand) : State :=
  let s := s.modLaunch l.id (fun y => { y with unplaced := y.unplaced.filter (fun z => z != c) })
  let s := { s with bundleReqs := s.bundleReqs.filter (fun r => r.blk.isSome || !(r.handles.all l.entryHandles.contains)) }
  s.serveFeeds l

/-- The dies a candidate's blocks may go to: its own, or any of the slice for a group or gang (R375). -/
def Launch.diesFor (l : Launch) (f : Vf) (dense : Nat) (c : Cand) : List Nat :=
  if l.gang || l.inGroup c then f.dies else (f.dies[dense]?).toList

/-- A candidate looked at (R375): placed where cores take it and its entry bundles are resident; a core another tenant used is
scrubbed first. It takes its place in the queue of R305 when cores could take all its blocks and bundle lines alone are lacking, one request
for each launch and die (DESIGN CHOICE, log 57: R305 gives the order of the queue and not this moment). A gang whose port or feed queue another has been admitted with fails (R327). -/
def State.admitCand (s : State) (l : Launch) (f : Vf) (dense : Nat) (c : Cand) (ask : Bool) : Admit :=
  if l.gang && s.feedError l then .done (s.failGang l)
  else match s.startAll l.id (l.diesFor f dense c) (l.unit c) with
  | none => .blocked s
  | some after =>
    let lacking := s.bundles.filter (fun u => l.entryHandles.contains u.handle && !(s.loaded u))
    let dirty := s.unscrubbed after f.tenant
    if !lacking.isEmpty then .lines (if ask then s.askBundles f.tenant l lacking else s)
    else if !dirty.isEmpty then .blocked (dirty.foldl (fun st k => st.scrubFor f.tenant k) s)
    else .done (after.started l c)

/-- A distributor issues the next block of a chunk; a block of a convoy group is skipped but for the group's lowest (R374). -/
def State.issueNext (s : State) (l : Launch) (c : Chunk) : State :=
  let skip := match l.kernels[0]? with
    | some k => k.convoys.any (fun v => v.2.contains c.next) && (k.group c.next).head? != some c.next
    | none => false
  s.modLaunch l.id (fun y => { y with
    chunks := y.chunks.map (fun z => if z.c == c.c then { z with next := z.next + 1, issued := z.issued || !skip } else z)
    unplaced := if skip then y.unplaced else y.unplaced ++ [{ die := c.die, kernel := 0, lin := c.next }] })

/-- One unit looked at. -/
def State.admitUnit (s : State) (f : Vf) (dense : Nat) (u : Unit_) (ask : Bool) : Admit :=
  match u with
  | .restore vs => match s.restoreAll vs with
    | some after =>
      let dirty := s.unscrubbed after f.tenant
      if dirty.isEmpty then .done (vs.foldl (fun st v => match st.launch? v.launch with | some l => st.serveFeeds l | none => st) after)
      else .blocked (dirty.foldl (fun st k => st.scrubFor f.tenant k) s)
    | none => .blocked s
  | .start id c => match s.launch? id with | some l => s.admitCand l f dense c ask | none => .blocked s
  | .issue id c => match s.launch? id with | some l => .done (s.issueNext l c) | none => .blocked s

/-- A function's units in their order, until one is placed or issued (the first component), or one is held back; a wait for bundle
lines holds back only units that need new lines. -/
def State.admitList (s : State) (f : Vf) (dense : Nat) (ask : Bool) : List Unit_ → Bool × State
  | [] => (false, s)
  | u :: us => match s.admitUnit f dense u ask with
    | .done s => (true, s)
    | .blocked s => (false, s)
    | .lines s => s.admitList f dense false us

/-- A chunk with blocks to issue from which none has issued (R374); blocks of a group that chunk issue skips are not issued from it. -/
def Chunk.untouched (c : Chunk) : Bool := !c.issued && c.next < c.last

/-- Has a function's distributor run dry on a dense die: it has no block to issue there (R374)? -/
def State.dry (s : State) (f : Vf) (dense : Nat) : Bool :=
  !((s.openLaunches f).any (fun l => l.chunks.any (fun c => c.die == dense && c.next < c.last)))

/-- Is a die's steal message for a function on its way (R374)? -/
def State.stealing (s : State) (f : Vf) (dense : Nat) : Bool :=
  s.agenda.any (fun i => match i with
    | .chunkSteal id d => d == dense && (match s.launch? id with | some l => l.vf == f.id | none => false)
    | _ => false)

/-- A distributor that has run dry sends one steal message (R374): for the oldest launch with an untouched chunk on another die. -/
def State.seekSteal (s : State) (f : Vf) (dense : Nat) : State :=
  let ls := s.openLaunches f
  if !(s.dry f dense) || s.stealing f dense then s
  else match ls.find? (fun l => l.chunks.any (fun c => c.die != dense && c.untouched)) with
    | some l => s.queueEvent (.chunkSteal l.id dense)
    | none => s

/-- The functions in order, until one has a unit placed or issued. -/
def State.admitFunctions (s : State) (die : Nat) : List Vf → Bool × State
  | [] => (false, s)
  | f :: fs => match f.denseDie die with
    | none => s.admitFunctions die fs
    | some dense =>
      let (ok, s1) := s.admitList f dense true ((s.openLaunches f).flatMap (fun l => s.unitsOf l dense))
      if ok then (true, s1) else (s1.seekSteal f dense).admitFunctions die fs

/-- BLOCK_ADMISSION (R375): one unit placed on a die, and the die's admission again; or nothing more to place. -/
def State.admission (s : State) (die : Nat) : State :=
  let (ok, s) := s.admitFunctions die s.turnOrder
  if ok then s.queueEvent (.blockAdmission die) else s

/-- CHUNK_STEAL (R374): the die holding the most untouched chunks of the launch, the lowest on a tie, gives up its highest to one that is
still dry. -/
def State.steal (s : State) (launch dense : Nat) : State :=
  match s.launch? launch with
  | none => s
  | some l =>
    let count := fun (d : Nat) => (l.chunks.filter (fun c => c.die == d && c.untouched)).length
    let victim := ([0, 1, 2, 3].filter (fun d => d != dense)).foldl (fun (best : Nat × Nat) d => if best.2 < count d then (d, count d) else best) (0, 0)
    if victim.2 = 0 || !((s.vf? l.vf).any (fun f => s.dry f dense)) then s
    else match (l.chunks.filter (fun c => c.die == victim.1 && c.untouched)).getLast? with
      | none => s
      | some c =>
        let s := s.modLaunch launch (fun y => { y with chunks := y.chunks.map (fun z => if z.c == c.c then { z with die := dense } else z) })
        match (s.vf? l.vf).bind (fun f => f.dies[dense]?) with
        | some die => s.queueEvent (.blockAdmission die)
        | none => s

/-! ## Slices (R370, R371, R380) -/

/-- Write events that wait while the event ring has room (R370). -/
def State.writeEvents (s : State) (vf : Nat) : Nat → State
  | 0 => s
  | n + 1 => match s.vf? vf with
    | none => s
    | some f =>
      let next := (f.evtail.toNat + 1) % 128
      match f.events with
      | [] => s
      | e :: rest =>
        if next == f.evhead.toNat % 128 then s
        else
          let e := e.set 1 (BitVec.ofNat 8 (min 255 f.lost))
          let a := 0x2000000000000 + bitsOf f.evbase.toNat 63 12 * 4096 + 32 * (f.evtail.toNat % 128)
          let s := if bitsOf f.evbase.toNat 63 12 * 4096 + 4096 ≤ 2 ^ 48 then s.put none (.glob a) e none else s
          (s.modVf vf (fun g => { g with evtail := BitVec.ofNat 32 next, events := rest, lost := 0, msix := g.msix ++ [0] })).writeEvents vf n

/-- An event raised (R370): held among at most 16, or lost, and the ring written where it has room. -/
def State.raiseEvent (s : State) (vf : Nat) (e : List Byte) : State :=
  let s := s.modVf vf (fun f => if 16 ≤ f.events.length then { f with lost := f.lost + 1 } else { f with events := f.events ++ [e] })
  s.writeEvents vf 17

/-- A head packet that waits for a signaller whose queue is not mapped (R370): its SIGQ, semaphore and value. -/
def State.stalledOn (s : State) (f : Vf) (q : Queue) : Option (Nat × Nat × Nat) :=
  match s.headPacket f q with
  | none => none
  | some p =>
    let sig := fieldAt p 2 2
    if fieldAt p 48 8 == 0 || q.ready || sig == 0xFFFF then none
    else match f.queue? sig with
      | some x => if x.stat.getLsbD 0 then none else some (sig, fieldAt p 48 8, fieldAt p 56 8)
      | none => none

/-- A slice of a function begins: its descheduled waiters note it. `slices` is twice the whole slices counted, and odd within one. -/
def State.beginStalls (s : State) (f : Vf) : State :=
  f.queues.foldl (fun st q => st.modQueue f.id q.q (fun y =>
    { y with slices := if (s.stalledOn f q).isSome then y.slices / 2 * 2 + 1 else 0 })) s

/-- A slice of a function ends: a waiter descheduled all through it counts it, and after two sets STALLED and raises the event,
once for its head packet. -/
def State.countStalls (s : State) (f : Vf) : State :=
  f.queues.foldl (fun st q =>
    match st.stalledOn f q with
    | none => st.modQueue f.id q.q (fun y => { y with slices := 0 })
    | some (sig, sem, val) =>
      if q.slices % 2 == 0 then st
      else
        let st := st.modQueue f.id q.q (fun y => { y with slices := y.slices + 1 })
        if q.eventSent || q.slices + 1 < 4 then st
        else
          let e := leBytes 1 1 ++ leBytes 1 0 ++ leBytes 2 q.q ++ leBytes 2 sig ++ leBytes 2 0 ++ leBytes 8 sem ++ leBytes 8 val ++ leBytes 8 st.clk
          (st.modQueue f.id q.q (fun y => { y with stat := y.stat ||| 4, eventSent := true })).raiseEvent f.id e) s

/-- The cores where candidates of a function that cannot be placed would go (R380). -/
def State.stuckCores (s : State) (g : Vf) : List Nat :=
  (s.openLaunches g).flatMap (fun l => (List.range g.dies.length).flatMap (fun dense => (s.unitsOf l dense).flatMap (fun u =>
    match u with
    | .restore vs => if (s.restoreAll vs).isNone then g.coresOn g.dies else []
    | .start _ c => if (s.startAll l.id (l.diesFor g dense c) (l.unit c)).isNone then g.coresOn (l.diesFor g dense c) else []
    | .issue _ _ => [])))

/-- The blocks of a function that stand on cores where another function's candidate cannot be placed (R380). -/
def State.sharedBlocks (s : State) (f : Vf) : List Nat :=
  let cores := (s.vfs.filter (fun g => g.id != f.id && g.id < 64)).flatMap s.stuckCores
  ((s.launchesOf f.id).flatMap s.residentOf).filter (fun b => (match s.block? b with | some x => cores.contains x.core | none => false))

/-- A slice that is held ends (R371): its stalls are counted, and a time-shared function's blocks on cores where another's candidate
cannot be placed are pre-empted (R380), whole groups and gangs together. -/
def State.endSlice (s : State) (f : Vf) : State :=
  let s := s.countStalls f
  if !(s.timeShared f.id) then s
  else match (s.sharedBlocks f).foldl (fun acc b => addAll (s.together b) acc) [] with
    | [] => s
    | ids => (s.preempt ids).getD s

/-- SLICE_END (R371): the holder's slice ends, and the next active function takes one; where none is active, none is held. -/
def State.sliceEnd (s : State) : State :=
  match s.vf? s.sliceHolder with
  | none => s
  | some f =>
    let s := if s.sliceOn then s.endSlice f else s
    let next := ((List.range 64).map (fun i => (s.sliceHolder + 1 + i) % 64)).find? (fun v => match s.vf? v with | some g => s.active g | none => false)
    let s := { s with sliceHolder := next.getD s.sliceHolder, sliceOn := next.isSome, sliceStart := s.clk }
    let s := match next.bind s.vf? with | some g => s.beginStalls g | none => s
    s.lookAgain

/-! ## Energy (R377, R378, R438) -/

/-- The units with a meter: cores by number, memory controllers from 512, links from 544 (log 7). -/
def State.meterUnits (s : State) : List Nat := s.cores.map (·.id) ++ sharedMeters

/-- The use each launch made of a unit since the last sample: issue slots and matrix instructions of a core, bytes of a memory or
link, moved for launches that stand and for those that have ended since. -/
def State.usesOf (s : State) (unit : Nat) : List (Nat × Nat × Nat) :=
  let noted := (s.meters.filter (fun m => m.core == unit)).map (fun m => (m.vf, m.launch, m.uses))
  if unit < 512 then noted
  else noted ++ (s.launches.filter (fun l => l.vf != stewardVf)).map (fun l => (l.vf, l.id, Config.bytesMoved s.samples unit l.id))

/-- A unit's energy split in proportion to its uses; what is left is the steward's. -/
def State.chargeUnit (s : State) (unit : Nat) : State :=
  let us := s.usesOf unit
  let total := us.foldl (fun acc u => acc + u.2.2) 0
  let e := Config.energy s.samples unit
  let s := us.foldl (fun st u =>
    let part := if total = 0 then 0 else e * u.2.2 / total
    (st.modLaunch u.2.1 (fun l => { l with energy := l.energy + part })).modVf u.1 (fun f => { f with charged := f.charged + part })) s
  { s with steward := s.steward + (e - us.foldl (fun acc u => acc + (if total = 0 then 0 else e * u.2.2 / total)) 0) }

/-- ENERGY_METER_SAMPLE (R378, R438): every meter is read and charged, and slots are gated until the average lies under the cap
(`State.gates`). -/
def State.sampleEnergy (s : State) : State :=
  let s := s.meterUnits.foldl State.chargeUnit s
  { s with meters := [], samples := s.clk / 27000, gateCap := decide (s.fw.pwrcap.toNat ≤ Config.watts s.samples) }

/-- ENERGY_WINDOW_START (R377): a window begins and every budget is whole again. -/
def State.startWindow (s : State) : State :=
  ({ s with
    energyWin := s.clk / 2700000
    vfs := s.vfs.map (fun f => { f with charged := 0 }) } : State).queueEvent .packetDispatch

/-- CHUNK_STEAL (R374): A dry distributor's steal message takes another die's highest untouched chunk. -/
def execChunkSteal (launch die : Nat) (s : State) : Out :=
  .next (s.steal launch die)

/-- BLOCK_ADMISSION (R375): A candidate block, convoy group or gang is placed on cores when resources and bundles allow. -/
def execBlockAdmission (die : Nat) (s : State) : Out :=
  if die < 4 then .next (s.admission die) else .fault .noUnit

/-- SLICE_END (R371): A function's slice expires and the next active function takes the slice. -/
def execSliceEnd (s : State) : Out :=
  .next s.sliceEnd

/-- ENERGY_METER_SAMPLE (R378): Every 10 µs energy is measured, charged to functions and issue gating adjusted. -/
def execEnergyMeterSample (s : State) : Out :=
  .next s.sampleEnergy

/-- ENERGY_WINDOW_START (R377): A new 1 ms energy window begins and budgets are restored. -/
def execEnergyWindowStart (s : State) : Out :=
  .next s.startWindow

end Sys2Proof.Machine
end

