-- ==== Sys2Proof/Machine/Window.lean ====
section
/-! DEFINITION. The dual-home window (R362 to R364): SYNC, its line copies, and SWITCH. -/
namespace Sys2Proof.Machine
open Sys2Proof

/-- The leaf of a space's window, if its current leaf for DHVA is a dual-home one. -/
def State.windowLeaf (s : State) (vf proc : Nat) : Option Leaf :=
  match (s.vf? vf).bind (fun f => f.proc? proc) with
  | none => none
  | some p => match s.walk vf proc p.dhva.toNat with
    | .leaf l => if l.pa2.isSome then some l else none
    | .bad _ _ => none

/-- DHSTAT set: state, failure reason, lines copied (R358). -/
def State.setDhstat (s : State) (vf proc st reason lines : Nat) : State :=
  s.modProc vf proc (fun p => { p with dhstat := BitVec.ofNat 64 (st + 2 ^ 4 * reason + 2 ^ 32 * lines) })

/-- SYNC (R363). -/
def State.syncWindow (s : State) (vf proc : Nat) : State :=
  match s.windowLeaf vf proc with
  | none => s.setDhstat vf proc 3 1 0
  | some l =>
    if s.bundles.any (fun u => u.lines.any (fun ln => l.pa ≤ 256 * ln && 256 * ln < l.pa + l.size)) then s.setDhstat vf proc 3 2 0
    else (s.setDhstat vf proc 1 0 0).queueEvent (.dhLineCopy vf proc)

/-- The next line copied to the second frame, poison and all (R363); where the leaf has been closed the window is over. -/
def State.copyLine (s : State) (vf proc : Nat) : State :=
  match (s.vf? vf).bind (fun f => f.proc? proc) with
  | none => s
  | some p =>
    if bitsOf p.dhstat.toNat 1 0 != 1 then s
    else match s.windowLeaf vf proc with
      | none => s.setDhstat vf proc 0 0 0
      | some l => match l.pa2 with
        | none => s
        | some second =>
          let n := bitsOf p.dhstat.toNat 63 32
          let src := l.pa + 256 * n
          let bad := s.poison.filter (fun x => src ≤ x.pa && x.pa < src + 256)
          let s := s.writeMem (second + 256 * n) (s.lineBytes (src / 256))
          let s := { s with poison := s.poison ++ bad.map (fun (x : Poison) => { x with pa := second + 256 * n + (x.pa - src) }) }
          if 256 * (n + 1) < l.size then (s.setDhstat vf proc 1 0 (n + 1)).queueEvent (.dhLineCopy vf proc)
          else s.setDhstat vf proc 2 0 (n + 1)

/-- Every cached copy of a range's lines goes, and every caravan that marked a word of it rolls back (R392, R402). -/
def State.recallRange (s : State) (lo hi : Nat) : State :=
  let words := s.blocks.flatMap (fun x => x.cars.flatMap (fun c => c.epochs.flatMap (fun e => e.marks.filter (fun m => match m with
    | .glob pa => lo ≤ pa && pa < hi
    | .ls _ _ => false))))
  let s := s.invalidate none words
  let gone := fun (line : Nat) => lo ≤ 256 * line && 256 * line < hi
  { s with
    dir := s.dir.filter (fun d => !(gone d.line))
    cores := s.cores.map (fun (c : CoreSt) =>
      { c with l1 := c.l1.filter (fun ln => !(gone ln.1)), consts := c.consts.filter (fun x => !(gone x.2.1)) }) }

/-- A place on the primary frame of a leaf whose mirror is `second`: the place on the second frame. -/
def Leaf.mirror (l : Leaf) (second pa : Nat) : Option Nat := if l.pa ≤ pa && pa < l.pa + l.size then some (second + (pa - l.pa)) else none

/-- A mirrored write's places exchanged, where they are those of a window. -/
def Leaf.exchange (l : Leaf) (second : Nat) (at_ : Loc) (other : Option Nat) : Loc × Option Nat :=
  match at_, other with
  | .glob pa, some x => if l.mirror second pa == some x then (.glob x, some pa) else (at_, other)
  | _, _ => (at_, other)

/-- A copy's piece after the switch: its destination, its source and its shift count's place, where they lie behind a window. -/
def Piece.switched (l : Leaf) (second : Nat) (p : Piece) : Piece :=
  let d := l.exchange second p.dst p.second
  let a := l.exchange second p.src p.srcSecond
  let c := p.scale.map (fun x => l.exchange second (.glob x) p.scaleSecond)
  { p with
    dst := d.1, second := d.2, src := a.1, srcSecond := a.2
    scale := match c with | some (.glob x, _) => some x | _ => p.scale
    scaleSecond := match c with | some (_, y) => y | none => p.scaleSecond }

/-- An accepted copy after the switch. -/
def CopyReq.switched (l : Leaf) (second : Nat) (c : CopyReq) : CopyReq :=
  { c with reps := c.reps.map (fun ps => ps.map (Piece.switched l second)) }

/-- A held operation through a window, after the switch. -/
def Held.switched (l : Leaf) (second : Nat) : Held → Held
  | .store at_ bs other tracked => let x := l.exchange second at_ other; .store x.1 bs x.2 tracked
  | .copy c => .copy (c.switched l second)
  | h => h

/-- A checked segment through a window, after the switch. -/
def Seg.switched (l : Leaf) (second : Nat) (g : Seg) : Seg :=
  match g.leaf, g.loc with
  | some f, .glob pa => if f.pa2 == some second && f.base == l.base then
      { g with loc := .glob ((l.mirror second pa).getD pa), leaf := some { f with pa := second, pa2 := some f.pa } } else g
  | _, _ => g

/-- A caravan's held operations after the switch, and the chunk its `wfe` waits on where its space is the window's (R348). -/
def Caravan.switched (l : Leaf) (second : Nat) (own : Bool) (c : Caravan) : Caravan :=
  { c with
    epochs := c.epochs.map (fun e => { e with acts := e.acts.map (Held.switched l second) }), late := c.late.map (Held.switched l second)
    wfe := c.wfe.map (fun w => match own, w.chunk with
      | true, .glob pa => { w with chunk := .glob ((l.mirror second pa).getD pa) }
      | _, _ => w) }

/-- What caravans hold, have sent or wait for through a window, after the switch: every access through the entry is at the new
primary (R363). No atomic is at the host then, for the switch waits for the accesses under way (log 40). -/
def State.moveAccesses (s : State) (vf proc : Nat) (l : Leaf) (second : Nat) : State :=
  let own := fun (x : Block) => match s.launch? x.launch with | some y => y.vf == vf && y.proc == proc | none => false
  { s with
    blocks := s.blocks.map (fun x => { x with cars := x.cars.map (Caravan.switched l second (own x)) })
    streams := s.streams.map (fun r => { r with lanes := r.lanes.map (fun y => (y.1, y.2.map (Seg.switched l second))) })
    cores := s.cores.map (fun (c : CoreSt) => { c with copies := c.copies.map (CopyReq.switched l second) }) }

/-- SWITCH (R363): one event; cached copies the old primary granted are recalled, and the second frame is primary, in walks and in
the entries cores hold. -/
def State.switchWindow (s : State) (vf proc : Nat) : State :=
  match (s.vf? vf).bind (fun f => f.proc? proc), s.windowLeaf vf proc with
  | some p, some l =>
    if bitsOf p.dhstat.toNat 1 0 != 2 then s.setDhstat vf proc 3 3 0
    else
      let s := s.recallRange l.pa (l.pa + l.size)
      let s := (s.modProc vf proc (fun q => { q with switched := !q.switched })).setDhstat vf proc 0 0 0
      let s := match l.pa2 with | some b => s.moveAccesses vf proc l b | none => s
      let swap := fun (e : TlbEntry) => match e.leaf.pa2 with
        | some b => if e.vf == vf && e.proc == proc && e.leaf.base == l.base then
            { e with leaf := { e.leaf with pa := b, pa2 := some e.leaf.pa } } else e
        | none => e
      { s with cores := s.cores.map (fun (c : CoreSt) => { c with tlb := c.tlb.map swap }) }
  | some _, none => s.setDhstat vf proc 3 3 0
  | none, _ => s

/-- DHCTL_SYNC (R363): A SYNC write starts copying the dual-home page to its second frame. -/
def execDhctlSync (vf proc : Nat) (s : State) : Out :=
  .next (s.syncWindow vf proc)

/-- DHCTL_SWITCH (R363): A SWITCH write makes the second frame primary in one event. -/
def execDhctlSwitch (vf proc : Nat) (s : State) : Out :=
  .next (s.switchWindow vf proc)

/-- DH_LINE_COPY (R363): The primary's home copies one line to the second frame during SYNC. -/
def execDhLineCopy (vf proc : Nat) (s : State) : Out :=
  .next (s.copyLine vf proc)

end Sys2Proof.Machine
end

