-- ==== Sys2Proof/Machine/Ingest.lean ====
section
/-! DEFINITION. Frames: the ingest engine and the transmit engine of each port (R110, R320 to R325, R436). -/
namespace Sys2Proof.Machine
open Sys2Proof

/-- Change a port. -/
def State.modPort (s : State) (i : Nat) (f : Port → Port) : State := { s with ports := vset s.ports i (f (vget s.ports i)) }

/-- A device write of a run of bytes that may cross a page (R110): its parts in ascending address. -/
def State.deviceStore (s : State) (vf proc va : Nat) (bs : List Byte) : State :=
  let cut := 0x80000 - va % 0x80000
  let s := if bs.isEmpty then s else s.deviceWrite vf proc va (bs.take cut)
  if bs.length ≤ cut then s else s.deviceWrite vf proc (va + cut) (bs.drop cut)

/-- One byte of the Ethernet check sequence, CRC-32 of IEEE 802.3. -/
def fcsStep (c : W32) (b : Byte) : W32 :=
  (List.range 8).foldl (fun x _ => if x.getLsbD 0 then (x >>> 1) ^^^ 0xEDB88320 else x >>> 1) (c ^^^ b.setWidth 32)
/-- The frame check sequence of some bytes (PRESUMED, log 15: the Ethernet standard's). -/
def fcsOf (bs : List Byte) : List Byte := leBytes 4 (~~~(bs.foldl fcsStep 0xFFFFFFFF)).toNat
/-- Is a frame's check sequence right? -/
def fcsGood (bs : List Byte) : Bool := fcsOf (bs.take (bs.length - 4)) == bs.drop (bs.length - 4)

/-- Is a frame a pause or priority flow control frame (R436; PRESUMED, log 15: EtherType 0x8808, opcode 0x0001 or 0x0101)? -/
def isPause (bs : List Byte) : Bool :=
  bs.getD 12 0 == 0x88 && bs.getD 13 0 == 0x08 && bs.getD 15 0 == 0x01 && (bs.getD 14 0 == 0x00 || bs.getD 14 0 == 0x01)

/-- The pipe a port feeds: that of the admitted gang that names it (R321, R327); of several pipes of one gang that name one port or queue the
lowest-numbered is served (DESIGN CHOICE, log 31: R327 refuses only what another gang names). -/
def State.portPipe (s : State) (i : Nat) : Option (Launch × Nat) :=
  s.launches.findSome? (fun l =>
    if s.attached l then
      ((List.range 16).find? (fun q => match l.pipes[q]? with | some p => p.depth != 0 && p.feed == i + 2 | none => false)).map (fun q => (l, q))
    else none)

/-- The frames of a port not released: RELSEQ - s mod 2^32 lies outside 1 to 2^31 (R320). -/
def unreleased (relseq : Nat) (frames : List (Nat × Nat × Nat)) : List (Nat × Nat × Nat) :=
  frames.filter (fun f => let d := (relseq + 2 ^ 32 - f.1) % 2 ^ 32; !(1 ≤ d && d ≤ 2 ^ 31))

/-- The start of a reservation of n bytes in a ring (R321, step 3), or none where it would overlap an unreleased frame. -/
def reserve (p : Port) (relseq n : Nat) : Option Nat :=
  let start := if 0x4000000 < p.wrpos + n then 0x100 else p.wrpos
  if (unreleased relseq p.frames).any (fun f => start < f.2.1 + f.2.2 && f.2.1 < start + n) then none else some start

/-- A frame dropped whole (R321, step 4): DROPS grows, and the port's next entry tells of it. -/
def State.dropFrame (s : State) (i : Nat) : State :=
  let s := s.modPort i (fun p => { p with drops := p.drops + 1, lost := true })
  let p := vget s.ports i
  s.deviceStore p.vf p.proc (p.ring + 8) (leBytes 8 p.drops.toNat)

/-- The bytes of a frame through its port's graph (R315, R316): the bytes kept, FLD0 and FLD1, whether any was dropped, and the state
after. Without a slot or a node every byte is kept and the fields are zero. -/
def State.frameGraph (s : State) (tenant slot : Nat) (bs : List Byte) : List Byte × List Byte × Bool × State :=
  match (if slot = 0 then none else s.graph? tenant slot), (s.graph? tenant slot).bind (fun g => g.streams.head?) with
  | some g, some st =>
    let r := streamRun s.timeBytes g.image false st ((List.range bs.length).zip bs)
    let kept := (r.bytes.zip r.keep).filterMap (fun x => if x.2 then some x.1 else none)
    let s := s.modGraph tenant slot (fun x => { x with
      streams := [r.stream], chunks := x.chunks + BitVec.ofNat 32 ((bs.length + 63) / 64) })
    (kept, fieldsBytes g.image r.stream.last, kept.length < bs.length, s)
  | _, _ => (bs, List.replicate 8 0, false, s)

/-- INGEST_FRAME (R321): the frame stamped, numbered, given a place and ring space, written through the graph, and its entry pushed;
or dropped whole. -/
def State.ingest (s : State) (i : Nat) (bytes : List Byte) : State :=
  let p := vget s.ports i
  if !p.enabled || bytes.length < 64 then s
  else if isPause bytes && fcsGood bytes then s.modPort i (fun p => { p with paused := p.paused + 1 })
  else
    let seq := p.seqn.toNat
    let s := s.modPort i (fun p => { p with seqn := p.seqn + 1 })
    let tenant := match s.vf? p.vf with | some f => f.tenant | none => 0
    let wire := min bytes.length 9216
    let need := (wire + 255) / 256 * 256
    let input := if 9216 < bytes.length then bytes.take 9212 else bytes.take (bytes.length - 4)
    let pipe := match s.portPipe i with
      | some (l, q) => (match l.pipes[q]? with | some z => if z.closed || z.depth ≤ s.pipeUsed l q then none else some (l.id, q) | none => none)
      | none => none
    let start := match s.deviceRead p.vf p.proc p.ring 4 with | some r => reserve p (leNat r) need | none => none
    let bound := p.slot == 0 || (s.graph? tenant p.slot).isSome
    match pipe, start, bound with
    | some (launch, q), some start, true =>
      let (kept, fields, dropped, s) := s.frameGraph tenant p.slot input
      let relseq := match s.deviceRead p.vf p.proc p.ring 4 with | some r => leNat r | none => 0
      let s := s.deviceStore p.vf p.proc (p.ring + start) kept
      let next := (start + kept.length + 255) / 256 * 256
      let s := s.deviceStore p.vf p.proc (p.ring + 0x10) (leBytes 4 next)
      let flags := (if fcsGood bytes then 0 else 1) + (if 9216 < bytes.length then 2 else 0) + (if p.lost then 4 else 0) + (if dropped then 8 else 0)
      let e := s.timeBytes ++ leBytes 8 (p.ring + start) ++ leBytes 2 kept.length ++ leBytes 1 i ++ leBytes 1 flags ++ leBytes 4 seq ++ fields
      let s := s.modPort i (fun p => { p with
        lost := false, wrpos := next, frames := unreleased relseq p.frames ++ (if kept.isEmpty then [] else [(seq, start, next - start)]) })
      s.pushEntry launch q e
    | _, _, _ => s.dropFrame i

/-- The gang pipe a transmit port drains (R323, R327). -/
def State.txPipe (s : State) (i : Nat) : Option (Launch × Nat) :=
  s.launches.findSome? (fun l =>
    ((List.range 16).find? (fun q => match l.pipes[q]? with | some p => p.depth != 0 && p.drain == i + 1 && !p.entries.isEmpty | none => false)).map
      (fun q => (l, q)))

/-- TRANSMIT_FRAME (R324): the next entry's frame is read, sent with its check sequence, and stamped where asked. An entry whose frame
cannot be read sends nothing (log 15). -/
def State.transmit (s : State) (i : Nat) : State :=
  match s.txPipe i with
  | none => s
  | some (l, q) => match (l.pipes[q]?).bind (fun p => p.entries.head?) with
    | none => s
    | some e =>
      let s := s.modLaunch l.id (fun y => { y with pipes := y.pipes.mapIdx (fun j z => if j = q then { z with entries := z.entries.drop 1 } else z) })
      match s.deviceRead l.vf l.proc (fieldAt e 0 8) (fieldAt e 8 2) with
      | none => s
      | some bs =>
        let s := s.modPort i (fun p => { p with sent := p.sent ++ [bs ++ fcsOf bs] })
        if fieldAt e 11 1 % 2 == 1 then s.deviceStore l.vf l.proc (fieldAt e 16 8) s.timeBytes else s

/-- INGEST_FRAME (R321): A frame arrives on a port and is stamped, reserved, written through the graph and pushed, or dropped. -/
def execIngestFrame (port : Nat) (bytes : List (BitVec 8)) (s : State) : Out :=
  if port < 2 then .next (s.ingest port bytes) else .fault .noUnit

/-- TRANSMIT_FRAME (R324): A port's transmit engine sends the next pipe entry's frame with FCS and optional timestamp. -/
def execTransmitFrame (port : Nat) (s : State) : Out :=
  if port < 2 then .next (s.transmit port) else .fault .noUnit

end Sys2Proof.Machine
end

