-- ==== Sys2Proof/Machine/Links.lean ====
section
/-! DEFINITION. Die crossings and Syzin ports, lost coherence messages, incarnations, rerouting and fencing (R398 to R402, R437), and
the host's coherence messages (R114, R436). Links 0 to 15 are Syzin ports, 16 to 25 die crossings; cache 512 + p stands for package p
of the pod (log 16). -/
namespace Sys2Proof.Machine
open Sys2Proof

/-- A link. -/
def State.link? (s : State) (i : Nat) : Option Link := (s.links.find? (fun l => l.1 == i)).map (·.2)
/-- Change a link. -/
def State.modLink (s : State) (i : Nat) (f : Link → Link) : State :=
  { s with links := s.links.map (fun l => if l.1 == i then (l.1, f l.2) else l) }

/-- A port that has trained (R437). -/
def Link.trained (y : Link) (peer now : Nat) : Link :=
  { y with up := true, failed := false, training := false, peer := peer, run := 0, tries := 0, lastFlit := now }

/-- Words of a line poisoned at their home (R398): every sharer drops its copy, and the steward's log keeps line and span. -/
def State.loseSpan (s : State) (line first last cause : Nat) : State :=
  let m := spanMask first last
  let s := (s.sharers line).foldl (fun st r => st.giveUp r.cache line m) s
  let at_ := 256 * line + 4 * first
  let bytes := (List.range (4 * (last + 1 - first))).map (at_ + ·)
  { s with
    poison := s.poison.filter (fun p => !(bytes.contains p.pa)) ++
      bytes.map (fun a => ({ pa := a, cause := cause, first := first, last := last } : Poison))
    cohLog := s.cohLog ++ [(256 * line, first, last)] }

/-- FLIT_RECEIVE (R398, R399, R400): a good flit ends a run of failures; a bad one is retried up to 8 times, and then lost, with its span
poisoned where it carried a directory update, an acknowledgement or owned data of its source's current incarnation. Sixteen lost in a
row fail the link. -/
def State.receive (s : State) (i : Nat) (x : Flit) (l : Link) : State :=
  if !x.bad then s.modLink i (fun y => { y with run := 0, tries := 0, lastFlit := s.clk })
  else if l.tries < 8 then
    s.modLink i (fun y => { y with tries := y.tries + 1, retries := if y.tries = 0 then y.retries + 1 else y.retries })
  else
    let s := s.modLink i (fun y => { y with tries := 0, run := y.run + 1 })
    let s := if 1 ≤ x.cause && x.cause ≤ 3 && x.inc == s.incarnation x.source then s.loseSpan x.line (min 63 x.first) (min 63 x.last) x.cause else s
    if l.run + 1 = 16 then s.queueEvent (.linkFailed i) else s

/-- Does traffic from a die to a home go over a link now (R400; log 16), be it on the way it would take first or rerouted? -/
def State.usesLink (s : State) (i die : Nat) (h : Home) : Bool :=
  match s.route die h with | some ls => ls.contains i | none => false

/-- The homes a piece of a copy goes to. -/
def State.pieceHomes (s : State) (p : Piece) : List Home :=
  (if p.srcFar.isSome then Home.pod else s.homeOf p.src) :: (if p.dstFar.isSome then Home.pod else s.homeOf p.dst) ::
    ((p.scale.map (fun a => s.homeOf (.glob a))).toList ++ (p.second.map (fun a => s.homeOf (.glob a))).toList)

/-- Requests on their way over a link: committed copies and streamed accesses. -/
def State.inFlight (s : State) (i : Nat) : List Nat :=
  s.cores.flatMap (fun c => (c.copies.filter (fun y => y.reps.any (fun ps => ps.any (fun p =>
    (s.pieceHomes p).any (s.usesLink i (dieOf c.id)))))).map (·.id)) ++
  (s.streams.filter (fun r => r.lanes.any (fun l => l.2.any (fun g => s.usesLink i (dieOf (s.coreOf r.who)) (s.homeOfSeg g))))).map (·.id)

/-- Is an event a tracked request queued towards a link? -/
def State.queuedOver (s : State) (i : Nat) (e : Instr) : Bool :=
  match e with
  | .homeRequest src line _ _ _ => (match cacheDie src.cache with
    | some d => s.usesLink i d (s.homeOf (.glob (256 * line)))
    | none => false)
  | _ => false

/-- LINK_FAILED (R400, R402): requests queued towards the link, and those in flight over it, are turned into NACKs and reissued over the way
that then remains; what can no longer reach its home traps. A tracked request has not yet been performed, so that its reissue is the same
request, behind those that wait. -/
def State.failLink (s : State) (i : Nat) : State :=
  let flying := s.inFlight i
  let queued := s.agenda.filter (s.queuedOver i)
  let s := { s with agenda := s.agenda.filter (fun e => !(queued.contains e)) ++ queued }
  let s := s.modLink i (fun y => { y with up := false, failed := true })
  (flying.foldl (fun st t =>
    if st.nacked.contains t then st else ({ st with nacked := st.nacked ++ [t] } : State).queueEvent (.requestReissue t)) s).cutOff

/-- REQUEST_REISSUE (R401): a home that holds a response for the tag returns it and performs nothing; otherwise the request is
performed as its own step. -/
def State.reissue (s : State) (tag : Nat) : State :=
  if !(s.nacked.contains tag) then s
  else
    let s := { s with nacked := s.nacked.filter (· != tag) }
    if s.responses.contains tag then { s with responses := s.responses.filter (· != tag) }
    else if s.streams.any (fun r => r.id == tag) then s.queueEvent (.streamAccess tag)
    else s.queueEvent (.copyTransfer tag)

/-- PACKAGE_FENCED (R402): what has still to reach it traps; survivors drop their copies of its lines; its records at homes here go, and the words it owned are
poisoned. -/
def State.fence (s : State) (pkg : Nat) : State :=
  if pkg == s.mypkg then s
  else
    let s := { s with fenced := insertNew pkg s.fenced }
    let base := 0x1000000000000 + pkg * 2 ^ 44
    let s := s.recallRange base (base + 2 ^ 44)
    s.dir.foldl (fun st d => match d.sharers.find? (fun r => r.cache == 512 + pkg) with
      | none => st
      | some r =>
        let st := st.modLine d.line (fun rs => rs.filter (fun y => y.cache != 512 + pkg))
        let ws := (List.range 64).filter (fun i => r.owned.getLsbD i)
        ws.foldl (fun (st : State) i => st.loseSpan d.line i i 3) st) s.cutOff

/-- RE_ADMISSION (R399): the number grows by 1; a package is no longer fenced. -/
def State.readmit (s : State) (source : Nat) : State :=
  { s with
    incarnations := (source, s.incarnation source + 1) :: s.incarnations.filter (fun x => x.1 != source)
    fenced := if 512 ≤ source then s.fenced.filter (fun p => p != source - 512) else s.fenced }

/-- FLIT_RECEIVE (R398): A flit failing its check is retried, or poisons its span when uncorrectable. -/
def execFlitReceive (link : Nat) (x : Flit) (s : State) : Out :=
  match s.link? link with
  | some l => .next (s.receive link x l)
  | none => .fault .noUnit

/-- LINK_HEARTBEAT (R400): An idle crossing or port sends a heartbeat flit every 1 µs, which passes its check or does not (log 16). -/
def execLinkHeartbeat (link : Nat) (s : State) : Out :=
  match s.link? link with
  | some l => .next (s.receive link { bad := !(Config.heartbeatGood link s.clk), source := 0, inc := 0, cause := 0, line := 0, first := 0, last := 0 } l)
  | none => .fault .noUnit

/-- LINK_FAILED (R400): A crossing or port is declared failed, traffic rerouted and queued packets NACKed. -/
def execLinkFailed (link : Nat) (s : State) : Out :=
  if (s.link? link).isSome then .next (s.failLink link) else .fault .noUnit

/-- REQUEST_REISSUE (R401): A NACKed request is reissued with its tag and performed exactly once. -/
def execRequestReissue (tag : Nat) (s : State) : Out :=
  .next (s.reissue tag)

/-- PACKAGE_FENCED (R402): A package is fenced from the pod; survivors drop its lines and poison its owned words. -/
def execPackageFenced (pkg : Nat) (s : State) : Out :=
  if pkg < 16 then .next (s.fence pkg) else .fault .noUnit

/-- RE_ADMISSION (R399): A fenced source or a replacement package is re-admitted, and its incarnation number grows by 1. -/
def execReAdmission (source : Nat) (s : State) : Out :=
  .next (s.readmit source)

/-- TRAINING_COMPLETE (R437): Training of a Syzin port ends and the port's UP bit is set. -/
def execTrainingComplete (port : Nat) (s : State) : Out :=
  if port < 16 then .next (s.modLink port (fun y => y.trained (Config.syzinPeer port) s.clk)) else .fault .noUnit

/-- SYZSTAT_RETRAIN (R437): Writing 1 to FAILED restarts training of a Syzin port. -/
def execSyzstatRetrain (port : Nat) (s : State) : Out :=
  if port < 16 then .next (s.modLink port (fun y => { y with up := false, failed := false, training := true })).cutOff else .fault .noUnit

/-- HOST_SNOOP (R436): A CXL.cache snoop from the host is answered as holding no copy. -/
def execHostSnoop (_addr : Nat) (s : State) : Out :=
  .next s

/-- GLOBAL_OBSERVATION_RESPONSE (R114): The host returns the global-observation response for a write sent over CXL.cache, which lets a waiting fence.io proceed. -/
def execGlobalObservationResponse (addr : Nat) (s : State) : Out :=
  .next { s with globalWrites := s.globalWrites.erase addr }

end Sys2Proof.Machine
end

