-- ==== Sys2Proof/Machine/Innkeeper.lean ====
section
/-! DEFINITION. The innkeeper's commands (R365, R372, R380, R385, R405 to R417, R420 to R422): the doorbell, the checks of R410, and
each command with its response; and cores retired in service (R406). -/
namespace Sys2Proof.Machine
open Sys2Proof

/-! ## The command buffer (R407, R408) -/

/-- An argument of a command. -/
def argOf (c : Command) (i : Nat) : Nat := c.args.getD i 0

/-- Have the innkeeper's cores stopped, so that no command completes (R432)? -/
def State.innkeeperHalted (s : State) : Bool := s.cores.any (fun k => innkeeperCore k.id && k.halted)

/-- A response: STATUS, SEQ and result at IKCMD + 64, BUSY clear, DONE set, MSI-X vector 0 (R407, R408). A firmware activation that
waited for the command goes on (R434). -/
def State.respond (s : State) (c : Command) (status result : Nat) : State :=
  let a := 0x2000000000000 + s.ik.cmd.toNat + 64
  let s := if s.ik.cmd.toNat + 80 ≤ 2 ^ 48 then
      s.put none (.glob a) (leBytes 4 status ++ leBytes 4 c.seq.toNat ++ leBytes 8 result) none else s
  let s := { s with ik := { s.ik with busy := false, done := true }, pf := { s.pf with msix := s.pf.msix ++ [0] } }
  if s.fw.activating then s.queueEvent .activationPause else s

/-- The commands by OP (R408). -/
def commandEvent (op : Nat) (c : Command) : Option Instr :=
  match op with
  | 0x01 => some (.mapQueue c)
  | 0x02 => some (.unmapQueue c)
  | 0x03 => some (.pause c)
  | 0x04 => some (.resume c)
  | 0x05 => some (.evict c)
  | 0x06 => some (.importContext c)
  | 0x07 => some (.setSlice c)
  | 0x08 => some (.reassignCores c)
  | 0x09 => some (.migrate c)
  | 0x0A => some (.setWeight c)
  | 0x0B => some (.endGang c)
  | 0x0C => some (.discardLaunch c)
  | 0x0D => some (.resetQueue c)
  | 0x0E => some (.attachPort c)
  | 0x0F => some (.resetTenant c)
  | 0x10 => some (.installPolicy c)
  | 0x11 => some (.assignMemory c)
  | 0x12 => some (.releaseMemory c)
  | 0x13 => some (.setPodWindow c)
  | _ => none

/-- IKDOOR (R407, R435): ignored while BUSY is set, latched while the steward cores pause; else the command is read and submitted. In
minimal mode there is no command service (R431). -/
def State.doorbell (s : State) : State :=
  if s.ik.busy || s.fw.phase == .minimal || s.innkeeperHalted then s
  else if s.fw.phase == .paused then { s with ik := { s.ik with latched := true } }
  else
    let s := { s with ik := { s.ik with busy := true } }
    match (if s.ik.cmd.toNat % 64 = 0 then s.hostBytes s.ik.cmd.toNat 64 else none) with
    | none => s.respond { vf := 0, seq := 0, args := [], cores := [] } 3 0
    | some bs =>
      let op := fieldAt bs 0 1
      let c : Command := { vf := fieldAt bs 2 2, seq := BitVec.ofNat 32 (fieldAt bs 4 4), args := Config.commandArgs op (bs.drop 8),
                           cores := Config.commandCores op (bs.drop 8) }
      match (if fieldAt bs 1 1 = 0 && c.vf < 64 then commandEvent op c else none) with
      | some i => s.queueEvent i
      | none => s.respond c 3 0

/-! ## Checks (R410, R420 to R422) -/

/-- ALLOW of a policy (R409). -/
def Tenant.allows (t : Tenant) (op : Nat) : Bool := t.policy.isSome && t.policyField 16 4 / 2 ^ op % 2 == 1

/-- The first check of a command: an interface in ERROR takes only four commands (R421); the policy must allow it (R410). The status,
or the function and tenant. -/
def State.permit (s : State) (op vf : Nat) : Except Nat (Vf × Tenant) :=
  match s.vf? vf with
  | none => .error 3
  | some f =>
    if f.ifstate == 3 && !([0x02, 0x0F, 0x10, 0x12].contains op) then .error 4
    else match s.tenant? f.tenant with
      | some t => if f.tenant != 0 && t.allows op then .ok (f, t) else .error 1
      | none => .error 1

/-- A command performed whole (R407): its status and result come back, and with a status other than 0 it changes nothing. It never
completes where an innkeeper core has halted (R432). -/
def State.command (s : State) (op : Nat) (c : Command) (f : Vf → Tenant → Except Nat (State × Nat)) : State :=
  if s.innkeeperHalted then s
  else match s.permit op c.vf with
    | .error e => s.respond c e 0
    | .ok (v, t) => match f v t with
      | .error e => s.respond c e 0
      | .ok (s', r) => s'.respond c 0 r

/-- A check of a command. -/
def require (ok : Bool) (status : Nat) : Except Nat Unit := if ok then .ok () else .error status

/-- The launches a handle names for a function: all of them for 0; status 2 where the handle is not the function's (R410). -/
def State.named (s : State) (vf handle : Nat) : Except Nat (List Nat) :=
  if handle = 0 then .ok (s.launchesOf vf)
  else match s.launch? handle with
    | some l => if l.vf == vf then .ok [handle] else .error 2
    | none => .error 2

/-- A launch a command must name. -/
def State.namedLaunch (s : State) (vf handle : Nat) : Except Nat Launch :=
  match s.launch? handle with
  | some l => if l.vf == vf && handle != 0 then .ok l else .error 2
  | none => .error 2

/-! ## Queues and launches -/

/-- MAP_QUEUE (R365, R420). A waiter whose signaller the queue is begins to count its slices anew, should it be unmapped again (R370). -/
def State.mapQueue (s : State) (c : Command) : State :=
  s.command 0x01 c (fun f t => do
    require (f.ifstate == 0 || f.ifstate == 2) 4
    require (argOf c 0 < t.policyField 48 2) 1
    require (argOf c 0 < f.qcount.toNat) 3
    let waits := fun (q : Queue) => match s.headPacket f q with | some p => fieldAt p 2 2 == argOf c 0 | none => false
    let s := s.modVf f.id (fun g => { g with queues := g.queues.map (fun q =>
      { q with stat := if q.q == argOf c 0 then q.stat ||| 1 else q.stat
               slices := if q.q == argOf c 0 || waits q then 0 else q.slices }) })
    return (((s.queueEvent (.semaphorePoll f.id (argOf c 0))).queueEvent .packetDispatch).queueEvent (.feedQueuePush f.id (argOf c 0)), 0))

/-- UNMAP_QUEUE (R365, R420). -/
def State.unmapQueue (s : State) (c : Command) : State :=
  s.command 0x02 c (fun f t => do
    require (argOf c 0 < t.policyField 48 2) 1
    require (argOf c 0 < f.qcount.toNat) 3
    return (s.modQueue f.id (argOf c 0) (fun q => { q with stat := q.stat &&& ~~~1 }), 0))

/-- RESET_QUEUE (R366). -/
def State.resetQueue (s : State) (c : Command) : State :=
  s.command 0x0D c (fun f t => do
    require (argOf c 0 < t.policyField 48 2) 1
    require (argOf c 0 < f.qcount.toNat) 3
    return (s.modQueue f.id (argOf c 0) (fun q =>
      { q with stat := q.stat &&& 0xFFFF00F5, head := 0, tail := 0, ready := false, slices := 0, eventSent := false }), 0))

/-- Launches pre-empted and kept out (R380): their blocks saved, or none where the context region lacks room. -/
def State.pauseAll (s : State) (ls : List Nat) : Option State :=
  (s.preempt (ls.flatMap s.residentOf)).map (fun s => ls.foldl (fun st l => st.modLaunch l (fun y => { y with paused := true })) s)

/-- PAUSE (R380 to R383). -/
def State.pauseCmd (s : State) (c : Command) : State :=
  s.command 0x03 c (fun f _ => do
    let ls ← s.named f.id (argOf c 0)
    match s.pauseAll ls with
    | some s => return (s, 0)
    | none => throw 8)

/-- Does every saved area of some launches stand in the context region and fit its launch (R385)? -/
def State.areasFit (s : State) (ls : List Nat) : Bool :=
  s.saved.all (fun v => !(ls.contains v.launch) || (v.len != 0 && (match s.launch? v.launch, s.kernelOf v.launch v.kernel with | some l, some k => s.areaFits l k v | _, _ => false)))

/-- RESUME (R385): blocks are restored as cores take them. -/
def State.resumeCmd (s : State) (c : Command) : State :=
  s.command 0x04 c (fun f _ => do
    let ls ← s.named f.id (argOf c 0)
    require (s.areasFit ls) 7
    return ((ls.foldl (fun st l => st.modLaunch l (fun y => { y with paused := false })) s).lookAgain, 0))

/-- SET_WEIGHT (R372). -/
def State.setWeight (s : State) (c : Command) : State :=
  s.command 0x0A c (fun f _ => do
    require (1 ≤ argOf c 0 && argOf c 0 ≤ 255 && 1 ≤ argOf c 1 && argOf c 1 ≤ 255) 3
    return ((s.withProc f.id (argOf c 0)).modProc f.id (argOf c 0) (fun p => { p with weight := argOf c 1 }), 0))

/-- END_GANG (R257). -/
def State.endGang (s : State) (c : Command) : State :=
  s.command 0x0B c (fun f _ => do
    let l ← s.namedLaunch f.id (argOf c 0)
    require l.gang 3
    return (s.modLaunch l.id (fun y => { y with pipes := y.pipes.map (fun p => { p with closed := true }) }), 0))

/-- DISCARD_LAUNCH (R339, R368): every block is terminated, and the launch completes with STATUS 3. -/
def State.discardLaunch (s : State) (c : Command) : State :=
  s.command 0x0C c (fun f _ => do
    let l ← s.namedLaunch f.id (argOf c 0)
    let s := s.modLaunch l.id (fun y => { y with discarded := true, chunks := [], unplaced := [] })
    let s := (s.blocksOf l.id).foldl State.killBlock s
    let s : State := { s with saved := s.saved.filter (fun v => v.launch != l.id) }
    return (s.queueEvent (.launchCompletion l.id), 0))

/-! ## Contexts (R415, R416) -/

/-- A blob's header (R415). -/
def State.blobHeader (s : State) (tenant vf count len : Nat) : List Byte :=
  padTo 64 (leBytes 4 1 ++ leBytes 1 tenant ++ leBytes 1 vf ++ leBytes 2 0 ++ leBytes 8 count ++ leBytes 4 len ++
    leBytes 8 count ++ leBytes 4 s.serial.toNat)

/-- EVICT (R415): the launch is paused, and each save area leaves, sealed, one blob after another in the host's buffer. Its saved
blocks stand exported (length 0) until they are imported. -/
def State.evictCmd (s : State) (c : Command) : State :=
  s.command 0x05 c (fun f t => do
    let l ← s.namedLaunch f.id (argOf c 0)
    match s.pauseAll [l.id] with
    | none => throw 8
    | some s =>
      let mine := s.saved.filter (fun v => v.launch == l.id && v.len != 0)
      let blobs := mine.zipIdx.flatMap (fun v =>
        let h := s.blobHeader t.id f.id (t.exportCount + v.2 + 1) v.1.len
        h ++ Config.gcmSeal t.sealKey h (s.peekN (.glob v.1.area) v.1.len))
      require (blobs.length ≤ argOf c 2) 8
      require (argOf c 1 + blobs.length ≤ 2 ^ 48) 3
      let s := s.put none (.glob (0x2000000000000 + argOf c 1)) blobs none
      let h := s.ik.nextHandle
      let s := s.modTenant t.id (fun y =>
        { y with exportCount := y.exportCount + mine.length, handles := y.handles ++ [(h, f.id, y.exportCount + 1, mine.length)] })
      let s := { s with
        ik := { s.ik with nextHandle := h + 1 }
        saved := s.saved.map (fun v => if mine.contains v then { v with area := 0, len := 0 } else v) }
      return (s, h))

/-- The bundle entries of a save area (R383). -/
def areaEntries (bs : List Byte) : List Entry :=
  (List.range (fieldAt bs 32 1)).map (fun i =>
    let w := fieldAt bs (2688 + 8 * i) 8
    { handle := bitsOf w 31 0, pending := if bitsOf w 32 32 == 1 then some (bitsOf w 45 40) else none, leave := false })

/-- May a blob be imported (R416): one of this package with the EXPCNT its handle names, not yet imported; one of another, by the serial in
its NONCE, where FLAGS bit 1 is set and its EXPCNT exceeds every one imported? -/
def State.importable (s : State) (t : Tenant) (h : List Byte) (count : Option Nat) : Bool :=
  let n := fieldAt h 8 8
  if fieldAt h 28 4 = s.serial.toNat then count == some n && !(t.imported.contains (s.serial.toNat, n))
  else t.policyField 23 1 / 2 % 2 == 1 && t.imported.all (fun x => x.2 < n)

/-- One blob opened into the context region (R416): its place after, or the status. -/
def State.importBlob (s : State) (f : Vf) (tenant at_ : Nat) (count : Option Nat) : Except Nat (State × Nat) := do
  match s.hostBytes at_ 64, s.tenant? tenant with
  | some h, some t =>
    let len := fieldAt h 16 4
    require (fieldAt h 0 4 == 1 && fieldAt h 4 1 == t.id && fieldAt h 5 1 == f.id && len % 4096 == 0 && s.importable t h count) 7
    match (s.hostBytes (at_ + 64) (len + 16)).bind (Config.gcmOpen t.sealKey h) with
    | none => throw 7
    | some body =>
      let launch := fieldAt body 24 8
      match s.launch? launch, s.areaPlace f len with
      | some l, some a =>
        require (l.vf == f.id && body.length == len) 7
        let same := fun (y : Saved) => y.launch == launch && y.kernel == fieldAt body 8 2 && y.lin == fieldAt body 4 4
        let blk := match s.saved.find? same with | some y => y.blk | none => s.nextId
        let v : Saved := { blk := blk, launch := launch, kernel := fieldAt body 8 2, lin := fieldAt body 4 4, vf := f.id, area := a, len := len,
                           entries := areaEntries body }
        let s := s.writeMem a body
        let s := s.modTenant t.id (fun y => { y with imported := (fieldAt h 28 4, fieldAt h 8 8) :: y.imported })
        return ({ s with saved := s.saved.filter (fun y => !(same y)) ++ [v], nextId := s.nextId + 1 }, at_ + 80 + len)
      | none, _ => throw 7
      | _, none => throw 8
  | _, _ => throw 3

/-- The blobs of a handle opened one after another. -/
def State.importBlobs (s : State) (f : Vf) (tenant at_ count : Nat) : Nat → Except Nat State
  | 0 => .ok s
  | n + 1 => match s.importBlob f tenant at_ (some count) with
    | .error e => .error e
    | .ok (s, next) => s.importBlobs f tenant next (count + 1) n

/-- IMPORT (R410, R416): the blobs of a handle of the function, each once; a handle that this package has not given out stands for one blob
of another package, where the policy takes those. -/
def State.importCmd (s : State) (c : Command) : State :=
  s.command 0x06 c (fun f t => do
    match (s.tenants.flatMap (·.handles)).find? (fun h => h.1 == argOf c 0) with
    | some h =>
      require (h.2.1 == f.id && t.handles.contains h) 2
      let s ← s.importBlobs f t.id (argOf c 1) h.2.2.1 h.2.2.2
      return (s, 0)
    | none =>
      require (t.policyField 23 1 / 2 % 2 == 1) 2
      let (s, _) ← s.importBlob f t.id (argOf c 1) none
      return (s, 0))

/-! ## Slices (R405, R406, R412, R417, R422) -/

/-- A remap table of cores, dense numbers ascending by die and site (R405, R406). -/
def remapOf (cores : List Nat) : List (BitVec 16) := (sortNat cores).map (fun c => BitVec.ofNat 16 (0x8000 + 256 * (c / 64) + c % 64))

/-- SLICESHAPE of some cores (R422). -/
def shapeOf (cores : List Nat) : W32 :=
  let dies := (List.range 4).filter (fun d => cores.any (fun c => dieOf c == d))
  BitVec.ofNat 32 (dies.zipIdx.foldl (fun acc d => acc + (cores.filter (fun c => dieOf c == d.1)).length * 256 ^ d.2) 0)

/-- May a function share some cores with every other that has them, but one (R405)? -/
def State.shareable (s : State) (f : Vf) (cores : List Nat) (but : Nat) : Bool :=
  s.vfs.all (fun g => g.id == f.id || g.id == but || !(g.dense.any (fun x => cores.contains x.2)) || (s.timeShared f.id && s.timeShared g.id))

/-- May a function hold some cores: within its policy (status 1), cores of the part (3), and not shared (8)? -/
def State.coresOk (s : State) (f : Vf) (t : Tenant) (cores : List Nat) : Except Nat Unit := do
  require (cores.length ≤ t.policyField 20 2 && cores.all (fun c => t.policyField 22 1 / 2 ^ dieOf c % 2 == 1)) 1
  require (!cores.isEmpty && cores.Nodup && cores.all (fun c => s.siteOn (c / 64) (c % 64) &&
    (match s.core? c with | some k => !k.retired | none => false))) 3
  require (s.shareable f cores f.id) 8

/-- The supervisor image a function has on its cores. -/
def State.imageOf (s : State) (vf : Nat) : List W32 :=
  ((s.cores.flatMap (·.images)).find? (fun i => i.1 == vf)).elim [] (·.2)

/-- A core with a function's supervisor image in its scratchpad, overlays evicted to make room as `ovld` evicts them (R286, R331, R344);
none where there is no room beside what must stay. -/
def State.withImage (s : State) (vf : Nat) (image : List W32) (k : CoreSt) : Option CoreSt :=
  let k : CoreSt := { k with images := k.images.filter (fun i => i.1 != vf) }
  (s.makeRoom k.id (4 * image.length) k.overlays.length k).map (fun c => { c with images := (vf, image) :: c.images })

/-- Is there room for an image on some cores, beside what they hold of others (R14, R286)? -/
def State.imageFits (s : State) (vf : Nat) (cores : List Nat) (image : List W32) : Bool :=
  cores.all (fun c => match s.core? c with | some k => (s.withImage vf image k).isSome | none => false)

/-- A function's slice set: remap table, shape, and its supervisor image on its cores alone (R331). Chunks keep to the dies there
are. -/
def State.setCores (s : State) (vf : Nat) (cores : List Nat) (image : List W32) : State :=
  let load := fun (k : CoreSt) =>
    if cores.contains k.id then (s.withImage vf image k).getD k else { k with images := k.images.filter (fun i => i.1 != vf) }
  let loaded := s.cores.map load
  let s := ({ s with cores := loaded } : State).modVf vf (fun f => { f with remap := remapOf cores, sliceshape := shapeOf cores })
  let dies := max 1 (match s.vf? vf with | some f => f.dies.length | none => 1)
  let s : State := { s with launches := s.launches.map (fun (l : Launch) => if l.vf == vf then { l with
    chunks := l.chunks.map (fun c => { c with die := c.die % dies }), unplaced := l.unplaced.map (fun c => { c with die := c.die % dies }) } else l) }
  s.lookAgain

/-- SET_SLICE (R405, R408, R410, R422): arguments image address and length, context region from and to. -/
def State.setSlice (s : State) (c : Command) : State :=
  s.command 0x07 c (fun f t => do
    require (f.ifstate == 0) 4
    s.coresOk f t c.cores
    let len := argOf c 1
    require (len % 4 == 0 && len ≤ 0x8000) 3
    require (argOf c 2 % 4096 == 0 && argOf c 2 ≤ argOf c 3 && argOf c 3 ≤ 0x8000000000 &&
      (List.range ((argOf c 3 - argOf c 2 + 0x7FFFF) / 0x80000)).all (fun i => s.ownerOf (argOf c 2 + 0x80000 * i) == t.id)) 3
    match s.hostBytes (argOf c 0) len with
    | none => throw 3
    | some img =>
      let hash := Config.sha512 img
      require (hash == ((t.policy.getD []).drop 64).take 64) 1
      require ((s.launchesOf f.id).all (fun l => (s.residentOf l).isEmpty) && s.imageFits f.id c.cores (imageWords img)) 8
      let s := s.modVf f.id (fun g => { g with context := (argOf c 2, argOf c 3), suphash := hash })
      return (s.setCores f.id c.cores (imageWords img), 0))

/-- The blocks of a function on some cores, with the groups and gangs they belong to. -/
def State.blocksUsing (s : State) (cores : List Nat) : List Nat :=
  ((s.blocks.filter (fun x => x.launch != 0 && cores.contains x.core && s.holds x)).map (·.id)).foldl
    (fun acc b => addAll (s.together b) acc) []

/-- REASSIGN_CORES (R405, R408, R412, R417, R422): idle or pre-empted cores move from the source function, argument 0, to the target, argument
1; the command names one of the two (log 34). -/
def State.reassign (s : State) (c : Command) : State :=
  s.command 0x08 c (fun _ _ => do
    require (c.vf == argOf c 0 || c.vf == argOf c 1) 3
    let (f, _) ← s.permit 0x08 (argOf c 0)
    let (g, u) ← s.permit 0x08 (argOf c 1)
    require (f.ifstate == 0 && g.ifstate == 0) 4
    let src := f.dense.map (·.2)
    let dst := g.dense.map (·.2)
    require (g.id != f.id && !c.cores.isEmpty && c.cores.Nodup && c.cores.all (fun k => src.contains k && !(dst.contains k))) 3
    let new := dst ++ c.cores
    require (new.length ≤ u.policyField 20 2 && new.all (fun k => u.policyField 22 1 / 2 ^ dieOf k % 2 == 1)) 1
    let image := s.imageOf g.id
    require (s.shareable g c.cores f.id) 8
    match s.preempt (s.blocksUsing c.cores) with
    | none => throw 8
    | some s =>
      let s := s.setCores f.id (src.filter (fun k => !(c.cores.contains k))) (s.imageOf f.id)
      require (s.imageFits g.id new image) 8
      let s := s.setCores g.id new image
      return (if f.tenant == g.tenant then s else c.cores.foldl (fun st k => st.scrubFor 0 k) s, 0))

/-- MIGRATE (R406, R422): a new core list of the same shape. -/
def State.migrate (s : State) (c : Command) : State :=
  s.command 0x09 c (fun f t => do
    s.coresOk f t c.cores
    require (shapeOf c.cores == f.sliceshape) 3
    let image := s.imageOf f.id
    match s.preempt ((s.launchesOf f.id).flatMap s.residentOf) with
    | none => throw 8
    | some s =>
      require (s.imageFits f.id c.cores image) 8
      return (s.setCores f.id c.cores image, 0))

/-! ## Ports, memory, windows, policy -/

/-- ATTACH_PORT (R320, R321, R408): arguments port, slot, process, ring. -/
def State.attachPort (s : State) (c : Command) : State :=
  s.command 0x0E c (fun f t => do
    let i := argOf c 0
    let slot := argOf c 1
    require (i < 2 && slot < 16 && 1 ≤ argOf c 2 && argOf c 2 ≤ 255 && argOf c 3 % 0x4000000 == 0) 3
    require (t.policyField 50 1 / 2 ^ i % 2 == 1) 1
    let other := vget s.ports (1 - i)
    let mine := other.enabled && (match s.vf? other.vf with | some g => g.tenant == t.id | none => false)
    require (slot == 0 || (!(match s.graph? t.id slot with | some g => imgKind g.image != 3 | none => false) && !(mine && other.slot == slot))) 3
    let old := vget s.ports i
    let owner := match s.vf? old.vf with | some g => g.tenant | none => 0
    let s := if old.enabled then s.modTenant owner (fun y => { y with reserved := y.reserved.filter (· != old.slot) }) else s
    let s := if slot == 0 then s else s.modTenant t.id (fun y => { y with reserved := insertNew slot y.reserved })
    let s := s.withProc f.id (argOf c 2)
    let s := s.modPort i (fun p => { Port.reset with
      enabled := true, vf := f.id, proc := argOf c 2, slot := slot, ring := argOf c 3, ringLen := 0x4000000, wrpos := 0x100, sent := p.sent })
    let w := fun (s : State) (off n x : Nat) => s.deviceStore f.id (argOf c 2) (argOf c 3 + off) (leBytes n x)
    return (w (w (w s 0 4 0) 8 8 0) 0x10 4 0x100, 0))

/-- RESET_TENANT (R413, R414). -/
def State.resetTenantCmd (s : State) (c : Command) : State :=
  s.command 0x0F c (fun f _ => do
    require (!s.ik.keyHalt) 8
    return (s.tenantReset f.tenant, 0))

/-- Is every field of a policy within its values (R409)? The functions of its mask must not be another tenant's (R404). -/
def State.policyValid (s : State) (p : List Byte) (vf : Nat) : Bool :=
  let tenant := fieldAt p 4 1
  let allow := fieldAt p 16 4
  let mask := fieldAt p 8 8
  tenant != 0 && zeroBytes p 5 3 && allow % 2 == 0 && bitsOf allow 16 16 == 0 && bitsOf allow 31 20 == 0 &&
  1 ≤ fieldAt p 20 2 && fieldAt p 20 2 ≤ 176 && fieldAt p 22 1 < 16 && fieldAt p 23 1 < 4 &&
  50 ≤ fieldAt p 40 4 && fieldAt p 40 4 ≤ 10000 && fieldAt p 50 1 < 4 && zeroBytes p 51 13 && zeroBytes p 128 896 &&
  mask / 2 ^ vf % 2 == 1 &&
  s.vfs.all (fun f => 64 ≤ f.id || mask / 2 ^ f.id % 2 == 0 || f.tenant == 0 || f.tenant == tenant)

/-- The policy put in force: its functions belong to the tenant, and their budgets follow it. A quota below the lines already resident evicts
nothing by itself: the bundles stay until a request's victims make room (DESIGN CHOICE, log 57: R87 names no mechanism). -/
def State.applyPolicy (s : State) (t : Tenant) (p : List Byte) : State :=
  let first := t.policy.isNone
  let s := s.modTenant t.id (fun y => { y with policy := some p, sealKey := if first && y.sealKey == 0 then s.ik.drawn + 1 else y.sealKey })
  { s with
    ik := { s.ik with drawn := if first then s.ik.drawn + 1 else s.ik.drawn }
    vfs := s.vfs.map (fun f =>
      if 64 ≤ f.id then f
      else if fieldAt p 8 8 / 2 ^ f.id % 2 == 1 then { f with tenant := t.id }
      else if f.tenant == t.id then { f with tenant := 0 } else f) }

/-- INSTALL_POLICY (R409): the key hash, the signature, the version, the fields, in this order. -/
def State.installPolicy (s : State) (c : Command) : State :=
  if s.innkeeperHalted then s
  else match (if argOf c 1 = 2048 then s.hostBytes (argOf c 0) 2048 else none) with
    | none => s.respond c 3 0
    | some p =>
      match s.tenant? (fieldAt p 4 1) with
      | none => s.respond c 5 0
      | some t =>
        let modulus := (p.drop 1024).take 512
        if t.keyHash != some (Config.sha512 modulus) then s.respond c 5 0
        else if !(Config.rsaPssOk modulus (p.take 1536) (p.drop 1536)) then s.respond c 5 0
        else if t.policy.isSome && fieldAt p 0 4 ≤ t.policyField 0 4 then s.respond c 6 0
        else if !(s.policyValid p c.vf) then s.respond c 3 0
        else if s.ik.keyHalt && t.policy.isNone then s.respond c 8 0
        else (s.applyPolicy t p).respond c 0 0

/-- The frames of a range of arguments, none where it is no range of frames (status 3). -/
def frameRange (lo hi : Nat) : Option (List Nat) :=
  if lo % 0x80000 == 0 && hi % 0x80000 == 0 && lo < hi && inTiers lo && inTiers (hi - 1) && tierOf lo == tierOf (hi - 1) then
    some ((List.range ((hi - lo) / 0x80000)).map (lo / 0x80000 + ·))
  else none

/-- ASSIGN_MEMORY (R411, R412): what the frames held was under another key, and reads as free bytes until it is written. -/
def State.assignMemory (s : State) (c : Command) : State :=
  s.command 0x11 c (fun _ t => do
    match frameRange (argOf c 0) (argOf c 1) with
    | none => throw 3
    | some fs =>
      require (fs.all (fun f => s.ownerOf (f * 0x80000) == 0)) 8
      return ({ s with
        free := s.free + 1
        mem := Memory.erase s.mem (argOf c 0) (argOf c 1)
        rekeyed := (argOf c 0, argOf c 1, s.free) :: outsideRange s.rekeyed (argOf c 0) (argOf c 1)
        poison := s.poison.filter (fun p => p.pa < argOf c 0 || argOf c 1 ≤ p.pa)
        ik := { s.ik with owners := s.ik.owners ++ fs.map (fun f => (f, t.id)) } }, 0))

/-- RELEASE_MEMORY (R411): translations settle first; the frames are zeroed, dropped from every cache, and the steward's. -/
def State.releaseMemory (s : State) (c : Command) : State :=
  s.command 0x12 c (fun _ t => do
    match frameRange (argOf c 0) (argOf c 1) with
    | none => throw 3
    | some fs =>
      require (fs.all (fun f => s.ownerOf (f * 0x80000) == t.id)) 8
      let s := s.tlbiDo (.car 0 0) 2 t.id 0
      let s := s.recallRange (argOf c 0) (argOf c 1)
      return ({ s with
        mem := Memory.erase s.mem (argOf c 0) (argOf c 1)
        rekeyed := outsideRange s.rekeyed (argOf c 0) (argOf c 1)
        poison := s.poison.filter (fun p => p.pa < argOf c 0 || argOf c 1 ≤ p.pa)
        ik := { s.ik with owners := s.ik.owners.filter (fun o => !(fs.contains o.1)) } }, 0))

/-- SET_POD_WINDOW (R352): arguments window, VAL, pod, package, tenant there. -/
def State.setPodWindow (s : State) (c : Command) : State :=
  s.command 0x13 c (fun _ t => do
    require (argOf c 0 < 64 && argOf c 1 < 2 && argOf c 2 < 256 && argOf c 3 < 16 && argOf c 4 < 256) 3
    require (argOf c 2 != s.mypod) 3
    return (s.modTenant t.id (fun y => { y with windows := y.windows.filter (fun w => w.1 != argOf c 0) ++
      (if argOf c 1 = 1 then [(argOf c 0, argOf c 2, argOf c 3, argOf c 4)] else []) }), 0))

/-! ## Retirement (R406) -/

/-- The free enabled site of a die that takes a retired core's place: the lowest. -/
def State.spare (s : State) (core : Nat) : Option Nat :=
  ((s.cores.filter (fun k => dieOf k.id == dieOf core && k.id != core && !k.retired && s.siteOn (k.id / 64) (k.id % 64) &&
    !(s.vfs.any (fun f => f.dense.any (fun x => x.2 == k.id))))).map (·.id)).min?

/-- CORE_RETIREMENT (R406): its blocks are pre-empted, and every remap entry of it names the spare, or is absent. Where the context
region has no room for a block the retirement waits, and the core takes no more blocks (log 39). -/
def State.retireCore (s : State) (core : Nat) : State :=
  match s.preempt (s.blocksUsing [core]) with
  | none => { s with retiring := insertNew core s.retiring }
  | some s =>
    let s := { s with retiring := s.retiring.filter (· != core) }
    let images := match s.core? core with | some k => k.images | none => []
    let new := s.spare core
    let entry := fun (e : BitVec 16) =>
      if e.getLsbD 15 && bitsOf e.toNat 9 8 == core / 64 && bitsOf e.toNat 5 0 == core % 64 then
        (match new with | some k => BitVec.ofNat 16 (0x8000 + 256 * (k / 64) + k % 64) | none => e &&& 0x7FFF)
      else e
    let s := { s with vfs := s.vfs.map (fun (f : Vf) => { f with remap := f.remap.map entry }) }
    let s := s.modCore core (fun k => { k with retired := true, images := [] })
    let s := match new with
      | some k => s.modCore k (fun y => images.foldl (fun (c : CoreSt) (i : Nat × List W32) => (s.withImage i.1 i.2 c).getD c) y)
      | none => s
    s.lookAgain

/-- IKDOOR (R407): A host write to IKDOOR submits the command buffer, is ignored while BUSY is set, is latched during activation, and gives STATUS 3 for an unknown OP. -/
def execIkdoor (_value : BitVec 64) (s : State) : Out :=
  .next s.doorbell

/-- MAP_QUEUE (R408): Innkeeper command setting MAPPED of a queue. -/
def execMapQueue (c : Command) (s : State) : Out :=
  .next (s.mapQueue c)

/-- UNMAP_QUEUE (R408): Innkeeper command clearing MAPPED of a queue. -/
def execUnmapQueue (c : Command) (s : State) : Out :=
  .next (s.unmapQueue c)

/-- PAUSE (R380): Innkeeper command pre-empting a launch or all launches. -/
def execPause (c : Command) (s : State) : Out :=
  .next (s.pauseCmd c)

/-- RESUME (R385): Innkeeper command restoring paused blocks. -/
def execResume (c : Command) (s : State) : Out :=
  .next (s.resumeCmd c)

/-- EVICT (R415): Innkeeper command pausing and exporting sealed save areas. -/
def execEvict (c : Command) (s : State) : Out :=
  .next (s.evictCmd c)

/-- IMPORT (R416): Innkeeper command unsealing a context into the context region. -/
def execImportContext (c : Command) (s : State) : Out :=
  .next (s.importCmd c)

/-- SET_SLICE (R405): Innkeeper command building a slice and installing the supervisor image. -/
def execSetSlice (c : Command) (s : State) : Out :=
  .next (s.setSlice c)

/-- REASSIGN_CORES (R417): Innkeeper command moving cores between slices with scrubbing. -/
def execReassignCores (c : Command) (s : State) : Out :=
  .next (s.reassign c)

/-- MIGRATE (R406): Innkeeper command pausing, remapping to same-shape cores and resuming. -/
def execMigrate (c : Command) (s : State) : Out :=
  .next (s.migrate c)

/-- SET_WEIGHT (R372): Innkeeper command setting a process's dispatch weight. -/
def execSetWeight (c : Command) (s : State) : Out :=
  .next (s.setWeight c)

/-- END_GANG (R257): Innkeeper command closing a gang's pipes. -/
def execEndGang (c : Command) (s : State) : Out :=
  .next (s.endGang c)

/-- DISCARD_LAUNCH (R408): Innkeeper command terminating a launch with completion STATUS 3. -/
def execDiscardLaunch (c : Command) (s : State) : Out :=
  .next (s.discardLaunch c)

/-- RESET_QUEUE (R366): Innkeeper command clearing a queue's ERROR and ring pointers. -/
def execResetQueue (c : Command) (s : State) : Out :=
  .next (s.resetQueue c)

/-- ATTACH_PORT (R321): Innkeeper command enabling an Ethernet port and attaching its ingest ring and slot. -/
def execAttachPort (c : Command) (s : State) : Out :=
  .next (s.attachPort c)

/-- RESET_TENANT (R414): Innkeeper command terminating, scrubbing and rekeying a tenant. -/
def execResetTenant (c : Command) (s : State) : Out :=
  .next (s.resetTenantCmd c)

/-- INSTALL_POLICY (R409): Innkeeper command verifying and installing a signed tenant policy. -/
def execInstallPolicy (c : Command) (s : State) : Out :=
  .next (s.installPolicy c)

/-- ASSIGN_MEMORY (R411): Innkeeper command giving steward frames to a tenant. -/
def execAssignMemory (c : Command) (s : State) : Out :=
  .next (s.assignMemory c)

/-- RELEASE_MEMORY (R411): Innkeeper command zeroing frames and returning them to the steward. -/
def execReleaseMemory (c : Command) (s : State) : Out :=
  .next (s.releaseMemory c)

/-- SET_POD_WINDOW (R352): Innkeeper command setting a tenant's pod window entry. -/
def execSetPodWindow (c : Command) (s : State) : Out :=
  .next (s.setPodWindow c)

/-- CORE_RETIREMENT (R406): A retired core is replaced in the remap table or made absent. -/
def execCoreRetirement (core : Nat) (s : State) : Out :=
  if core < 256 && (s.core? core).isSome then .next (s.retireCore core) else .fault .noUnit

end Sys2Proof.Machine
end

