-- ==== Sys2Proof/Machine/Interface.lean ====
section
/-! DEFINITION. What the host does to the device outside the innkeeper's commands (R8, R365, R366, R370, R407, R412, R419 to R428):
registers, doorbells, memory accesses, interface events, and TDISP messages. -/
namespace Sys2Proof.Machine
open Sys2Proof

/-! ## Host registers (R8, R365, R407, R422, R426) -/

/-- The registers of the physical function that are LK for every interface (R426). -/
def sriovReg : HostReg → Bool
  | .pfVfBar _ | .pfNumVfs | .pfPageSize | .pfVfEnable => true
  | _ => false

/-- The LK registers of a function, those of queues it has not among them (R422). -/
def lkReg (f : Vf) : HostReg → Bool
  | .qcount | .evbase | .sliceshape | .bar _ | .msgCtl | .msixTable _ | .pba _ => true
  | .qbase q | .qctl q => q < f.qcount.toNat
  | _ => false

/-- Registers of the function itself, which an interface in ERROR does not answer for (R421), and one in RUN only on its stream (R420). -/
def ownReg : HostReg → Bool
  | .pfVfBar _ | .pfNumVfs | .pfPageSize | .pfVfEnable | .ikcmd | .ikstat | .cxlCache => false
  | _ => true

/-- Registers in a function's configuration space, which requests reach that are no MMIO of its interface, so that R420 sets no stream for them. -/
def configReg : HostReg → Bool
  | .bar _ | .msgCtl | .atomicEnable => true
  | _ => false

/-- IFLKADDR for a register: space and byte offset (R424; log 7 for the functions' own configuration space). -/
def lkAddr (r : HostReg) : W32 :=
  let at_ := fun (space off : Nat) => BitVec.ofNat 32 (space * 2 ^ 30 + off % 2 ^ 30)
  match r with
  | .qcount => at_ 0 0x100
  | .evbase => at_ 0 0x108
  | .sliceshape => at_ 0 0x120
  | .qbase q => at_ 0 (0x10000 + 0x40 * q)
  | .qctl q => at_ 0 (0x10008 + 0x40 * q)
  | .msixTable off => at_ 1 off
  | .pba off => at_ 1 (0x2000 + off)
  | .msgCtl => at_ 2 (Config.configOffset 0)
  | .bar n => at_ 2 (Config.configOffset (1 + n))
  | .pfVfBar n => at_ 3 (0x184 + 4 * n)
  | .pfNumVfs => at_ 3 0x170
  | .pfPageSize => at_ 3 0x180
  | .pfVfEnable => at_ 3 0x168
  | _ => 0

/-- A queue after reset (R365). -/
def Queue.reset (q : Nat) : Queue :=
  { q := q, base := 0, ctl := 0, tail := 0, head := 0, stat := 0, emit := [], emitLost := false, ready := false, slices := 0,
    eventSent := false }

/-- QCOUNT written: the function has that many queues, where all functions together keep to 8,192 (R365). A queue it takes away keeps its
state, its error among it (R366). -/
def State.setQcount (s : State) (f : Vf) (n : Nat) : State :=
  let others := (s.vfs.filter (fun g => g.id != f.id)).foldl (fun acc g => acc + g.qcount.toNat) 0
  if 8192 < others + n then s
  else s.modVf f.id (fun g =>
    let all := g.queues ++ g.shelved
    { g with
      qcount := BitVec.ofNat 32 n
      queues := (List.range n).map (fun q => (all.find? (fun x => x.q == q)).getD (Queue.reset q))
      shelved := all.filter (fun x => n ≤ x.q) })

/-- A queue looked at again: its head packet's semaphore, dispatch, and its feed (R365, R367, R369). -/
def State.lookQueue (s : State) (vf q : Nat) : State :=
  ((s.queueEvent (.semaphorePoll vf q)).queueEvent .packetDispatch).queueEvent (.feedQueuePush vf q)

/-- MSI-X vectors of a function, and virtual functions of the device, at most (R436). -/
def maxVectors : Nat := 64

/-- A host write performed on a register by its access code: read-only registers ignore it, reserved bits stay zero (R8, R9). There are at
most 64 MSI-X vectors, of 16 bytes each, and 64 virtual functions (R436): a write beyond them is discarded (DESIGN CHOICE, log 36). In minimal
mode no virtual function is enumerated (R431), so VF enable stays clear. -/
def State.storeReg (s : State) (f : Vf) (r : HostReg) (x : Word) : State :=
  let own := fun (g : Vf → Vf) => s.modVf f.id g
  let page := x &&& ~~~0xFFF
  match r with
  | .qcount => s.setQcount f (bitsOf x.toNat 15 0)
  | .evbase => (own (fun g => { g with evbase := page })).writeEvents f.id 17
  | .qbase q => (s.modQueue f.id q (fun y => { y with base := page })).lookQueue f.id q
  | .qctl q => (s.modQueue f.id q (fun y => { y with ctl := x &&& 0x1FFFF })).lookQueue f.id q
  | .qstat q => s.modQueue f.id q (fun y => { y with stat := if x.getLsbD 2 then y.stat &&& ~~~4 else y.stat })
  | .bar n => own (fun g => { g with bars := (n, x) :: g.bars.filter (fun b => b.1 != n) })
  | .msgCtl => own (fun g => { g with msgCtl := x &&& 0xFFFF })
  | .msixTable off => if off + 4 ≤ 16 * maxVectors then own (fun g => { g with msixTable := g.msixTable.writeN off (leBytes 4 x.toNat) }) else s
  | .pba off => if off + 8 ≤ maxVectors / 8 then own (fun g => { g with pba := g.pba.writeN off (leBytes 8 x.toNat) }) else s
  | .atomicEnable => own (fun g => { g with atomicEnable := x.getLsbD 0 })
  | .pfVfBar n => { s with pf := { s.pf with vfBar := vset s.pf.vfBar n (x.setWidth 32) } }
  | .pfNumVfs => if bitsOf x.toNat 15 0 ≤ 64 then { s with pf := { s.pf with numVfs := x.setWidth 32 &&& 0xFFFF } } else s
  | .pfPageSize => { s with pf := { s.pf with pageSize := x.setWidth 32 } }
  | .pfVfEnable => { s with pf := { s.pf with vfEnable := x.getLsbD 0 && s.fw.phase != Phase.minimal } }
  | .cxlCache => { s with cxl := x.getLsbD 0 }
  | .ikcmd => { s with ik := { s.ik with cmd := x } }
  | .ikstat => { s with ik := { s.ik with done := s.ik.done && !(x.getLsbD 0) } }
  | .sliceshape | .evtail | .qhead _ => s

/-- Is an interface in CONFIG_LOCKED or RUN? -/
def Vf.frozen (f : Vf) : Bool := f.ifstate == 1 || f.ifstate == 2

/-- A host write to a register (R8, R421, R425, R426): to an LK register of a locked or running interface it moves the interface, or
for an SR-IOV register every such interface in ascending number, to ERROR and is discarded; an interface in ERROR answers with
Completer Abort; otherwise it is performed. -/
def State.hostWrite (s : State) (f : Vf) (r : HostReg) (x : Word) : State :=
  if sriovReg r && s.vfs.any Vf.frozen then
    ((s.vfs.filter Vf.frozen).map (·.id)).foldl (fun st v => st.ifError v 1 (lkAddr r)) s
  else if f.frozen && lkReg f r then s.ifError f.id 1 (lkAddr r)
  else if f.ifstate == 3 && ownReg r then { s with hostReply := .abort }
  else s.storeReg f r x

/-- Does a host request reach a function's own registers: the function is enumerated, which none is in minimal mode (R431), and an interface
in RUN admits MMIO on its IDE stream alone (R420)? -/
def State.reaches (s : State) (f : Vf) (onIde : Bool) : Bool :=
  (f.ifstate != 2 || onIde) && (s.fw.phase != Phase.minimal || 64 ≤ f.id)

/-- The function a host request to its own registers names, where the request reaches it. A refused one changes nothing (DEDUCED, log 36). -/
def State.reached? (s : State) (x : HostFrom) : Option Vf := (s.vf? x.vf).filter (fun f => s.reaches f x.onIde)

/-- A host function's register written, or nothing where the request reaches no such function. -/
def State.hostWriteTo (s : State) (h : HostFrom) (r : HostReg) (x : Word) : State :=
  match (if ownReg r then s.reached? { h with onIde := h.onIde || configReg r } else s.vf? h.vf) with
  | some f => s.hostWrite f r x
  | none => s

/-- QTAIL_DOORBELL (R365, R366, R421): QTAIL takes the value written, as a RW register does (R8); a value at or above the slot count is error 1
as well, which stops the queue. -/
def State.ringQueue (s : State) (h : HostFrom) (q : Nat) (x : W32) : State :=
  let vf := h.vf
  match s.reached? h with
  | none => s
  | some f =>
    if f.ifstate == 3 then { s with hostReply := .abort }
    else match f.queue? q with
      | none => s
      | some y =>
        let s := s.modQueue vf q (fun z => { z with tail := x })
        if y.size ≤ x.toNat then s.queueError vf q 1 else s.lookQueue vf q

/-- EVHEAD_WRITE (R365, R370): the host makes room, and pending events are written. -/
def State.setEvhead (s : State) (h : HostFrom) (x : W32) : State :=
  let vf := h.vf
  match s.reached? h with
  | none => s
  | some f => if f.ifstate == 3 then { s with hostReply := .abort } else (s.modVf vf (fun g => { g with evhead := x })).writeEvents vf 17

/-! ## Host reads of registers (R8, R9, R365, R407, R421) -/

/-- What a host reads at: a register it may also write, or one whose write is an event of its own. -/
inductive HostRead where
  | reg (r : HostReg)
  | qtail (q : Nat)
  | evhead
  | ikdoor
deriving DecidableEq, Repr

/-- A queue's register as a function reads it, 0 for a queue the function has not. -/
def Vf.queueReg (f : Vf) (q : Nat) (g : Queue → Nat) : Nat := match f.queue? q with | some y => g y | none => 0

/-- The value of a register a host reads (R365, R407, R422, R426). -/
def State.readReg (s : State) (f : Vf) : HostReg → Nat
  | .qcount => f.qcount.toNat
  | .evbase => f.evbase.toNat
  | .sliceshape => f.sliceshape.toNat
  | .qbase q => f.queueReg q (·.base.toNat)
  | .qctl q => f.queueReg q (·.ctl.toNat)
  | .qstat q => f.queueReg q (·.stat.toNat)
  | .evtail => f.evtail.toNat
  | .qhead q => f.queueReg q (·.head.toNat)
  | .bar n => match f.bars.find? (fun b => b.1 == n) with | some b => b.2.toNat | none => 0
  | .msgCtl => f.msgCtl.toNat
  | .msixTable off => leNat (f.msixTable.readN off 4)
  | .pba off => leNat (f.pba.readN off 8)
  | .pfVfBar n => (vget s.pf.vfBar n).toNat
  | .pfNumVfs => s.pf.numVfs.toNat
  | .pfPageSize => s.pf.pageSize.toNat
  | .pfVfEnable => s.pf.vfEnable.toNat
  | .atomicEnable => f.atomicEnable.toNat
  | .cxlCache => s.cxl.toNat
  | .ikcmd => s.ik.cmd.toNat
  | .ikstat => s.ik.done.toNat + 2 * s.ik.busy.toNat

/-- Is what a host reads at one of the function's own registers? -/
def HostRead.own : HostRead → Bool
  | .reg g => ownReg g
  | .qtail _ | .evhead => true
  | .ikdoor => false

/-- Is it in the function's configuration space? -/
def HostRead.config : HostRead → Bool
  | .reg g => configReg g
  | _ => false

/-- A host read of a register: IKDOOR reads as 0 (R407), an interface in ERROR answers with Completer Abort (R421), and a request that
does not reach the function is unsupported (R420, R431). A read changes nothing, so the opcode table has no event for it. -/
def State.hostRead (s : State) (f : Vf) (onIde : Bool) (r : HostRead) : HostReply :=
  let value := fun (x : Nat) => HostReply.data (leBytes 8 x)
  if r.own && !(s.reaches f (onIde || r.config)) then .unsupported
  else if r.own && f.ifstate == 3 then .abort
  else match r with
  | .reg g => value (s.readReg f g)
  | .qtail q => value (f.queueReg q (·.tail.toNat))
  | .evhead => value f.evhead.toNat
  | .ikdoor => value 0

/-! ## Host accesses to device memory (R111, R412) -/

/-- Is a host access admitted: its interface in RUN, on its IDE stream, to frames its tenant owns? -/
def State.hostAdmits (s : State) (a : HostAccess) : Bool :=
  match s.vf? a.vf with
  | some f => f.ifstate == 2 && a.onIde && f.tenant != 0 && 0 < a.len &&
      (List.range (a.len / 0x80000 + 2)).all (fun i =>
        let pa := min (a.pa + 0x80000 * i) (a.pa + a.len - 1)
        inTiers pa && s.ownerOf pa == f.tenant)
  | none => false

/-- HOST_ACCESS (R412, R421): performed, or refused; the steward's log keeps a refused write's address and requester. -/
def State.hostAccess (s : State) (a : HostAccess) : State :=
  let error := match s.vf? a.vf with | some f => f.ifstate == 3 | none => false
  let s := if error then { s with hostReply := .abort } else s
  if s.hostAdmits a then
    (match a.store with
     | some bs => s.put none (.glob a.pa) (bs.take a.len) none
     | none => { s with hostReply := .data (s.peekN (.glob a.pa) a.len) })
  else match a.store with
    | some _ => { s with ik := { s.ik with log := s.ik.log ++ [(a.pa, a.vf)] } }
    | none => if error then s else { s with hostReply := .unsupported }

/-! ## TDISP (R420, R427) -/

/-- An error answer, to TDISP and to SPDM messages alike. -/
def errorReply : List Byte := [0x7F]

/-- A message that waits for the pause of a firmware activation to end (R435), and is not answered while an innkeeper core is
halted. -/
def State.message (s : State) (i : Instr) (f : State → State) : State :=
  if s.fw.phase == .paused then { s with ik := { s.ik with held := s.ik.held ++ [i] } }
  else if s.innkeeperHalted then s else f s

/-- An answer. -/
def State.answer (s : State) (bs : List Byte) : State := { s with ik := { s.ik with reply := bs } }

/-- Does a TDISP request come inside the established session of its function's tenant (R420)? -/
def State.tdispOk (s : State) (m : TdispMsg) : Bool :=
  match s.vf? m.vf with
  | some f => m.vf < 64 && f.tenant != 0 && s.ik.sessions.any (fun x => x.id == m.session && x.established && x.tenant == f.tenant)
  | none => false

/-- A TDISP request answered, or an error where it does not come in its session. -/
def State.tdisp (s : State) (m : TdispMsg) (i : Instr) (f : State → State) : State :=
  s.message i (fun s => if s.tdispOk m then f s else s.answer errorReply)

/-- A request that writes IFCMD: an IFRES other than 0 is a TDISP error (R427). -/
def State.tdispCommand (s : State) (vf cmd : Nat) : State :=
  let s := s.ifCommand vf cmd
  match s.vf? vf with
  | some f => s.answer (if f.ifres == 0 then [] else errorReply)
  | none => s

/-- GET_DEVICE_INTERFACE_REPORT (R427): the portion asked for of the 128 bytes at IFREP (R424), while the interface is locked or runs. A
portion that reaches past them is an error (PRESUMED, log 37). -/
def State.tdispReport (s : State) (m : TdispMsg) : State :=
  match s.vf? m.vf with
  | some f => if f.frozen && m.offset + m.len ≤ 128 then s.answer (s.peekN (.glob (f.ifrep.toNat + m.offset)) m.len) else s.answer errorReply
  | none => s

/-- HOST_ACCESS (R412): A host read or write of device memory is admitted or refused. -/
def execHostAccess (a : HostAccess) (s : State) : Out :=
  .next (s.hostAccess a)

/-- HOST_LK_WRITE (R425): A host write to an LK register of a locked or running interface moves it to ERROR. -/
def execHostLkWrite (vf : HostFrom) (reg : HostReg) (value : BitVec 64) (s : State) : Out :=
  .next (s.hostWriteTo vf reg value)

/-- A failed IDE stream is keyed no more (R419); 64 is the physical function's (log 37). -/
def State.dropStream (s : State) (vf : Nat) : State :=
  if vf = 64 then { s with pf := { s.pf with ideKeyed := false } } else s.modVf vf (fun f => { f with ideKeyed := false })

/-- IDE_STREAM_FAILURE (R425): An interface's IDE stream fails and the interface enters ERROR. -/
def execIdeStreamFailure (vf : Nat) (s : State) : Out :=
  .next ((s.dropStream vf).ifError vf 2 0)

/-- FUNCTION_LEVEL_RESET (R425): An FLR of a locked or running function moves its interface to ERROR. -/
def execFunctionLevelReset (vf : Nat) (s : State) : Out :=
  .next (s.ifError vf 3 0)

/-- QTAIL_DOORBELL (R365): A host write of QTAIL rings the queue's doorbell. -/
def execQtailDoorbell (vf : HostFrom) (q : Nat) (value : BitVec 32) (s : State) : Out :=
  .next (s.ringQueue vf q value)

/-- EVHEAD_WRITE (R370): A host write of EVHEAD frees event slots and flushes pending event entries. -/
def execEvheadWrite (vf : HostFrom) (value : BitVec 32) (s : State) : Out :=
  .next (s.setEvhead vf value)

/-- REGISTER_WRITE (R8): A write to a register with no behaviour of its own, under its access code. -/
def execRegisterWrite (vf : HostFrom) (reg : HostReg) (value : BitVec 64) (s : State) : Out :=
  .next (s.hostWriteTo vf reg value)

/-- LOCK_INTERFACE (R420): TDISP request the innkeeper answers by commanding LOCK. -/
def execLockInterface (m : TdispMsg) (s : State) : Out :=
  .next (s.tdisp m (.lockInterface m) (fun s => s.tdispCommand m.vf 1))

/-- START_INTERFACE (R420): TDISP request the innkeeper answers by commanding START. -/
def execStartInterface (m : TdispMsg) (s : State) : Out :=
  .next (s.tdisp m (.startInterface m) (fun s => s.tdispCommand m.vf 2))

/-- STOP_INTERFACE (R420): TDISP request the innkeeper answers by commanding STOP. -/
def execStopInterface (m : TdispMsg) (s : State) : Out :=
  .next (s.tdisp m (.stopInterface m) (fun s => s.tdispCommand m.vf 3))

/-- GET_DEVICE_INTERFACE_REPORT (R427): TDISP request returning part of the interface report. -/
def execGetDeviceInterfaceReport (m : TdispMsg) (s : State) : Out :=
  .next (s.tdisp m (.getDeviceInterfaceReport m) (fun s => s.tdispReport m))

/-- GET_DEVICE_INTERFACE_STATE (R427): TDISP request returning the interface state. -/
def execGetDeviceInterfaceState (m : TdispMsg) (s : State) : Out :=
  .next (s.tdisp m (.getDeviceInterfaceState m) (fun s =>
    s.answer (leBytes 1 (match s.vf? m.vf with | some f => f.ifstate | none => 0))))

/-- TDISP_GET_VERSION (R420): TDISP request returning the supported version. -/
def execTdispGetVersion (m : TdispMsg) (s : State) : Out :=
  .next (s.tdisp m (.tdispGetVersion m) (fun s => s.answer (Config.answer 0x40 0 [])))

/-- TDISP_GET_CAPABILITIES (R420): TDISP request returning capabilities. -/
def execTdispGetCapabilities (m : TdispMsg) (s : State) : Out :=
  .next (s.tdisp m (.tdispGetCapabilities m) (fun s => s.answer (Config.answer 0x41 0 [])))

/-- IFCMD_LOCK (R425): Interface logic freezes LK registers, writes the report and enters CONFIG_LOCKED. -/
def execIfcmdLock (vf : Nat) (s : State) : Out :=
  .next (s.ifLock vf)

/-- IFCMD_START (R425): Interface logic moves a locked interface to RUN. -/
def execIfcmdStart (vf : Nat) (s : State) : Out :=
  .next (s.ifStart vf)

/-- IFCMD_STOP (R425): Interface logic resets the tenant state and returns to CONFIG_UNLOCKED. -/
def execIfcmdStop (vf : Nat) (s : State) : Out :=
  .next (s.ifStop vf)

end Sys2Proof.Machine
end

