-- ==== Sys2Proof/Machine/Spdm.lean ====
section
/-! DEFINITION. The SPDM responder (R418), keys of IDE streams (R419) and the generator's health (R413). What a message's body says and
what an answer holds beyond what the spec gives is Config's (log 7). -/
namespace Sys2Proof.Machine
open Sys2Proof

/-- A session of the responder. -/
def State.session? (s : State) (i : Nat) : Option Session := s.ik.sessions.find? (fun x => x.id == i)

/-- The connection's stage: 1 version known, 2 capabilities, 3 algorithms. -/
def State.setStage (s : State) (n : Nat) : State := { s with ik := { s.ik with stage := n } }

/-- A request answered where the connection has reached a stage, in full service or, for some requests, in minimal mode (R431). -/
def State.spdm (s : State) (i : Instr) (stage : Nat) (minimal : Bool) (f : State → State) : State :=
  s.message i (fun s => if s.ik.stage < stage || (s.fw.phase == .minimal && !minimal) then s.answer errorReply else f s)

/-- A request inside an established session. -/
def State.secured (s : State) (i : Instr) (id : Nat) (f : Session → State → State) : State :=
  s.spdm i 0 false (fun s => match s.session? id with
    | some x => if x.established then f x s else s.answer errorReply
    | none => s.answer errorReply)

/-- A session changed. -/
def State.modSession (s : State) (id : Nat) (f : Session → Session) : State :=
  { s with ik := { s.ik with sessions := s.ik.sessions.map (fun x => if x.id == id then f x else x) } }

/-- The fuses (R1, R2, R15, R429): grade, site masks, upper dies, the package's serial and the key that verifies images. The spec names
them and gives the measurement no layout: the order is log 7's. -/
def State.fuses (s : State) : List Byte :=
  leBytes 2 s.grade.toNat ++ (List.range 4).flatMap (fun i => leBytes 8 (vget s.dieen i).toNat)
    ++ (List.range 4).map (fun i => if vget s.uppers i then 1 else 0) ++ leBytes 4 s.serial.toNat ++ Config.bootKey

/-- The measured object of an index (R418): 1 the boot ROM, 2 the active firmware slot, 3 the innkeeper's image, 4 fuses and grade,
5 the installed policy of the session's tenant, for an established session. -/
def State.measured (s : State) (m : SpdmMsg) : Option (List Byte) :=
  match m.sel with
  | 1 => some Config.bootRom
  | 2 => some (vget s.fw.slots (bitsOf s.fw.bootwhy.toNat 1 1)).bytes
  | 3 => some Config.innkeeperImage
  | 4 => some s.fuses
  | 5 => (s.session? m.session).bind (fun x => if x.established then (s.tenant? x.tenant).bind (·.policy) else none)
  | _ => none

/-- KEY_EXCHANGE: a session opens, at most 64 of them, one for each tenant. -/
def State.keyExchange (s : State) (m : SpdmMsg) : State :=
  let t := Config.messageTenant m.body
  if t = 0 || 255 < t || 64 ≤ s.ik.sessions.length || s.ik.sessions.any (fun x => x.tenant == t || x.id == m.session) || s.ik.keyHalt then
    s.answer errorReply
  else
    let x : Session := { id := m.session, tenant := t, established := false, phase := 0 }
    ({ s with ik := { s.ik with sessions := s.ik.sessions ++ [x], drawn := s.ik.drawn + 1 } } : State).answer (Config.answer 0x64 s.ik.drawn m.body)

/-- FINISH: the session is established where the message verifies. -/
def State.finishSession (s : State) (m : SpdmMsg) : State :=
  match s.session? m.session with
  | some x => if !x.established && Config.messageOk 0x65 x.phase m.body then
      (s.modSession m.session (fun y => { y with established := true })).answer (Config.answer 0x65 x.phase m.body)
    else s.answer errorReply
  | none => s.answer errorReply

/-- The number of a sealing key a tenant has set itself. -/
def tenantKey (body : List Byte) : Nat := 2 ^ 64 + leNat body

/-- A tenant with nothing installed. -/
def Tenant.new (id : Nat) : Tenant :=
  { id := id, policy := none, keyHash := none, sealKey := 0, keyGen := 0, windows := [], graphs := [], reserved := [], exportCount := 0,
    imported := [], handles := [] }

/-- A tenant registers its policy key hash (selector 0), or its sealing key (selector 1), in its session (R409, R415, R418). -/
def State.registerKey (s : State) (m : SpdmMsg) (x : Session) : State :=
  let s := if (s.tenant? x.tenant).isSome then s else { s with tenants := s.tenants ++ [Tenant.new x.tenant] }
  match m.sel with
  | 0 => (s.modTenant x.tenant (fun t => { t with keyHash := some (m.body.take 64) })).answer []
  | 1 => (s.modTenant x.tenant (fun t => { t with sealKey := tenantKey m.body })).answer []
  | _ => s.answer errorReply

/-- The algorithms a connection agrees on, the only ones offered (R418): RSASSA-4096, SHA-512, secp384r1 and AES-256-GCM, each by its
table and the number of its bit there (PRESUMED, log 37: those of the SPDM standard). -/
def algorithms : List (Nat × Nat) := [(0, 5), (1, 2), (2, 4), (3, 1)]

/-- NEGOTIATE_ALGORITHMS (R418): the answer selects these and no others; a request that does not offer them gets an error. -/
def State.negotiate (s : State) (m : SpdmMsg) : State :=
  if algorithms.all (fun a => Config.offersAlgorithm m.body a.1 a.2) then
    (s.setStage 3).answer (Config.answer 0x63 0 (algorithms.flatMap (fun a => leBytes 4 (2 ^ a.2))))
  else s.answer errorReply

/-- IDE_KM inside the owning session programs the keys of a function's stream (R419); selector 64 is the physical function's, which any
established session may key (DESIGN CHOICE, log 37: the spec names no session that owns it). -/
def State.programIde (s : State) (m : SpdmMsg) (x : Session) : State :=
  if m.sel = 64 then
    (if s.ik.keyHalt then s.answer errorReply else ({ s with pf := { s.pf with ideKeyed := true } } : State).answer [])
  else match s.vf? m.sel with
  | some f => if m.sel < 64 && f.tenant == x.tenant && !s.ik.keyHalt then (s.modVf m.sel (fun g => { g with ideKeyed := true })).answer []
    else s.answer errorReply
  | none => s.answer errorReply

/-- SPDM_GET_VERSION (R418): SPDM request for supported versions. -/
def execSpdmGetVersion (m : SpdmMsg) (s : State) : Out :=
  .next (s.spdm (.spdmGetVersion m) 0 true (fun s => (s.setStage 1).answer (Config.answer 0x04 0 m.body)))

/-- SPDM_GET_CAPABILITIES (R418): SPDM request for capabilities. -/
def execSpdmGetCapabilities (m : SpdmMsg) (s : State) : Out :=
  .next (s.spdm (.spdmGetCapabilities m) 1 true (fun s => (s.setStage 2).answer (Config.answer 0x61 0 m.body)))

/-- NEGOTIATE_ALGORITHMS (R418): SPDM algorithm negotiation. -/
def execNegotiateAlgorithms (m : SpdmMsg) (s : State) : Out :=
  .next (s.spdm (.negotiateAlgorithms m) 2 true (fun s => s.negotiate m))

/-- GET_DIGESTS (R418): SPDM request for certificate chain digests. -/
def execGetDigests (m : SpdmMsg) (s : State) : Out :=
  .next (s.spdm (.getDigests m) 3 true (fun s => s.answer (Config.answer 0x01 0 m.body)))

/-- GET_CERTIFICATE (R418): SPDM request for the device identity chain. -/
def execGetCertificate (m : SpdmMsg) (s : State) : Out :=
  .next (s.spdm (.getCertificate m) 3 true (fun s => if m.sel = 0 then s.answer (Config.answer 0x02 0 m.body) else s.answer errorReply))

/-- CHALLENGE (R418): SPDM challenge-response authentication. -/
def execChallenge (m : SpdmMsg) (s : State) : Out :=
  .next (s.spdm (.challenge m) 3 true (fun s => if m.sel = 0 then s.answer (Config.answer 0x03 0 m.body) else s.answer errorReply))

/-- GET_MEASUREMENTS (R418): SPDM request for measurements. -/
def execGetMeasurements (m : SpdmMsg) (s : State) : Out :=
  .next (s.spdm (.getMeasurements m) 3 true (fun s => match s.measured m with
    | some x => s.answer (Config.answer 0x60 m.sel (x ++ m.body))
    | none => s.answer errorReply))

/-- KEY_EXCHANGE (R418): SPDM secured-session key exchange. -/
def execKeyExchange (m : SpdmMsg) (s : State) : Out :=
  .next (s.spdm (.keyExchange m) 3 false (fun s => s.keyExchange m))

/-- FINISH (R418): SPDM session finish. -/
def execFinish (m : SpdmMsg) (s : State) : Out :=
  .next (s.spdm (.finish m) 3 false (fun s => s.finishSession m))

/-- SPDM_HEARTBEAT (R418): SPDM session heartbeat. -/
def execSpdmHeartbeat (m : SpdmMsg) (s : State) : Out :=
  .next (s.secured (.spdmHeartbeat m) m.session (fun _ s => s.answer (Config.answer 0x68 0 m.body)))

/-- KEY_UPDATE (R418): SPDM session key update. -/
def execKeyUpdate (m : SpdmMsg) (s : State) : Out :=
  .next (s.secured (.keyUpdate m) m.session (fun x s =>
    (s.modSession m.session (fun y => { y with phase := y.phase + 1 })).answer (Config.answer 0x69 x.phase m.body)))

/-- END_SESSION (R418): SPDM session end. -/
def execEndSession (m : SpdmMsg) (s : State) : Out :=
  .next (s.secured (.endSession m) m.session (fun _ s =>
    ({ s with ik := { s.ik with sessions := s.ik.sessions.filter (fun y => y.id != m.session) } } : State).answer (Config.answer 0x6C 0 m.body)))

/-- POLICY_KEY_REGISTRATION (R418): Vendor-defined message registering a tenant's policy key hash or sealing key. -/
def execPolicyKeyRegistration (m : SpdmMsg) (s : State) : Out :=
  .next (s.secured (.policyKeyRegistration m) m.session (fun x s => s.registerKey m x))

/-- IDE_KM_KEY_PROGRAMMING (R419): IDE_KM messages inside the owning SPDM session program the keys of a function's IDE selective stream, which START needs. -/
def execIdeKmKeyProgramming (m : SpdmMsg) (s : State) : Out :=
  .next (s.secured (.ideKmKeyProgramming m) m.session (fun x s => s.programIde m x))

/-- HEALTH_TEST_FAILURE (R413): The true random number generator fails an SP 800-90B health test, halting key generation so that commands needing a key return STATUS 8. -/
def execHealthTestFailure (s : State) : Out :=
  .next { s with ik := { s.ik with keyHalt := true } }

end Sys2Proof.Machine
end

