-- ==== Sys2Proof/Machine/Firmware.lean ====
section
/-! DEFINITION. Starts, the watchdog, activation, steward kernels, power and heat (R326, R329, R332, R349, R429 to R435, R438, R439). -/
namespace Sys2Proof.Machine
open Sys2Proof

/-! ## Starts (R429 to R431, R435) -/

/-- Two seconds of core cycles (R11, R429). -/
def watchdogCycles : Nat := 5400000000

/-- Has an image that an activation installed let its 10 s pass without a READY (R435)? -/
def State.lateImage (s : State) : Bool := s.fw.readyBy != 0 && s.fw.readyBy ≤ s.clk

/-- The slots whose image an activation installed and that let its 10 s pass without a READY, each to count at the next reset (R435):
those that another activation has followed, and the active one's. -/
def State.lateSlots (s : State) : List Nat := s.fw.missed ++ (if s.lateImage then [bitsOf s.fw.bootwhy.toNat 1 1] else [])

/-- BOOTWHY once those slots have counted as failed starts, each of its own slot (R430, R435). -/
def State.lateBootwhy (s : State) (reason : Nat) : Word :=
  s.lateSlots.foldl (fun x p => failedBootwhy ((x &&& ~~~2) ||| BitVec.ofNat 64 (2 * p)) reason trainedDie) s.fw.bootwhy

/-- PACKAGE_RESET (R429 to R431, R435): at power-on (`why` 0) BOOTWHY is 0. Any other reset ends minimal mode; an activation whose
image wrote no READY in time counts as a failed start of its slot. -/
def State.resetPackage (s : State) (why : Nat) : State :=
  if why = 0 then s.packageReset 0
  else if s.lateSlots.isEmpty then s.packageReset (s.fw.bootwhy &&& ~~~0x301)
  else s.failWith (s.lateBootwhy 4)

/-- FIRMWARE_WATCHDOG (R430). -/
def State.watchdogFires (s : State) : State := if s.fw.watchdog then s.failStart 4 else s

/-- FWCTL READY (R429, R430): in time it clears FAILS; a start whose 2 s have passed has failed. After the 10 s of an activation it comes too
late to keep its image from counting (R435). -/
def State.firmwareReady (s : State) : State :=
  if s.fw.watchdog && watchdogCycles < s.clk then s.failStart 4
  else if s.lateImage then s
  else
    let fw := s.fw
    { s with fw := { fw with bootwhy := fw.bootwhy &&& ~~~0xC, watchdog := false, readyBy := 0, phase := if fw.phase == .entered then .running else fw.phase } }

/-! ## Activation (R434, R435) -/

/-- FWSTAT with a state and reason; the count of activations stays. -/
def fwstatOf (old : Word) (st reason : Nat) : Word := BitVec.ofNat 64 (st + 16 * reason + 2 ^ 32 * bitsOf old.toNat 63 32)

/-- The slot that is not active. -/
def Firmware.spare (fw : Firmware) : Nat := 1 - bitsOf fw.bootwhy.toNat 1 1

/-- FWCTL ACTIVATE (R434): verification begins, unless one is going on. -/
def State.activate (s : State) : State :=
  let st := bitsOf s.fw.fwstat.toNat 1 0
  if st == 1 || st == 2 then s
  else ({ s with fw := { s.fw with fwstat := fwstatOf s.fw.fwstat 1 0 } } : State).queueEvent .activationVerified

/-- ACTIVATION_VERIFIED (R434): steps 3 and 4 of R429 for the inactive slot; FWSTAT reads failed, or the pause comes when the
innkeeper is done. -/
def State.verified (s : State) : State :=
  if bitsOf s.fw.fwstat.toNat 1 0 != 1 || s.fw.activating then s
  else
    let slot := s.fw.spare
    let img := vget s.fw.slots slot
    let fail := fun (r : Nat) => { s with fw := { s.fw with fwstat := fwstatOf s.fw.fwstat 3 r } }
    if img.bytes.isEmpty || !(Config.rsaPssOk Config.bootKey img.bytes []) then fail (1 + slot)
    else if img.version < s.fw.rollback then fail 3
    else ({ s with fw := { s.fw with activating := true } } : State).queueEvent .activationPause

/-- The boot caravans' epochs commit, as they stop for good where they stand. -/
def State.settleBoot (s : State) : State :=
  (s.blocks.filter (fun x => x.launch == 0)).foldl (fun st x => x.cars.foldl (fun st c => st.commitAll x.id c.n) st) s

/-- The new image installed and entered on every steward core (R434, R435): ACTIVE names its slot, and what waited for the pause goes on. -/
def State.install (s : State) : State :=
  let slot := s.fw.spare
  let img := vget s.fw.slots slot
  let missed := s.lateSlots
  let s := s.settleBoot.enterImage img.bytes (Config.imageField img.bytes 2)
  let fw := s.fw
  let n := bitsOf fw.fwstat.toNat 63 32 + 1
  let s := { s with fw := { (fw : Firmware) with
    bootwhy := (fw.bootwhy &&& ~~~2) ||| BitVec.ofNat 64 (2 * slot), fwstat := BitVec.ofNat 64 (2 ^ 32 * n), phase := .running,
    activating := false, readyBy := s.clk + 27000000000, missed := missed } }
  let s := s.ik.held.foldl State.queueEvent s
  let s := if s.ik.latched then s.queueEvent (.ikdoor 0) else s
  { s with ik := { s.ik with held := [], latched := false } }

/-- ACTIVATION_PAUSE (R434): with no command in progress the steward cores pause, for at most 150 µs; at its end the image is
installed. -/
def State.pauseStep (s : State) : State :=
  if !s.fw.activating then s
  else if s.fw.phase == .paused then (if s.fw.pauseEnd ≤ s.clk then s.install else s)
  else if s.ik.busy then s
  else
    let fw := s.fw
    { s with fw := { (fw : Firmware) with
      phase := .paused, fwstat := fwstatOf fw.fwstat 2 0, pauseEnd := s.clk + min 405000 (Config.pauseCycles (bitsOf fw.fwstat.toNat 63 32)) } }

/-- FIRMWARE_IMAGE_WRITE (R431, R434): the inactive slot holds the image. While an image is verified and installed the slot takes no other,
so that what is installed is what was verified (DESIGN CHOICE, log 38). -/
def State.writeImage (s : State) (bytes : List Byte) : State :=
  let st := bitsOf s.fw.fwstat.toNat 1 0
  if st == 1 || st == 2 then s else
  let slot : FwSlot := { bytes := bytes, version := (Config.imageField bytes 0).toNat }
  { s with fw := { s.fw with slots := vset s.fw.slots s.fw.spare slot } }

/-! ## Steward kernels (R332, R349, R433) -/

/-- The block a WAKE of caravan n of a steward core means: the steward kernel's that has such a caravan, else the standing one (log 3). -/
def State.wakeBlock (s : State) (core n : Nat) : Option Block :=
  let here := s.blocks.filter (fun x => x.core == core && (match x.car? n with | some c => c.status != .ended | none => false))
  (here.find? (fun x => x.launch != 0)) <|> here.head?

/-- WAKE (R332, R349): caravan c of steward core k goes on after its `halt`; one that does not wait there is left alone. -/
def State.wakeCaravan (s : State) (value : Word) : State :=
  let n := value.toNat % 32
  match (s.wakeBlock (256 + value.toNat / 32) n).filter (fun x => match x.car? n with | some c => c.status == .waiting .halt | none => false) with
  | none => s
  | some x =>
    let w := Who.car x.id n
    let s := (s.setPc w (s.pcOf w + 4) []).setStatus w .running
    s.commitAll x.id n

/-- STLAUNCH read as (R433): 0 idle, 1 running, 2 ended, 3 refused. -/
def State.setStlaunch (s : State) (core n : Nat) : State := s.modCore core (fun k => { k with stlaunch := n })

/-- The packet a start record stands for (R433): none where it breaks its limits. Its completion record is the record's own bytes 32 to 63,
which may hold anything before. -/
def State.startRecord (s : State) (value : Nat) : Option (Packet × Nat) :=
  let steward := fun (a : Nat) => inTiers a && s.ownerOf a == 0
  if value % 64 != 0 || 2 ^ 52 ≤ value || !(steward value) then none
  else
    let r := s.peekN (.glob value) 64
    let plv := fieldAt r 16 1
    let kdesc := fieldAt r 0 8
    if !(plv == 0 || plv == 2) || !(zeroBytes r 17 15) then none
    else match s.kernelDesc stewardVf 0 kdesc false 1 with
      | none => none
      | some d =>
        let l : Launch :=
          { id := s.nextId, vf := stewardVf, queue := 0, proc := 0, gang := false, eclass := 0, facnt := 0, farea := 0, cimg := fieldAt r 8 8
            grid := (1, 1, 1), kernels := [d.kernel], pipes := [], sigsem := 0, sigval := 0, compl := value + 32, chunks := [], unplaced := []
            total := 1, endedBlocks := [], dbarDone := Vector.replicate 4 0, records := 0, started := s.clk, energy := 0
            paused := false, silent := false, discarded := false }
        if d.kernel.s != 0 || 32 < d.kernel.lsz then none
        else some ({ gang := false, nk := 1, descs := [d], pipes := [], launch := l }, plv)

/-- STLAUNCH (R433): the kernel starts as one block of the core, or the start is refused. -/
def State.startKernel (s : State) (core : Nat) (value : Word) : State :=
  let refuse := s.setStlaunch core 3
  match s.startRecord value.toNat, s.vf? stewardVf with
  | some (p, plv), some f =>
    if s.blocks.any (fun x => x.core == core && x.launch != 0 && !x.ended) then refuse
    else match s.checkLaunch f p [] with
      | .bad _ _ _ _ => refuse
      | .good l words s' => match l.kernels[0]? with
        | some k =>
          if !(s'.roomOn core k) || (s'.withCode core l).isNone then refuse
          else
            let s' := words.foldl (fun st w => st.runtimeWrite l.vf l.proc w.1 (leBytes 8 w.2)) s'
            let x := s'.newBlock l 0 k 0 core plv
            ((s'.putBlock x 0 l).enterNow x).setStlaunch core 1
        | none => refuse
  | _, _ => refuse

/-! ## Power and heat (R438, R439) -/

/-- PWRCAP written, clamped to 800 to 2,600 (R438). -/
def State.setCap (s : State) (value : Word) : State :=
  { s with fw := { s.fw with pwrcap := BitVec.ofNat 32 (max 800 (min 2600 (value.toNat % 2 ^ 32))) } }

/-- THERMAL_TRIP (R439): the package is reset with REASON 7; FAILS does not count it, but where an image has let its 10 s pass without a READY
this reset counts its start (R435). -/
def State.thermalTrip (s : State) : State :=
  if !s.lateSlots.isEmpty then s.failWith (s.lateBootwhy 7) else s.packageReset ((s.fw.bootwhy &&& ~~~0x3F1) ||| 0x70)

/-- PACKAGE_RESET (R429): Package reset starts the boot ROM on steward core 0. -/
def execPackageReset (why : Nat) (s : State) : Out :=
  .next (s.resetPackage why)

/-- FIRMWARE_WATCHDOG (R430): The 2 s READY watchdog expires and the start counts as failed. -/
def execFirmwareWatchdog (s : State) : Out :=
  .next s.watchdogFires

/-- FWCTL_READY (R430): Firmware reports READY, clearing FAILS. -/
def execFwctlReady (s : State) : Out :=
  .next s.firmwareReady

/-- FWCTL_ACTIVATE (R434): Firmware requests activation and verification of the new image begins. -/
def execFwctlActivate (s : State) : Out :=
  .next s.activate

/-- ACTIVATION_VERIFIED (R434): Verification of the new image ends, failing or proceeding. -/
def execActivationVerified (s : State) : Out :=
  .next s.verified

/-- ACTIVATION_PAUSE (R434): After innkeeper commands drain, steward cores pause, the image is installed and resumed. -/
def execActivationPause (s : State) : Out :=
  .next s.pauseStep

/-- FIRMWARE_IMAGE_WRITE (R434): A PLDM firmware update over MCTP writes an image to the inactive slot. -/
def execFirmwareImageWrite (bytes : List (BitVec 8)) (s : State) : Out :=
  .next (s.writeImage bytes)

/-- WAKE (R349): A WAKE write resumes a halted steward caravan. -/
def execWake (value : BitVec 64) (s : State) : Out :=
  .next (s.wakeCaravan value)

/-- STLAUNCH (R433): A STLAUNCH write starts or refuses a steward kernel block. -/
def execStlaunch (core : Nat) (value : BitVec 64) (s : State) : Out :=
  if isSteward core && (s.core? core).isSome then .next (s.startKernel core value) else .fault .noUnit

/-- PWRCAP (R438): A write of the power cap, clamped to 800–2,600 W, sets the gating target. -/
def execPwrcap (value : BitVec 64) (s : State) : Out :=
  .next (s.setCap value)

/-- JUNCTION_HOT (R439): A die junction reaching 105 °C starts issue gating. -/
def execJunctionHot (die : Nat) (s : State) : Out :=
  if die < 9 then .next { s with gateHot := insertNew die s.gateHot } else .fault .noUnit

/-- JUNCTION_COOL (R439): The junction falling below 100 °C ends thermal gating. -/
def execJunctionCool (die : Nat) (s : State) : Out :=
  if die < 9 then .next { s with gateHot := s.gateHot.filter (· != die) } else .fault .noUnit

/-- THERMAL_TRIP (R439): A junction at 115 °C resets the package with REASON 7. -/
def execThermalTrip (s : State) : Out :=
  .next s.thermalTrip

end Sys2Proof.Machine
end

