-- ==== Sys2Proof/Machine/Lane.lean ====
section
/-! DEFINITION. Cross-lane instructions (R214 to R220) and the reduction tree (R141). -/
namespace Sys2Proof.Machine
open Sys2Proof

/-- The value at position p of a v register with sub-elements of width w (R214). -/
def posElem (x : VReg) (w p : Nat) : Nat := elem w (vget x (p / (64 / w))) (p % (64 / w))

/-- The contributing positions of a register: those of active threads, with their values, ascending. -/
def contributions (x : VReg) (w : Nat) (active : W32) : List (Nat × Nat) :=
  ((List.range (32 * (64 / w))).filter (fun p => bitAt active (p / (64 / w)))).map (fun p => (p, posElem x w p))

/-- What a reduction or scan combines with, on codes (R216): an identity and an operation. -/
structure Fold where
  unit : Nat
  op : Nat → Nat → Nat

/-- Floating addition on codes, rounded to nearest (R141). -/
def Fmt.plus (f : Fmt) (a b : Nat) : Nat := f.round 0 false 0 ((f.decode a).add false (f.decode b))
/-- Floating least or greatest of values where NaNs do not contribute (R217). -/
def Fmt.foldPick (f : Fmt) (greatest : Bool) (a b : Nat) : Nat := if (f.decode b).isNan then a else f.pick greatest a b

/-- The integer operations of a reduction or scan, with their identities (R216). -/
def intFold (op : IOp) (w : Nat) : Fold :=
  let ones := 2 ^ w - 1
  let unit := match op with
    | .minI => 2 ^ (w - 1) - 1 | .minN => ones | .maxI => 2 ^ (w - 1) | .maxN => 0 | .and => ones | _ => 0
  { unit := unit, op := fun a b => iop op w a b 0 }
/-- Floating least or greatest. -/
def pickFold (f : Fmt) (greatest : Bool) : Fold := { unit := f.infinity greatest, op := f.foldPick greatest }
/-- Floating addition: the identity is −0. -/
def addFold (f : Fmt) : Fold := { unit := f.zero true, op := f.plus }

/-- One level of the tree of R141: elements combined in pairs. -/
def treeLevel (op : Nat → Nat → Nat) : List Nat → List Nat
  | a :: b :: xs => op a b :: treeLevel op xs
  | xs => xs

/-- The single element after the tree's levels; fuel 8 covers 256 positions. -/
def tree (op : Nat → Nat → Nat) : Nat → List Nat → List Nat
  | 0, xs => xs
  | n + 1, xs => tree op n (treeLevel op xs)

/-- A result of several cycles (R184): it lands in every active thread at once. -/
def laneResult (o : Op) (d : Nat) (f : CRegs → W32 → VReg) : State → Out :=
  issue o fun w hs s => match w with
    | .seq _ => .ok s none false
    | .car b n => match s.car? b n with
      | none => .ok s none false
      | some c =>
        let m := c.active o.pr (hintNegp hs)
        if m = 0 then .ok s none false else .ok (s.setPend w (.v d) (.v m (f c.regs m))) none false

/-- Common fields of a cross-lane instruction of several cycles. -/
def opLane (word : W32) (st : BitVec 2) (pr : BitVec 3) (ok : Bool) (d a : BitVec 6) : Op :=
  { opV word st pr ok [.v d.toNat] [.v a.toNat] with fixed := false, multi := true }

/-- A reduction without an index (R217): floating sums along the tree with inactive positions at the identity, others in order. -/
def reduce (word : W32) (st : BitVec 2) (pr : BitVec 3) (ok : Bool) (w : Nat) (d a : BitVec 6) (fo : Fold) (along : Bool) : State → Out :=
  laneResult (opLane word st pr ok d a) d.toNat (fun x m =>
    let r := vget x.v a.toNat
    let v :=
      if along then (tree fo.op 8 ((List.range (32 * (64 / w))).map (fun p =>
        if bitAt m (p / (64 / w)) then posElem r w p else fo.unit))).headD fo.unit
      else (contributions r w m).foldl (fun acc p => fo.op acc p.2) fo.unit
    vtab fun _ => ofElems w (fun _ => v))

/-- An index reduction (R217): the least or greatest contributing value and the lowest position holding it. `below` orders codes;
`wide` makes the value 32 bits. -/
def reduceIdx (word : W32) (st : BitVec 2) (pr : BitVec 3) (ok : Bool) (w : Nat) (d a : BitVec 6) (unit : Nat)
    (counts : Nat → Bool) (better : Nat → Nat → Bool) (wide : Nat → Nat) : State → Out :=
  laneResult (opLane word st pr ok d a) d.toNat (fun x m =>
    let cs := (contributions (vget x.v a.toNat) w m).filter (fun p => counts p.2)
    let best := match cs with
      | [] => (2 ^ 32 - 1, unit)
      | p :: ps => ps.foldl (fun (acc q : Nat × Nat) => if better q.2 acc.2 then q else acc) p
    vtab fun _ => BitVec.ofNat 64 (wide best.2 + best.1 * 2 ^ 32))

/-- An integer index reduction. -/
def reduceIdxInt (word : W32) (f : FmtZDA) (op : IOp) : State → Out :=
  let w := widthOf f.sz.toNat
  let signed := op == .minI || op == .maxI
  let lt := fun a b => if signed then decide (sInt w a < sInt w b) else decide (a < b)
  reduceIdx word f.st f.pr (f.sz != 3) w f.d f.a (intFold op w).unit (fun _ => true)
    (fun a b => if op == .minI || op == .minN then lt a b else lt b a)
    (fun x => if signed then wrapInt 32 (sInt w x) else x)

/-- A floating index reduction: NaNs do not contribute. -/
def reduceIdxFlt (word : W32) (st : BitVec 2) (pr : BitVec 3) (ok : Bool) (fm : Fmt) (d a : BitVec 6) (greatest : Bool) : State → Out :=
  reduceIdx word st pr ok fm.width d a (fm.infinity greatest) (fun c => !(fm.decode c).isNan)
    (fun x y => if greatest then (fm.decode y).below (fm.decode x) else (fm.decode x).below (fm.decode y)) id

/-- A scan (R218): the running value at each position, before it where exclusive. -/
def scanList (op : Nat → Nat → Nat) (excl : Bool) : Nat → List (Bool × Nat) → List Nat
  | _, [] => []
  | acc, (live, x) :: xs =>
    let next := if live then op acc x else acc
    (if excl then acc else next) :: scanList op excl next xs

/-- A scan instruction (R218). -/
def scan (word : W32) (st : BitVec 2) (pr : BitVec 3) (ok : Bool) (w : Nat) (d a : BitVec 6) (excl : Bool) (fo : Fold) : State → Out :=
  laneResult (opLane word st pr ok d a) d.toNat (fun x m =>
    let r := vget x.v a.toNat
    let n := 64 / w
    let out := (scanList fo.op excl fo.unit
      ((List.range (32 * n)).map (fun p => (bitAt m (p / n), posElem r w p)))).toArray
    vtab fun t => ofElems w (fun k => out.getD (t * n + k) 0))

/-- `lmatch` (R220): the mask of active threads whose key matches. -/
def matchOp (word : W32) (st : BitVec 2) (pr : BitVec 3) (ok : Bool) (w : Nat) (d a : BitVec 6) (same : Nat → Nat → Bool) : State → Out :=
  laneResult (opLane word st pr ok d a) d.toNat (fun x m =>
    let key := fun t => elem w (vget (vget x.v a.toNat) t) 0
    vtab fun t => (maskOf fun j => bitAt m j && same (key t) (key j)).setWidth 64)

/-- Do two floating keys match (R220): +0 matches −0, every NaN matches every NaN? -/
def Fmt.sameKey (f : Fmt) (a b : Nat) : Bool :=
  ((f.decode a).isNan && (f.decode b).isNan) || floatCond 0 (f.decode a) (f.decode b)

/-- A move between positions (R215). -/
def exchange (o : Op) (d a w : Nat) (from_ : CRegs → Nat → Nat → Nat) : State → Out :=
  issue o (regEffect fun c hs x => x.wrV d (c.active o.pr (hintNegp hs))
    (vtab fun t => ofElems w (fun k => posElem (vget x.v a) w (from_ x (t * (64 / w) + k) c.plv % (32 * (64 / w))))))

/-- LXCH (R215): Each position reads A at the position named by B. -/
def execLxch (f : FmtR) (s : State) : Out :=
  exchange (opV (0x60000000 ||| encodeFmtR f) f.st f.pr true [.v f.d.toNat] [.v f.a.toNat, .v f.b.toNat]) f.d.toNat f.a.toNat (widthOf f.sz.toNat)
    (fun x p _ => posElem (vget x.v f.b.toNat) (widthOf f.sz.toNat) p) s

/-- LBCAST (R215): Broadcasts A at the position named by an s register. -/
def execLbcast (f : FmtR) (s : State) : Out :=
  exchange (opV (0x62000000 ||| encodeFmtR f) f.st f.pr true [.v f.d.toNat] [.v f.a.toNat, .u f.b.toNat]) f.d.toNat f.a.toNat (widthOf f.sz.toNat)
    (fun x _ plv => (x.rd plv f.b.toNat).toNat) s

/-- LRED_ADD (R217): Cross-lane integer add reduction. -/
def execLredAdd (f : FmtZDA) (s : State) : Out :=
  reduce (0x64000000 ||| encodeFmtZDA f) f.st f.pr true (widthOf f.sz.toNat) f.d f.a (intFold .add (widthOf f.sz.toNat)) false s

/-- LRED_MIN_I (R217): Cross-lane signed minimum reduction. -/
def execLredMinI (f : FmtZDA) (s : State) : Out :=
  reduce (0x64000001 ||| encodeFmtZDA f) f.st f.pr true (widthOf f.sz.toNat) f.d f.a (intFold .minI (widthOf f.sz.toNat)) false s

/-- LRED_MIN_N (R217): Cross-lane unsigned minimum reduction. -/
def execLredMinN (f : FmtZDA) (s : State) : Out :=
  reduce (0x64000002 ||| encodeFmtZDA f) f.st f.pr true (widthOf f.sz.toNat) f.d f.a (intFold .minN (widthOf f.sz.toNat)) false s

/-- LRED_MAX_I (R217): Cross-lane signed maximum reduction. -/
def execLredMaxI (f : FmtZDA) (s : State) : Out :=
  reduce (0x64000003 ||| encodeFmtZDA f) f.st f.pr true (widthOf f.sz.toNat) f.d f.a (intFold .maxI (widthOf f.sz.toNat)) false s

/-- LRED_MAX_N (R217): Cross-lane unsigned maximum reduction. -/
def execLredMaxN (f : FmtZDA) (s : State) : Out :=
  reduce (0x64000004 ||| encodeFmtZDA f) f.st f.pr true (widthOf f.sz.toNat) f.d f.a (intFold .maxN (widthOf f.sz.toNat)) false s

/-- LRED_AND (R217): Cross-lane and reduction. -/
def execLredAnd (f : FmtZDA) (s : State) : Out :=
  reduce (0x64000005 ||| encodeFmtZDA f) f.st f.pr true (widthOf f.sz.toNat) f.d f.a (intFold .and (widthOf f.sz.toNat)) false s

/-- LRED_OR (R217): Cross-lane or reduction. -/
def execLredOr (f : FmtZDA) (s : State) : Out :=
  reduce (0x64000006 ||| encodeFmtZDA f) f.st f.pr true (widthOf f.sz.toNat) f.d f.a (intFold .or (widthOf f.sz.toNat)) false s

/-- LRED_XOR (R217): Cross-lane exclusive-or reduction. -/
def execLredXor (f : FmtZDA) (s : State) : Out :=
  reduce (0x64000007 ||| encodeFmtZDA f) f.st f.pr true (widthOf f.sz.toNat) f.d f.a (intFold .xor (widthOf f.sz.toNat)) false s

/-- LRED_MIN_IDX_I (R217): Cross-lane signed minimum with lowest position. -/
def execLredMinIdxI (f : FmtZDA) (s : State) : Out :=
  reduceIdxInt (0x64000008 ||| encodeFmtZDA f) f .minI s

/-- LRED_MIN_IDX_N (R217): Cross-lane unsigned minimum with lowest position. -/
def execLredMinIdxN (f : FmtZDA) (s : State) : Out :=
  reduceIdxInt (0x64000009 ||| encodeFmtZDA f) f .minN s

/-- LRED_MAX_IDX_I (R217): Cross-lane signed maximum with lowest position. -/
def execLredMaxIdxI (f : FmtZDA) (s : State) : Out :=
  reduceIdxInt (0x6400000A ||| encodeFmtZDA f) f .maxI s

/-- LRED_MAX_IDX_N (R217): Cross-lane unsigned maximum with lowest position. -/
def execLredMaxIdxN (f : FmtZDA) (s : State) : Out :=
  reduceIdxInt (0x6400000B ||| encodeFmtZDA f) f .maxN s

/-- LRED_FADD (R141): Cross-lane floating add along the fixed tree. -/
def execLredFadd (f : FmtZDA) (s : State) : Out :=
  reduce (0x64000010 ||| encodeFmtZDA f) f.st f.pr (f.sz != 0) (widthOf f.sz.toNat) f.d f.a (addFold (.ofSize f.sz.toNat)) true s

/-- LRED_FMIN (R217): Cross-lane floating minimum. -/
def execLredFmin (f : FmtZDA) (s : State) : Out :=
  reduce (0x64000011 ||| encodeFmtZDA f) f.st f.pr (f.sz != 0) (widthOf f.sz.toNat) f.d f.a (pickFold (.ofSize f.sz.toNat) false) false s

/-- LRED_FMAX (R217): Cross-lane floating maximum. -/
def execLredFmax (f : FmtZDA) (s : State) : Out :=
  reduce (0x64000012 ||| encodeFmtZDA f) f.st f.pr (f.sz != 0) (widthOf f.sz.toNat) f.d f.a (pickFold (.ofSize f.sz.toNat) true) false s

/-- LRED_FMIN_IDX (R217): Cross-lane floating minimum with position. -/
def execLredFminIdx (f : FmtZDA) (s : State) : Out :=
  reduceIdxFlt (0x64000013 ||| encodeFmtZDA f) f.st f.pr (f.sz != 0 && f.sz != 3) (.ofSize f.sz.toNat) f.d f.a false s

/-- LRED_FMAX_IDX (R217): Cross-lane floating maximum with position. -/
def execLredFmaxIdx (f : FmtZDA) (s : State) : Out :=
  reduceIdxFlt (0x64000014 ||| encodeFmtZDA f) f.st f.pr (f.sz != 0 && f.sz != 3) (.ofSize f.sz.toNat) f.d f.a true s

/-- LRED_FADD_BF16 (R141): Cross-lane bf16 add along the fixed tree. -/
def execLredFaddBf16 (f : FmtDA) (s : State) : Out :=
  reduce (0x64040018 ||| encodeFmtDA f) f.st f.pr true 16 f.d f.a (addFold .bf16) true s

/-- LRED_FMIN_BF16 (R217): Cross-lane bf16 minimum. -/
def execLredFminBf16 (f : FmtDA) (s : State) : Out :=
  reduce (0x64040019 ||| encodeFmtDA f) f.st f.pr true 16 f.d f.a (pickFold .bf16 false) false s

/-- LRED_FMAX_BF16 (R217): Cross-lane bf16 maximum. -/
def execLredFmaxBf16 (f : FmtDA) (s : State) : Out :=
  reduce (0x6404001A ||| encodeFmtDA f) f.st f.pr true 16 f.d f.a (pickFold .bf16 true) false s

/-- LRED_FMIN_IDX_BF16 (R217): Cross-lane bf16 minimum with position. -/
def execLredFminIdxBf16 (f : FmtDA) (s : State) : Out :=
  reduceIdxFlt (0x6404001B ||| encodeFmtDA f) f.st f.pr true .bf16 f.d f.a false s

/-- LRED_FMAX_IDX_BF16 (R217): Cross-lane bf16 maximum with position. -/
def execLredFmaxIdxBf16 (f : FmtDA) (s : State) : Out :=
  reduceIdxFlt (0x6404001C ||| encodeFmtDA f) f.st f.pr true .bf16 f.d f.a true s

/-- LSCAN_ADD (R218): Cross-lane inclusive or exclusive add scan. -/
def execLscanAdd (f : FmtScan) (s : State) : Out :=
  scan (0x66000000 ||| encodeFmtScan f) f.st f.pr true (widthOf f.sz.toNat) f.d f.a (f.x == 1) (intFold .add (widthOf f.sz.toNat)) s

/-- LSCAN_MIN_I (R218): Cross-lane signed minimum scan. -/
def execLscanMinI (f : FmtScan) (s : State) : Out :=
  scan (0x66000001 ||| encodeFmtScan f) f.st f.pr true (widthOf f.sz.toNat) f.d f.a (f.x == 1) (intFold .minI (widthOf f.sz.toNat)) s

/-- LSCAN_MIN_N (R218): Cross-lane unsigned minimum scan. -/
def execLscanMinN (f : FmtScan) (s : State) : Out :=
  scan (0x66000002 ||| encodeFmtScan f) f.st f.pr true (widthOf f.sz.toNat) f.d f.a (f.x == 1) (intFold .minN (widthOf f.sz.toNat)) s

/-- LSCAN_MAX_I (R218): Cross-lane signed maximum scan. -/
def execLscanMaxI (f : FmtScan) (s : State) : Out :=
  scan (0x66000003 ||| encodeFmtScan f) f.st f.pr true (widthOf f.sz.toNat) f.d f.a (f.x == 1) (intFold .maxI (widthOf f.sz.toNat)) s

/-- LSCAN_MAX_N (R218): Cross-lane unsigned maximum scan. -/
def execLscanMaxN (f : FmtScan) (s : State) : Out :=
  scan (0x66000004 ||| encodeFmtScan f) f.st f.pr true (widthOf f.sz.toNat) f.d f.a (f.x == 1) (intFold .maxN (widthOf f.sz.toNat)) s

/-- LSCAN_AND (R218): Cross-lane and scan. -/
def execLscanAnd (f : FmtScan) (s : State) : Out :=
  scan (0x66000005 ||| encodeFmtScan f) f.st f.pr true (widthOf f.sz.toNat) f.d f.a (f.x == 1) (intFold .and (widthOf f.sz.toNat)) s

/-- LSCAN_OR (R218): Cross-lane or scan. -/
def execLscanOr (f : FmtScan) (s : State) : Out :=
  scan (0x66000006 ||| encodeFmtScan f) f.st f.pr true (widthOf f.sz.toNat) f.d f.a (f.x == 1) (intFold .or (widthOf f.sz.toNat)) s

/-- LSCAN_XOR (R218): Cross-lane exclusive-or scan. -/
def execLscanXor (f : FmtScan) (s : State) : Out :=
  scan (0x66000007 ||| encodeFmtScan f) f.st f.pr true (widthOf f.sz.toNat) f.d f.a (f.x == 1) (intFold .xor (widthOf f.sz.toNat)) s

/-- LSCAN_FADD (R218): Cross-lane floating add scan, rounding each step. -/
def execLscanFadd (f : FmtScan) (s : State) : Out :=
  scan (0x66000010 ||| encodeFmtScan f) f.st f.pr (f.sz != 0) (widthOf f.sz.toNat) f.d f.a (f.x == 1) (addFold (.ofSize f.sz.toNat)) s

/-- LSCAN_FMIN (R218): Cross-lane floating minimum scan. -/
def execLscanFmin (f : FmtScan) (s : State) : Out :=
  scan (0x66000011 ||| encodeFmtScan f) f.st f.pr (f.sz != 0) (widthOf f.sz.toNat) f.d f.a (f.x == 1) (pickFold (.ofSize f.sz.toNat) false) s

/-- LSCAN_FMAX (R218): Cross-lane floating maximum scan. -/
def execLscanFmax (f : FmtScan) (s : State) : Out :=
  scan (0x66000012 ||| encodeFmtScan f) f.st f.pr (f.sz != 0) (widthOf f.sz.toNat) f.d f.a (f.x == 1) (pickFold (.ofSize f.sz.toNat) true) s

/-- LSCAN_FADD_BF16 (R218): Cross-lane bf16 add scan. -/
def execLscanFaddBf16 (f : FmtScanB) (s : State) : Out :=
  scan (0x66040018 ||| encodeFmtScanB f) f.st f.pr true 16 f.d f.a (f.x == 1) (addFold .bf16) s

/-- LSCAN_FMIN_BF16 (R218): Cross-lane bf16 minimum scan. -/
def execLscanFminBf16 (f : FmtScanB) (s : State) : Out :=
  scan (0x66040019 ||| encodeFmtScanB f) f.st f.pr true 16 f.d f.a (f.x == 1) (pickFold .bf16 false) s

/-- LSCAN_FMAX_BF16 (R218): Cross-lane bf16 maximum scan. -/
def execLscanFmaxBf16 (f : FmtScanB) (s : State) : Out :=
  scan (0x6604001A ||| encodeFmtScanB f) f.st f.pr true 16 f.d f.a (f.x == 1) (pickFold .bf16 true) s

/-- LBALLOT (R219): Writes the mask of active threads whose predicate is true. -/
def execLballot (f : FmtDA) (s : State) : Out :=
  issue (opV (0x680C0000 ||| encodeFmtDA f) f.st f.pr true [.v f.d.toNat] [.p f.a.toNat]) (regEffect fun c hs x =>
    let m := c.active f.pr.toNat (hintNegp hs)
    x.wrV f.d.toNat m (vtab fun _ => (m &&& x.rdP f.a.toNat).setWidth 64)) s

/-- LMATCH (R220): Mask of active threads whose key bit pattern matches. -/
def execLmatch (f : FmtZDA) (s : State) : Out :=
  matchOp (0x6A000000 ||| encodeFmtZDA f) f.st f.pr true (widthOf f.sz.toNat) f.d f.a (fun a b => a == b) s

/-- LMATCH_F (R220): Mask of active threads whose f16/f32/f64 key value matches. -/
def execLmatchF (f : FmtZDA) (s : State) : Out :=
  matchOp (0x6A000001 ||| encodeFmtZDA f) f.st f.pr (f.sz != 0) (widthOf f.sz.toNat) f.d f.a (Fmt.ofSize f.sz.toNat).sameKey s

/-- LMATCH_BF16 (R220): Mask of active threads whose bf16 key value matches. -/
def execLmatchBf16 (f : FmtDA) (s : State) : Out :=
  matchOp (0x6A040002 ||| encodeFmtDA f) f.st f.pr true 16 f.d f.a Fmt.bf16.sameKey s

/-- LCOUNT (R219): Counts lower active threads whose predicate is true. -/
def execLcount (f : FmtDA) (s : State) : Out :=
  issue (opV (0x6C0C0000 ||| encodeFmtDA f) f.st f.pr true [.v f.d.toNat] [.p f.a.toNat]) (regEffect fun c hs x =>
    let m := c.active f.pr.toNat (hintNegp hs)
    x.wrV f.d.toNat m (vtab fun t => BitVec.ofNat 64 ((List.range t).countP (bitAt (m &&& x.rdP f.a.toNat))))) s

end Sys2Proof.Machine
end

