-- ==== Sys2Proof/Machine/Special.lean ====
section
/-! DEFINITION. Special functions of f32 (R203, R204): the correctly rounded result. Exact quotients and roots are rounded with
a sticky bit; the others are bounded on both sides by rational series, and where both bounds round to one value that value is
the result; where they do not, it is the free value `Config.specialF32` (log 9). -/
namespace Sys2Proof.Machine
open Sys2Proof

/-- Bits after the point in the bounds of this file. -/
def places : Nat := 320
/-- One at those places. -/
def fixOne : Nat := 2 ^ places
/-- π × 2^320, rounded down. -/
def fixPi : Nat := 6710401180212168915155840974220003240804194089427148950727106424351713218671805380099500388914039
/-- ln 2 × 2^320, rounded down. -/
def fixLn2 : Nat := 1480553391661173448385607439722553250922680800745876974795605978609098082859138712941075737848984
/-- What the truncations of a series of this file add up to at most, in units of 2^-320. -/
def slack : Nat := 4096

/-- A value rounded to f32 to nearest, no saturation. -/
def toF32 (x : Num) : Nat := Fmt.f32.round 0 false 0 x

/-- A quotient or root with a sticky bit below it: value × 2^e. -/
def sticky (neg : Bool) (v : Nat) (exact : Bool) (e : Int) : Num := .fin neg (2 * v + (if exact then 0 else 1)) (e - 1)

/-- 1 / x of a finite nonzero x. -/
def recip (neg : Bool) (m : Nat) (e : Int) : Num := let n := 2 ^ 64; sticky neg (n / m) (n % m == 0) (-64 - e)

/-- √x of a finite positive x. -/
def root (m : Nat) (e : Int) : Num :=
  let odd := e % 2 == 1
  let m' := (if odd then 2 * m else m) * 2 ^ 80
  let e' := (if odd then e - 1 else e) - 80
  let r := isqrt m'
  sticky false r (r * r == m') (e' / 2)

/-- 1 / √x of a finite positive x. -/
def recipRoot (m : Nat) (e : Int) : Num :=
  let odd := e % 2 == 1
  let m' := if odd then 2 * m else m
  let e' := if odd then e - 1 else e
  let n := 2 ^ 160
  let r := isqrt (n / m')
  sticky false r (r * r * m' == n) (-80 - e' / 2)

/-- The terms x^k / k!, k from 1, of a series for x at fixed places. -/
def terms (x : Nat) : Nat → Nat → Nat → List Nat
  | 0, _, _ => []
  | fuel + 1, k, t => let u := t * x / (fixOne * k); u :: terms x fuel (k + 1) u

/-- e^x − 1 for 0 ≤ x < 32 at fixed places, rounded down. -/
def expm1 (x : Nat) : Nat := (terms x 400 1 fixOne).foldl (· + ·) 0

/-- sin x for 0 ≤ x < 2 at fixed places, within the slack. -/
def sinFix (x : Nat) : Int :=
  ((terms x 120 1 fixOne).zipIdx).foldl (fun (acc : Int) p =>
    if p.2 % 4 = 0 then acc + p.1 else if p.2 % 4 = 2 then acc - p.1 else acc) 0

/-- ln y for y from 1 to 2 at fixed places, rounded down: 2 artanh ((y − 1) / (y + 1)). -/
def lnFix (y : Nat) : Nat :=
  let z := (y - fixOne) * fixOne / (y + fixOne)
  let sq := z * z / fixOne
  2 * ((List.range 110).foldl (fun (p : Nat × Nat) i => (p.1 * sq / fixOne, p.2 + p.1 / (2 * i + 1))) (z, 0)).2

/-- A bounded value: where both bounds round alike, that; else free. -/
def settle (op : Nat) (x : Nat) (lo hi : Num) : Nat :=
  if toF32 lo = toF32 hi then toF32 lo else (Config.specialF32 op (BitVec.ofNat 32 x)).toNat

/-- A finite value's magnitude at fixed places, exact where e is at least −320. -/
def fixed (m : Nat) (e : Int) : Nat := (units m e (-(places : Int))).1

/-- 2^x (R204): the integer part is exact; 2^f is e^(f ln 2). -/
def ex2Code (c : Nat) (neg : Bool) (m : Nat) (e : Int) : Nat :=
  if m = 0 then toF32 (.fin false 1 0)
  else if 10 ≤ (Nat.log2 m : Int) + e then toF32 (if neg then .fin false 1 (-400) else .fin false 1 400)
  else
    let y : Int := if neg then -(fixed m e : Int) else fixed m e
    let i := y / fixOne
    let f := (y % fixOne).toNat
    if f = 0 then toF32 (.fin false 1 i)
    else
      let v := fixOne + expm1 (f * fixLn2 / fixOne)
      settle 3 c (.fin false v (i - places)) (.fin false (v + slack) (i - places))

/-- log2 x of a finite positive x (R204). -/
def lg2Code (c m : Nat) (e : Int) : Nat :=
  let lg := Nat.log2 m
  let k : Int := lg + e
  if m = 2 ^ lg then toF32 (Num.ofInt k 0)
  else
    let l := lnFix (m * 2 ^ (places - lg))
    let lo : Int := ((l * fixOne / (fixLn2 + 1) : Nat) : Int)
    let hi : Int := (((l + slack) * fixOne / fixLn2 + 1 : Nat) : Int)
    settle 4 c (Num.ofInt (k * fixOne + lo) (-(places : Int))) (Num.ofInt (k * fixOne + hi) (-(places : Int)))

/-- sin(π r) for r = y / 2^320, any integer y; an exact zero has the sign given (R204). -/
def sinpiOf (op c : Nat) (y : Int) (zeroNeg : Bool) : Nat :=
  let r := (y % (2 * fixOne)).toNat
  let neg := fixOne ≤ r
  let h := r % fixOne
  let g := if 2 * h ≤ fixOne then h else fixOne - h
  if g = 0 then toF32 (.fin zeroNeg 0 0)
  else if 2 * g = fixOne then toF32 (.fin neg 1 0)
  else
    let v := sinFix (g * fixPi / fixOne)
    settle op c (.fin neg (v - slack).toNat (-(places : Int))) (.fin neg (v + slack).toNat (-(places : Int)))

/-- tanh of a finite value (R204): (e^2x − 1) / (e^2x + 1); beyond 16 it lies between 1 − 2^-40 and 1. -/
def tanhCode (c : Nat) (neg : Bool) (m : Nat) (e : Int) : Nat :=
  if m = 0 then toF32 (.fin neg 0 0)
  else if 4 ≤ (Nat.log2 m : Int) + e then toF32 (.fin neg (2 ^ 40 - 1) (-40))
  else
    let v := expm1 (2 * fixed m e)
    let w := v + slack * 2 ^ 50
    settle 7 c (.fin neg (v * fixOne / (w + 2 * fixOne)) (-(places : Int))) (.fin neg (w * fixOne / (v + 2 * fixOne) + 1) (-(places : Int)))

/-- A special function of an f32 code (R204): 0 rcp, 1 rsq, 2 sqrt, 3 ex2, 4 lg2, 5 sinpi, 6 cospi, 7 tanh. -/
def specialCode (op c : Nat) : Nat :=
  let ninf := Fmt.f32.infinity true
  let pinf := Fmt.f32.infinity false
  let bad := Fmt.f32.nanCode
  match op, Fmt.f32.decode c with
  | _, .nan => bad
  | 0, .inf neg => Fmt.f32.zero neg
  | 0, .fin neg m e => if m = 0 then Fmt.f32.infinity neg else toF32 (recip neg m e)
  | 1, .inf neg => if neg then bad else 0
  | 1, .fin neg m e => if m = 0 then Fmt.f32.infinity neg else if neg then bad else toF32 (recipRoot m e)
  | 2, .inf neg => if neg then bad else pinf
  | 2, .fin neg m e => if m = 0 then Fmt.f32.zero neg else if neg then bad else toF32 (root m e)
  | 3, .inf neg => if neg then 0 else pinf
  | 3, .fin neg m e => ex2Code c neg m e
  | 4, .inf neg => if neg then bad else pinf
  | 4, .fin neg m e => if m = 0 then ninf else if neg then bad else lg2Code c m e
  | 5, .inf _ => bad
  | 5, .fin neg m e => sinpiOf 5 c (if neg then -(fixed m e : Int) else fixed m e) neg
  | 6, .inf _ => bad
  | 6, .fin _ m e => sinpiOf 6 c (fixed m e + (fixOne / 2 : Nat)) false
  | _, .inf neg => toF32 (.fin neg 1 0)
  | _, .fin neg m e => tanhCode c neg m e

/-- A special function of both sub-elements of each active thread, scoreboarded (R182, R203). -/
def specialOp (word : W32) (f : FmtDA) (op : Nat) : State → Out :=
  vecOp { opF word f.st f.pr true [.v f.d.toNat] [.v f.a.toNat] with fixed := false } f.d.toNat f.a.toNat f.a.toNat
    (fun x _ _ => ofElems 32 (fun k => specialCode op (elem 32 x k)))

/-- RCP (R204): Correctly rounded f32 reciprocal. -/
def execRcp (f : FmtDA) (s : State) : Out :=
  specialOp (0x50080000 ||| encodeFmtDA f) f 0 s

/-- RSQ (R204): Correctly rounded f32 reciprocal square root. -/
def execRsq (f : FmtDA) (s : State) : Out :=
  specialOp (0x50080001 ||| encodeFmtDA f) f 1 s

/-- SQRT (R204): Correctly rounded f32 square root. -/
def execSqrt (f : FmtDA) (s : State) : Out :=
  specialOp (0x50080002 ||| encodeFmtDA f) f 2 s

/-- EX2 (R204): Correctly rounded f32 power of two. -/
def execEx2 (f : FmtDA) (s : State) : Out :=
  specialOp (0x50080003 ||| encodeFmtDA f) f 3 s

/-- LG2 (R204): Correctly rounded f32 base-2 logarithm. -/
def execLg2 (f : FmtDA) (s : State) : Out :=
  specialOp (0x50080004 ||| encodeFmtDA f) f 4 s

/-- SINPI (R204): Correctly rounded f32 sin(πx). -/
def execSinpi (f : FmtDA) (s : State) : Out :=
  specialOp (0x50080005 ||| encodeFmtDA f) f 5 s

/-- COSPI (R204): Correctly rounded f32 cos(πx). -/
def execCospi (f : FmtDA) (s : State) : Out :=
  specialOp (0x50080006 ||| encodeFmtDA f) f 6 s

/-- TANH (R204): Correctly rounded f32 hyperbolic tangent. -/
def execTanh (f : FmtDA) (s : State) : Out :=
  specialOp (0x50080007 ||| encodeFmtDA f) f 7 s

end Sys2Proof.Machine
end

