-- ==== Sys2Proof/Machine/Uniform.lean ====
section
/-! DEFINITION. Uniform scalar instructions, on s registers or the sequencer's g registers (R60, R194 to R197). -/
namespace Sys2Proof.Machine
open Sys2Proof

/-- A two-address operation of opcode 0x38 (R195): d is the first source too. -/
def uniBin (word : W32) (st : BitVec 2) (pr : BitVec 3) (sz : Nat) (d a : BitVec 6) (op : IOp) : State → Out :=
  uniOp (opU word st pr true [.u d.toNat] [.u d.toNat, .u a.toNat]) d.toNat
    (fun r _ => iopWord op (widthOf sz) (r d.toNat) (r a.toNat) (r d.toNat))

/-- An I-format operation on all 64 bits with V (R194). -/
def uniImm (word : W32) (f : FmtI) (g : Nat → Nat → Nat) : State → Out :=
  uniOp { opU word f.st f.pr true [.u f.d.toNat] [.u f.a.toNat] with imm := true } f.d.toNat
    (fun r hs => BitVec.ofNat 64 (g (r f.a.toNat).toNat (immValue hs f.i.toNat false).toNat))

/-- A unary uniform operation (R191). -/
def uniUn (word : W32) (st : BitVec 2) (pr : BitVec 3) (sz : Nat) (d a : BitVec 6) (op : UOp) : State → Out :=
  uniOp (opU word st pr true [.u d.toNat] [.u a.toNat]) d.toNat (fun r _ => uopWord op (widthOf sz) (r a.toNat))

/-- A uniform pack (R192). -/
def uniPack (word : W32) (f : FmtZDA) (signed high : Bool) : State → Out :=
  uniOp (opU word f.st f.pr (f.sz != 0) [.u f.d.toNat] [.u f.a.toNat, .u f.d.toNat]) f.d.toNat
    (fun r _ => packHalf signed high (widthOf f.sz.toNat) (r f.a.toNat) (r f.d.toNat))

/-- A uniform unpack (R192). -/
def uniUnpack (word : W32) (f : FmtZDA) (signed high : Bool) : State → Out :=
  uniOp (opU word f.st f.pr (f.sz != 0) [.u f.d.toNat] [.u f.a.toNat]) f.d.toNat
    (fun r _ => unpackHalf signed high (widthOf f.sz.toNat) (r f.a.toNat))

/-- The grid shape an identity read sees: a gang's kernel is a grid of BLOCKS by 1 by 1 (R60). -/
def gridOf (l : Launch) (kernel : Nat) : Nat × Nat × Nat :=
  if l.gang then (match l.kernels[kernel]? with | some k => (k.blocks, 1, 1) | none => (0, 1, 1)) else l.grid

/-- The value an identity selector names, none for a selector outside the table (R60). A steward core is in no slice, and there DIE, NDIE
and CORE read 0 (DESIGN CHOICE, log 3: the spec is silent). -/
def State.identity (s : State) (w : Who) (sel : Nat) : Option Nat :=
  match s.block? (blkOf w), s.launchOf w with
  | some x, some l =>
    let (gx, gy, gz) := gridOf l x.kernel
    let v := s.vf? l.vf
    let ones := 2 ^ 64 - 1
    let slot := fun (base : Nat) => x.convoys.getD (sel - base) none
    let n := match w with | .car _ n => n | .seq _ => 32
    if sel = 0x00 then some x.lin
    else if sel = 0x01 then some (gx * gy * gz)
    else if sel = 0x02 then some (x.lin % gx)
    else if sel = 0x03 then some (x.lin / gx % gy)
    else if sel = 0x04 then some (x.lin / gx / gy)
    else if sel = 0x05 then some gx
    else if sel = 0x06 then some gy
    else if sel = 0x07 then some gz
    else if sel = 0x08 then some (match v with | some v => (v.dies.findIdx? (· == dieOf x.core)).getD 0 | none => 0)
    else if sel = 0x09 then some (match v with | some v => v.dies.length | none => 1)
    else if sel = 0x0A then some (match v with
      | some v => ((v.dense.find? (fun e => e.2 == x.core)).map (·.1)).getD 0
      | none => x.core - 256)
    else if sel = 0x0B then some n
    else if sel = 0x0C then some (roleOf s w)
    else if sel = 0x0D then some (match w with | .car _ n => if n < x.porters then n else n - x.porters | .seq _ => 0)
    else if sel = 0x0E then some x.porters
    else if sel = 0x0F then some x.vectors
    else if 0x10 ≤ sel ∧ sel ≤ 0x13 then some (match slot 0x10 with | some c => c.index | none => ones)
    else if 0x14 ≤ sel ∧ sel ≤ 0x17 then some (match slot 0x14 with | some c => c.rank | none => ones)
    else if 0x18 ≤ sel ∧ sel ≤ 0x1B then some (match slot 0x18 with | some c => c.members.length | none => 0)
    else if sel = 0x1C then some x.kernel
    else if sel = 0x1D then some (match w with | .car b n => (match s.car? b n with | some c => c.quarter | none => 0) | .seq _ => 4)
    else none
  | _, _ => none

/-- Is a selector in the table of R60? -/
def selectorOk (sel : Nat) : Bool := sel ≤ 0x1D

/-- ADD_U (R195): Uniform two-address add, D := D + A. -/
def execAddU (f : FmtZDA) (s : State) : Out :=
  uniBin (0x70000000 ||| encodeFmtZDA f) f.st f.pr f.sz.toNat f.d f.a .add s

/-- SUB_U (R195): Uniform two-address subtract. -/
def execSubU (f : FmtZDA) (s : State) : Out :=
  uniBin (0x70000001 ||| encodeFmtZDA f) f.st f.pr f.sz.toNat f.d f.a .sub s

/-- MUL_U (R195): Uniform two-address multiply, low half. -/
def execMulU (f : FmtZDA) (s : State) : Out :=
  uniBin (0x70000002 ||| encodeFmtZDA f) f.st f.pr f.sz.toNat f.d f.a .mul s

/-- MULH_I_U (R195): Uniform signed multiply high. -/
def execMulhIU (f : FmtZDA) (s : State) : Out :=
  uniBin (0x70000003 ||| encodeFmtZDA f) f.st f.pr f.sz.toNat f.d f.a .mulhI s

/-- MULH_N_U (R195): Uniform unsigned multiply high. -/
def execMulhNU (f : FmtZDA) (s : State) : Out :=
  uniBin (0x70000004 ||| encodeFmtZDA f) f.st f.pr f.sz.toNat f.d f.a .mulhN s

/-- MAD_U (R195): Uniform two-address multiply-add D × A + D. -/
def execMadU (f : FmtZDA) (s : State) : Out :=
  uniBin (0x70000005 ||| encodeFmtZDA f) f.st f.pr f.sz.toNat f.d f.a .mad s

/-- SAD_U (R195): Uniform two-address absolute difference accumulate. -/
def execSadU (f : FmtZDA) (s : State) : Out :=
  uniBin (0x70000006 ||| encodeFmtZDA f) f.st f.pr f.sz.toNat f.d f.a .sad s

/-- MIN_I_U (R195): Uniform signed minimum. -/
def execMinIU (f : FmtZDA) (s : State) : Out :=
  uniBin (0x70000007 ||| encodeFmtZDA f) f.st f.pr f.sz.toNat f.d f.a .minI s

/-- MIN_N_U (R195): Uniform unsigned minimum. -/
def execMinNU (f : FmtZDA) (s : State) : Out :=
  uniBin (0x70000008 ||| encodeFmtZDA f) f.st f.pr f.sz.toNat f.d f.a .minN s

/-- MAX_I_U (R195): Uniform signed maximum. -/
def execMaxIU (f : FmtZDA) (s : State) : Out :=
  uniBin (0x70000009 ||| encodeFmtZDA f) f.st f.pr f.sz.toNat f.d f.a .maxI s

/-- MAX_N_U (R195): Uniform unsigned maximum. -/
def execMaxNU (f : FmtZDA) (s : State) : Out :=
  uniBin (0x7000000A ||| encodeFmtZDA f) f.st f.pr f.sz.toNat f.d f.a .maxN s

/-- AND_U (R195): Uniform two-address bitwise and. -/
def execAndU (f : FmtDA) (s : State) : Out :=
  uniBin (0x700C000B ||| encodeFmtDA f) f.st f.pr 3 f.d f.a .and s

/-- OR_U (R195): Uniform two-address bitwise or. -/
def execOrU (f : FmtDA) (s : State) : Out :=
  uniBin (0x700C000C ||| encodeFmtDA f) f.st f.pr 3 f.d f.a .or s

/-- XOR_U (R195): Uniform two-address exclusive or. -/
def execXorU (f : FmtDA) (s : State) : Out :=
  uniBin (0x700C000D ||| encodeFmtDA f) f.st f.pr 3 f.d f.a .xor s

/-- SHL_U (R195): Uniform two-address shift left. -/
def execShlU (f : FmtZDA) (s : State) : Out :=
  uniBin (0x7000000E ||| encodeFmtZDA f) f.st f.pr f.sz.toNat f.d f.a .shl s

/-- SHR_N_U (R195): Uniform two-address logical shift right. -/
def execShrNU (f : FmtZDA) (s : State) : Out :=
  uniBin (0x7000000F ||| encodeFmtZDA f) f.st f.pr f.sz.toNat f.d f.a .shrN s

/-- SHR_I_U (R195): Uniform two-address arithmetic shift right. -/
def execShrIU (f : FmtZDA) (s : State) : Out :=
  uniBin (0x70000010 ||| encodeFmtZDA f) f.st f.pr f.sz.toNat f.d f.a .shrI s

/-- ROTL_U (R195): Uniform two-address rotate left. -/
def execRotlU (f : FmtZDA) (s : State) : Out :=
  uniBin (0x70000011 ||| encodeFmtZDA f) f.st f.pr f.sz.toNat f.d f.a .rotl s

/-- BFX_U (R195): Uniform two-address bit-field extract. -/
def execBfxU (f : FmtZ1DA) (s : State) : Out :=
  uniBin (0x70080012 ||| encodeFmtZ1DA f) f.st f.pr (2 + f.z1.toNat) f.d f.a .bfx s

/-- LEA_U (R195): Uniform address arithmetic D := D + A × 2^sz2. -/
def execLeaU (f : FmtZDA) (s : State) : Out :=
  uniOp (opU (0x70000016 ||| encodeFmtZDA f) f.st f.pr true [.u f.d.toNat] [.u f.d.toNat, .u f.a.toNat]) f.d.toNat
    (fun r _ => r f.d.toNat + r f.a.toNat * BitVec.ofNat 64 (2 ^ f.sz.toNat)) s

/-- ADD_IMM (R194): Uniform add of an immediate. -/
def execAddImm (f : FmtI) (s : State) : Out :=
  uniImm (0x72000000 ||| encodeFmtI f) f (fun a v => a + v) s

/-- SHL_IMM (R194): Uniform shift left by an immediate. -/
def execShlImm (f : FmtI) (s : State) : Out :=
  uniImm (0x74000000 ||| encodeFmtI f) f (fun a v => if 64 ≤ v then 0 else a * 2 ^ v) s

/-- SHR_N_IMM (R194): Uniform logical shift right by an immediate. -/
def execShrNImm (f : FmtI) (s : State) : Out :=
  uniImm (0x76000000 ||| encodeFmtI f) f (fun a v => if 64 ≤ v then 0 else a / 2 ^ v) s

/-- SHR_I_IMM (R194): Uniform arithmetic shift right by an immediate. -/
def execShrIImm (f : FmtI) (s : State) : Out :=
  uniImm (0x78000000 ||| encodeFmtI f) f (fun a v => wrapInt 64 (sInt 64 a / 2 ^ min v 63)) s

/-- AND_IMM (R194): Uniform and with an immediate. -/
def execAndImm (f : FmtI) (s : State) : Out :=
  uniImm (0x7A000000 ||| encodeFmtI f) f (fun a v => a &&& v) s

/-- OR_IMM (R194): Uniform or with an immediate. -/
def execOrImm (f : FmtI) (s : State) : Out :=
  uniImm (0x7C000000 ||| encodeFmtI f) f (fun a v => a ||| v) s

/-- XOR_IMM (R194): Uniform exclusive or with an immediate. -/
def execXorImm (f : FmtI) (s : State) : Out :=
  uniImm (0x7E000000 ||| encodeFmtI f) f (fun a v => a ^^^ v) s

/-- MUL_IMM (R194): Uniform multiply by an immediate. -/
def execMulImm (f : FmtI) (s : State) : Out :=
  uniImm (0x80000000 ||| encodeFmtI f) f (fun a v => a * v) s

/-- MOV_U (R191): Uniform register copy. -/
def execMovU (f : FmtDA) (s : State) : Out :=
  uniUn (0x820C0000 ||| encodeFmtDA f) f.st f.pr 3 f.d f.a .mov s

/-- NOT_U (R191): Uniform bitwise not. -/
def execNotU (f : FmtDA) (s : State) : Out :=
  uniUn (0x820C0001 ||| encodeFmtDA f) f.st f.pr 3 f.d f.a .not s

/-- NEG_U (R191): Uniform negate. -/
def execNegU (f : FmtZDA) (s : State) : Out :=
  uniUn (0x82000002 ||| encodeFmtZDA f) f.st f.pr f.sz.toNat f.d f.a .neg s

/-- ABS_U (R191): Uniform absolute value. -/
def execAbsU (f : FmtZDA) (s : State) : Out :=
  uniUn (0x82000003 ||| encodeFmtZDA f) f.st f.pr f.sz.toNat f.d f.a .abs s

/-- POPC_U (R191): Uniform population count. -/
def execPopcU (f : FmtZDA) (s : State) : Out :=
  uniUn (0x82000004 ||| encodeFmtZDA f) f.st f.pr f.sz.toNat f.d f.a .popc s

/-- CLZ_U (R191): Uniform leading-zero count. -/
def execClzU (f : FmtZDA) (s : State) : Out :=
  uniUn (0x82000005 ||| encodeFmtZDA f) f.st f.pr f.sz.toNat f.d f.a .clz s

/-- CTZ_U (R191): Uniform trailing-zero count. -/
def execCtzU (f : FmtZDA) (s : State) : Out :=
  uniUn (0x82000006 ||| encodeFmtZDA f) f.st f.pr f.sz.toNat f.d f.a .ctz s

/-- BREV_U (R191): Uniform bit reversal. -/
def execBrevU (f : FmtZDA) (s : State) : Out :=
  uniUn (0x82000007 ||| encodeFmtZDA f) f.st f.pr f.sz.toNat f.d f.a .brev s

/-- PACKL_I_U (R192): Uniform signed pack into the low half. -/
def execPacklIU (f : FmtZDA) (s : State) : Out :=
  uniPack (0x82000008 ||| encodeFmtZDA f) f true false s

/-- PACKH_I_U (R192): Uniform signed pack into the high half. -/
def execPackhIU (f : FmtZDA) (s : State) : Out :=
  uniPack (0x82000009 ||| encodeFmtZDA f) f true true s

/-- PACKL_N_U (R192): Uniform unsigned pack into the low half. -/
def execPacklNU (f : FmtZDA) (s : State) : Out :=
  uniPack (0x8200000A ||| encodeFmtZDA f) f false false s

/-- PACKH_N_U (R192): Uniform unsigned pack into the high half. -/
def execPackhNU (f : FmtZDA) (s : State) : Out :=
  uniPack (0x8200000B ||| encodeFmtZDA f) f false true s

/-- UNPKL_I_U (R192): Uniform sign-extending unpack of the low half. -/
def execUnpklIU (f : FmtZDA) (s : State) : Out :=
  uniUnpack (0x8200000C ||| encodeFmtZDA f) f true false s

/-- UNPKH_I_U (R192): Uniform sign-extending unpack of the high half. -/
def execUnpkhIU (f : FmtZDA) (s : State) : Out :=
  uniUnpack (0x8200000D ||| encodeFmtZDA f) f true true s

/-- UNPKL_N_U (R192): Uniform zero-extending unpack of the low half. -/
def execUnpklNU (f : FmtZDA) (s : State) : Out :=
  uniUnpack (0x8200000E ||| encodeFmtZDA f) f false false s

/-- UNPKH_N_U (R192): Uniform zero-extending unpack of the high half. -/
def execUnpkhNU (f : FmtZDA) (s : State) : Out :=
  uniUnpack (0x8200000F ||| encodeFmtZDA f) f false true s

/-- CNOT (R191): Inverts a condition register. -/
def execCnot (f : FmtDA) (s : State) : Out :=
  condOp (opU (0x82000014 ||| encodeFmtDA f) f.st f.pr true [.c f.d.toNat] [.c f.a.toNat]) f.d.toNat (fun s w _ => !(s.crd w f.a.toNat)) s

/-- CSETP (R196): Compares two uniform registers and writes a condition register. -/
def execCsetp (f : FmtCs) (s : State) : Out :=
  condOp (opU (0x84000000 ||| encodeFmtCs f) f.st f.pr true [.c f.k.toNat] [.u f.a.toNat, .u f.b.toNat]) f.k.toNat
    (fun s w _ => let n := widthOf f.sz.toNat
      intCond f.c.toNat n (elem n (s.urd w f.a.toNat) 0) (elem n (s.urd w f.b.toNat) 0)) s

/-- CSETP_IMM (R196): Compares a uniform register with an immediate and writes a condition register. -/
def execCsetpImm (f : FmtCsI) (s : State) : Out :=
  condOp { opU (0x86000000 ||| encodeFmtCsI f) f.st f.pr true [.c f.k.toNat] [.u f.a.toNat] with imm := true } f.k.toNat
    (fun s w hs => intCond f.c.toNat 64 (s.urd w f.a.toNat).toNat (immValue hs f.i.toNat false).toNat) s

/-- MAD_UNIFORM (R194): Uniform multiply-add with a separate addend D. -/
def execMadUniform (f : FmtR) (s : State) : Out :=
  uniOp (opU (0x88000000 ||| encodeFmtR f) f.st f.pr true [.u f.d.toNat] [.u f.a.toNat, .u f.b.toNat, .u f.d.toNat]) f.d.toNat
    (fun r _ => iopWord .mad (widthOf f.sz.toNat) (r f.a.toNat) (r f.b.toNat) (r f.d.toNat)) s

/-- RDID (R60): Reads one identity value selected by the immediate into a uniform register. -/
def execRdid (f : FmtDI) (s : State) : Out :=
  issue (opU (0x8A000000 ||| encodeFmtDI f) f.st f.pr (selectorOk f.i.toNat) [.u f.d.toNat] [])
    (fun w _ s => .ok (s.uwr w f.d.toNat (BitVec.ofNat 64 ((s.identity w f.i.toNat).getD 0))) none false) s

/-- BFI_U (R194): Uniform bit-field insert. -/
def execBfiU (f : FmtZ1) (s : State) : Out :=
  uniOp (opU (0x8C080000 ||| encodeFmtZ1 f) f.st f.pr true [.u f.d.toNat] [.u f.a.toNat, .u f.b.toNat, .u f.d.toNat]) f.d.toNat
    (fun r _ => iopWord .bfi (widthOf (2 + f.z1.toNat)) (r f.a.toNat) (r f.b.toNat) (r f.d.toNat)) s

/-- SEL_U (R194): Uniform bitwise select under the mask in D. -/
def execSelU (f : FmtW) (s : State) : Out :=
  uniOp (opU (0x8E0C0000 ||| encodeFmtW f) f.st f.pr true [.u f.d.toNat] [.u f.a.toNat, .u f.b.toNat, .u f.d.toNat]) f.d.toNat
    (fun r _ => (r f.a.toNat &&& r f.d.toNat) ||| (r f.b.toNat &&& ~~~(r f.d.toNat))) s

end Sys2Proof.Machine
end

