-- ==== Sys2Proof/Machine/VecInt.lean ====
section
/-! DEFINITION. Vector integer and logic (R186 to R193). -/
namespace Sys2Proof.Machine
open Sys2Proof

/-- A binary vector operation (R186, R187); `three` marks those that also read d. -/
def vecInt (word : W32) (st : BitVec 2) (pr : BitVec 3) (sz : Nat) (d a b : BitVec 6) (op : IOp) (three : Bool) : State → Out :=
  vecOp (opV word st pr true [.v d.toNat] ([.v a.toNat, .v b.toNat] ++ (if three then [.v d.toNat] else [])))
    d.toNat a.toNat b.toNat (iopWord op (widthOf sz))

/-- A unary vector operation (R191). -/
def vecUn (word : W32) (st : BitVec 2) (pr : BitVec 3) (sz : Nat) (d a : BitVec 6) (op : UOp) : State → Out :=
  vecOp (opV word st pr true [.v d.toNat] [.v a.toNat]) d.toNat a.toNat a.toNat (fun x _ _ => uopWord op (widthOf sz) x)

/-- A vector pack: it keeps the other half of d (R192). -/
def vecPack (word : W32) (f : FmtZDA) (signed high : Bool) : State → Out :=
  vecOp (opV word f.st f.pr (f.sz != 0) [.v f.d.toNat] [.v f.a.toNat, .v f.d.toNat]) f.d.toNat f.a.toNat f.a.toNat
    (fun x _ d => packHalf signed high (widthOf f.sz.toNat) x d)

/-- A vector unpack (R192). -/
def vecUnpack (word : W32) (f : FmtZDA) (signed high : Bool) : State → Out :=
  vecOp (opV word f.st f.pr (f.sz != 0) [.v f.d.toNat] [.v f.a.toNat]) f.d.toNat f.a.toNat f.a.toNat
    (fun x _ _ => unpackHalf signed high (widthOf f.sz.toNat) x)

/-- ADD (R186): Vector add of sub-elements modulo 2^w. -/
def execAdd (f : FmtR) (s : State) : Out :=
  vecInt (0x00000000 ||| encodeFmtR f) f.st f.pr f.sz.toNat f.d f.a f.b .add false s

/-- SUB (R186): Vector subtract of sub-elements modulo 2^w. -/
def execSub (f : FmtR) (s : State) : Out :=
  vecInt (0x02000000 ||| encodeFmtR f) f.st f.pr f.sz.toNat f.d f.a f.b .sub false s

/-- MUL (R186): Vector multiply, keeping the low half. -/
def execMul (f : FmtR) (s : State) : Out :=
  vecInt (0x04000000 ||| encodeFmtR f) f.st f.pr f.sz.toNat f.d f.a f.b .mul false s

/-- MULH_I (R186): Vector signed multiply, keeping the high half. -/
def execMulhI (f : FmtR) (s : State) : Out :=
  vecInt (0x06000000 ||| encodeFmtR f) f.st f.pr f.sz.toNat f.d f.a f.b .mulhI false s

/-- MULH_N (R186): Vector unsigned multiply, keeping the high half. -/
def execMulhN (f : FmtR) (s : State) : Out :=
  vecInt (0x08000000 ||| encodeFmtR f) f.st f.pr f.sz.toNat f.d f.a f.b .mulhN false s

/-- MAD (R186): Vector multiply-add into D, modulo 2^w. -/
def execMad (f : FmtR) (s : State) : Out :=
  vecInt (0x0A000000 ||| encodeFmtR f) f.st f.pr f.sz.toNat f.d f.a f.b .mad true s

/-- SAD (R186): Vector sum of absolute differences accumulated into D. -/
def execSad (f : FmtR) (s : State) : Out :=
  vecInt (0x0C000000 ||| encodeFmtR f) f.st f.pr f.sz.toNat f.d f.a f.b .sad true s

/-- MIN_I (R186): Vector signed minimum. -/
def execMinI (f : FmtR) (s : State) : Out :=
  vecInt (0x0E000000 ||| encodeFmtR f) f.st f.pr f.sz.toNat f.d f.a f.b .minI false s

/-- MIN_N (R186): Vector unsigned minimum. -/
def execMinN (f : FmtR) (s : State) : Out :=
  vecInt (0x10000000 ||| encodeFmtR f) f.st f.pr f.sz.toNat f.d f.a f.b .minN false s

/-- MAX_I (R186): Vector signed maximum. -/
def execMaxI (f : FmtR) (s : State) : Out :=
  vecInt (0x12000000 ||| encodeFmtR f) f.st f.pr f.sz.toNat f.d f.a f.b .maxI false s

/-- MAX_N (R186): Vector unsigned maximum. -/
def execMaxN (f : FmtR) (s : State) : Out :=
  vecInt (0x14000000 ||| encodeFmtR f) f.st f.pr f.sz.toNat f.d f.a f.b .maxN false s

/-- AND (R186): Vector bitwise and. -/
def execAnd (f : FmtW) (s : State) : Out :=
  vecInt (0x160C0000 ||| encodeFmtW f) f.st f.pr 3 f.d f.a f.b .and false s

/-- OR (R186): Vector bitwise or. -/
def execOr (f : FmtW) (s : State) : Out :=
  vecInt (0x180C0000 ||| encodeFmtW f) f.st f.pr 3 f.d f.a f.b .or false s

/-- XOR (R186): Vector bitwise exclusive or. -/
def execXor (f : FmtW) (s : State) : Out :=
  vecInt (0x1A0C0000 ||| encodeFmtW f) f.st f.pr 3 f.d f.a f.b .xor false s

/-- SHL (R186): Vector shift left. -/
def execShl (f : FmtR) (s : State) : Out :=
  vecInt (0x1C000000 ||| encodeFmtR f) f.st f.pr f.sz.toNat f.d f.a f.b .shl false s

/-- SHR_N (R186): Vector logical shift right. -/
def execShrN (f : FmtR) (s : State) : Out :=
  vecInt (0x1E000000 ||| encodeFmtR f) f.st f.pr f.sz.toNat f.d f.a f.b .shrN false s

/-- SHR_I (R186): Vector arithmetic shift right. -/
def execShrI (f : FmtR) (s : State) : Out :=
  vecInt (0x20000000 ||| encodeFmtR f) f.st f.pr f.sz.toNat f.d f.a f.b .shrI false s

/-- ROTL (R186): Vector rotate left. -/
def execRotl (f : FmtR) (s : State) : Out :=
  vecInt (0x22000000 ||| encodeFmtR f) f.st f.pr f.sz.toNat f.d f.a f.b .rotl false s

/-- BFX (R187): Vector bit-field extract with optional sign extension. -/
def execBfx (f : FmtZ1) (s : State) : Out :=
  vecInt (0x24080000 ||| encodeFmtZ1 f) f.st f.pr (2 + f.z1.toNat) f.d f.a f.b .bfx false s

/-- BFI (R187): Vector bit-field insert into D. -/
def execBfi (f : FmtZ1) (s : State) : Out :=
  vecInt (0x26080000 ||| encodeFmtZ1 f) f.st f.pr (2 + f.z1.toNat) f.d f.a f.b .bfi true s

/-- SETP (R188): Compares sub-element 0 and writes a predicate bit per active thread. -/
def execSetp (f : FmtCmp) (s : State) : Out :=
  cmpOp (opV (0x28000000 ||| encodeFmtCmp f) f.st f.pr true [.p f.q.toNat] [.v f.a.toNat, .v f.b.toNat]) f.q.toNat
    (fun x t => let w := widthOf f.sz.toNat
      intCond f.c.toNat w (elem w (vget (vget x.v f.a.toNat) t) 0) (elem w (vget (vget x.v f.b.toNat) t) 0)) s

/-- SEL (R189): Bitwise select of A or B under the mask held in D. -/
def execSel (f : FmtW) (s : State) : Out :=
  vecOp (opV (0x2A0C0000 ||| encodeFmtW f) f.st f.pr true [.v f.d.toNat] [.v f.a.toNat, .v f.b.toNat, .v f.d.toNat])
    f.d.toNat f.a.toNat f.b.toNat (fun a b d => (a &&& d) ||| (b &&& ~~~d)) s

/-- LEA (R190): Forms an address from an s base and a scaled per-thread index. -/
def execLea (f : FmtR) (s : State) : Out :=
  issue (opV (0x2C000000 ||| encodeFmtR f) f.st f.pr true [.v f.d.toNat] [.u f.a.toNat, .v f.b.toNat])
    (regEffect fun c hs x => x.wrV f.d.toNat (c.active f.pr.toNat (hintNegp hs))
      (vtab fun t => x.rd c.plv f.a.toNat + (vget (vget x.v f.b.toNat) t) * BitVec.ofNat 64 (2 ^ f.sz.toNat))) s

/-- MOV (R191): Vector register copy. -/
def execMov (f : FmtDA) (s : State) : Out :=
  vecUn (0x2E0C0000 ||| encodeFmtDA f) f.st f.pr 3 f.d f.a .mov s

/-- NOT (R191): Vector bitwise not. -/
def execNot (f : FmtDA) (s : State) : Out :=
  vecUn (0x2E0C0001 ||| encodeFmtDA f) f.st f.pr 3 f.d f.a .not s

/-- NEG (R191): Vector negate modulo 2^w. -/
def execNeg (f : FmtZDA) (s : State) : Out :=
  vecUn (0x2E000002 ||| encodeFmtZDA f) f.st f.pr f.sz.toNat f.d f.a .neg s

/-- ABS (R191): Vector absolute value. -/
def execAbs (f : FmtZDA) (s : State) : Out :=
  vecUn (0x2E000003 ||| encodeFmtZDA f) f.st f.pr f.sz.toNat f.d f.a .abs s

/-- POPC (R191): Vector population count. -/
def execPopc (f : FmtZDA) (s : State) : Out :=
  vecUn (0x2E000004 ||| encodeFmtZDA f) f.st f.pr f.sz.toNat f.d f.a .popc s

/-- CLZ (R191): Vector count of leading zeros. -/
def execClz (f : FmtZDA) (s : State) : Out :=
  vecUn (0x2E000005 ||| encodeFmtZDA f) f.st f.pr f.sz.toNat f.d f.a .clz s

/-- CTZ (R191): Vector count of trailing zeros. -/
def execCtz (f : FmtZDA) (s : State) : Out :=
  vecUn (0x2E000006 ||| encodeFmtZDA f) f.st f.pr f.sz.toNat f.d f.a .ctz s

/-- BREV (R191): Vector bit reversal. -/
def execBrev (f : FmtZDA) (s : State) : Out :=
  vecUn (0x2E000007 ||| encodeFmtZDA f) f.st f.pr f.sz.toNat f.d f.a .brev s

/-- PACKL_I (R192): Signed saturating pack into the low half of D. -/
def execPacklI (f : FmtZDA) (s : State) : Out :=
  vecPack (0x2E000008 ||| encodeFmtZDA f) f true false s

/-- PACKH_I (R192): Signed saturating pack into the high half of D. -/
def execPackhI (f : FmtZDA) (s : State) : Out :=
  vecPack (0x2E000009 ||| encodeFmtZDA f) f true true s

/-- PACKL_N (R192): Unsigned saturating pack into the low half of D. -/
def execPacklN (f : FmtZDA) (s : State) : Out :=
  vecPack (0x2E00000A ||| encodeFmtZDA f) f false false s

/-- PACKH_N (R192): Unsigned saturating pack into the high half of D. -/
def execPackhN (f : FmtZDA) (s : State) : Out :=
  vecPack (0x2E00000B ||| encodeFmtZDA f) f false true s

/-- UNPKL_I (R192): Sign-extending unpack of the low half of A. -/
def execUnpklI (f : FmtZDA) (s : State) : Out :=
  vecUnpack (0x2E00000C ||| encodeFmtZDA f) f true false s

/-- UNPKH_I (R192): Sign-extending unpack of the high half of A. -/
def execUnpkhI (f : FmtZDA) (s : State) : Out :=
  vecUnpack (0x2E00000D ||| encodeFmtZDA f) f true true s

/-- UNPKL_N (R192): Zero-extending unpack of the low half of A. -/
def execUnpklN (f : FmtZDA) (s : State) : Out :=
  vecUnpack (0x2E00000E ||| encodeFmtZDA f) f false false s

/-- UNPKH_N (R192): Zero-extending unpack of the high half of A. -/
def execUnpkhN (f : FmtZDA) (s : State) : Out :=
  vecUnpack (0x2E00000F ||| encodeFmtZDA f) f false true s

/-- BCAST (R191): Broadcasts an s register to every active thread of a v register. -/
def execBcast (f : FmtDA) (s : State) : Out :=
  issue (opV (0x2E0C0010 ||| encodeFmtDA f) f.st f.pr true [.v f.d.toNat] [.u f.a.toNat])
    (regEffect fun c hs x => x.wrV f.d.toNat (c.active f.pr.toNat (hintNegp hs)) (vtab fun _ => x.rd c.plv f.a.toNat)) s

/-- PMASK (R191): Turns a predicate into an all-ones or zero mask per thread. -/
def execPmask (f : FmtDA) (s : State) : Out :=
  issue (opV (0x2E0C0011 ||| encodeFmtDA f) f.st f.pr true [.v f.d.toNat] [.p f.a.toNat])
    (regEffect fun c hs x => x.wrV f.d.toNat (c.active f.pr.toNat (hintNegp hs))
      (vtab fun t => if bitAt (x.rdP f.a.toNat) t then allOnes64 else 0)) s

/-- RDTID (R191): Writes each thread's index into a v register. -/
def execRdtid (f : FmtD) (s : State) : Out :=
  issue (opV (0x2E0C0012 ||| encodeFmtD f) f.st f.pr true [.v f.d.toNat] [])
    (regEffect fun c hs x => x.wrV f.d.toNat (c.active f.pr.toNat (hintNegp hs)) (vtab fun t => BitVec.ofNat 64 t)) s

/-- PNOT (R191): Inverts a predicate in active threads. -/
def execPnot (f : FmtDA) (s : State) : Out :=
  cmpOp (opV (0x2E000013 ||| encodeFmtDA f) f.st f.pr true [.p f.d.toNat] [.p f.a.toNat]) f.d.toNat
    (fun x t => !(bitAt (x.rdP f.a.toNat) t)) s

end Sys2Proof.Machine
end

