-- ==== Sys2Proof/Machine/Dispatch.lean ====
section
/-! DEFINITION. The meaning of every instruction and event, one arm each: a direct call of its definition. -/
namespace Sys2Proof.Machine
open Sys2Proof

def exec (i : Instr) (s : State) : Host.Outcome State Fault Refusal :=
  match i with
  | .add f => Sys2Proof.Machine.execAdd f s
  | .sub f => Sys2Proof.Machine.execSub f s
  | .mul f => Sys2Proof.Machine.execMul f s
  | .mulhI f => Sys2Proof.Machine.execMulhI f s
  | .mulhN f => Sys2Proof.Machine.execMulhN f s
  | .mad f => Sys2Proof.Machine.execMad f s
  | .sad f => Sys2Proof.Machine.execSad f s
  | .minI f => Sys2Proof.Machine.execMinI f s
  | .minN f => Sys2Proof.Machine.execMinN f s
  | .maxI f => Sys2Proof.Machine.execMaxI f s
  | .maxN f => Sys2Proof.Machine.execMaxN f s
  | .and f => Sys2Proof.Machine.execAnd f s
  | .or f => Sys2Proof.Machine.execOr f s
  | .xor f => Sys2Proof.Machine.execXor f s
  | .shl f => Sys2Proof.Machine.execShl f s
  | .shrN f => Sys2Proof.Machine.execShrN f s
  | .shrI f => Sys2Proof.Machine.execShrI f s
  | .rotl f => Sys2Proof.Machine.execRotl f s
  | .bfx f => Sys2Proof.Machine.execBfx f s
  | .bfi f => Sys2Proof.Machine.execBfi f s
  | .setp f => Sys2Proof.Machine.execSetp f s
  | .sel f => Sys2Proof.Machine.execSel f s
  | .lea f => Sys2Proof.Machine.execLea f s
  | .mov f => Sys2Proof.Machine.execMov f s
  | .not f => Sys2Proof.Machine.execNot f s
  | .neg f => Sys2Proof.Machine.execNeg f s
  | .abs f => Sys2Proof.Machine.execAbs f s
  | .popc f => Sys2Proof.Machine.execPopc f s
  | .clz f => Sys2Proof.Machine.execClz f s
  | .ctz f => Sys2Proof.Machine.execCtz f s
  | .brev f => Sys2Proof.Machine.execBrev f s
  | .packlI f => Sys2Proof.Machine.execPacklI f s
  | .packhI f => Sys2Proof.Machine.execPackhI f s
  | .packlN f => Sys2Proof.Machine.execPacklN f s
  | .packhN f => Sys2Proof.Machine.execPackhN f s
  | .unpklI f => Sys2Proof.Machine.execUnpklI f s
  | .unpkhI f => Sys2Proof.Machine.execUnpkhI f s
  | .unpklN f => Sys2Proof.Machine.execUnpklN f s
  | .unpkhN f => Sys2Proof.Machine.execUnpkhN f s
  | .bcast f => Sys2Proof.Machine.execBcast f s
  | .pmask f => Sys2Proof.Machine.execPmask f s
  | .rdtid f => Sys2Proof.Machine.execRdtid f s
  | .pnot f => Sys2Proof.Machine.execPnot f s
  | .addU f => Sys2Proof.Machine.execAddU f s
  | .subU f => Sys2Proof.Machine.execSubU f s
  | .mulU f => Sys2Proof.Machine.execMulU f s
  | .mulhIU f => Sys2Proof.Machine.execMulhIU f s
  | .mulhNU f => Sys2Proof.Machine.execMulhNU f s
  | .madU f => Sys2Proof.Machine.execMadU f s
  | .sadU f => Sys2Proof.Machine.execSadU f s
  | .minIU f => Sys2Proof.Machine.execMinIU f s
  | .minNU f => Sys2Proof.Machine.execMinNU f s
  | .maxIU f => Sys2Proof.Machine.execMaxIU f s
  | .maxNU f => Sys2Proof.Machine.execMaxNU f s
  | .andU f => Sys2Proof.Machine.execAndU f s
  | .orU f => Sys2Proof.Machine.execOrU f s
  | .xorU f => Sys2Proof.Machine.execXorU f s
  | .shlU f => Sys2Proof.Machine.execShlU f s
  | .shrNU f => Sys2Proof.Machine.execShrNU f s
  | .shrIU f => Sys2Proof.Machine.execShrIU f s
  | .rotlU f => Sys2Proof.Machine.execRotlU f s
  | .bfxU f => Sys2Proof.Machine.execBfxU f s
  | .leaU f => Sys2Proof.Machine.execLeaU f s
  | .addImm f => Sys2Proof.Machine.execAddImm f s
  | .shlImm f => Sys2Proof.Machine.execShlImm f s
  | .shrNImm f => Sys2Proof.Machine.execShrNImm f s
  | .shrIImm f => Sys2Proof.Machine.execShrIImm f s
  | .andImm f => Sys2Proof.Machine.execAndImm f s
  | .orImm f => Sys2Proof.Machine.execOrImm f s
  | .xorImm f => Sys2Proof.Machine.execXorImm f s
  | .mulImm f => Sys2Proof.Machine.execMulImm f s
  | .movU f => Sys2Proof.Machine.execMovU f s
  | .notU f => Sys2Proof.Machine.execNotU f s
  | .negU f => Sys2Proof.Machine.execNegU f s
  | .absU f => Sys2Proof.Machine.execAbsU f s
  | .popcU f => Sys2Proof.Machine.execPopcU f s
  | .clzU f => Sys2Proof.Machine.execClzU f s
  | .ctzU f => Sys2Proof.Machine.execCtzU f s
  | .brevU f => Sys2Proof.Machine.execBrevU f s
  | .packlIU f => Sys2Proof.Machine.execPacklIU f s
  | .packhIU f => Sys2Proof.Machine.execPackhIU f s
  | .packlNU f => Sys2Proof.Machine.execPacklNU f s
  | .packhNU f => Sys2Proof.Machine.execPackhNU f s
  | .unpklIU f => Sys2Proof.Machine.execUnpklIU f s
  | .unpkhIU f => Sys2Proof.Machine.execUnpkhIU f s
  | .unpklNU f => Sys2Proof.Machine.execUnpklNU f s
  | .unpkhNU f => Sys2Proof.Machine.execUnpkhNU f s
  | .cnot f => Sys2Proof.Machine.execCnot f s
  | .csetp f => Sys2Proof.Machine.execCsetp f s
  | .csetpImm f => Sys2Proof.Machine.execCsetpImm f s
  | .madUniform f => Sys2Proof.Machine.execMadUniform f s
  | .rdid f => Sys2Proof.Machine.execRdid f s
  | .bfiU f => Sys2Proof.Machine.execBfiU f s
  | .selU f => Sys2Proof.Machine.execSelU f s
  | .fadd f => Sys2Proof.Machine.execFadd f s
  | .fsub f => Sys2Proof.Machine.execFsub f s
  | .fmul f => Sys2Proof.Machine.execFmul f s
  | .fma f => Sys2Proof.Machine.execFma f s
  | .fmin f => Sys2Proof.Machine.execFmin f s
  | .fmax f => Sys2Proof.Machine.execFmax f s
  | .fsetp f => Sys2Proof.Machine.execFsetp f s
  | .fneg f => Sys2Proof.Machine.execFneg f s
  | .fabs f => Sys2Proof.Machine.execFabs f s
  | .fclass f => Sys2Proof.Machine.execFclass f s
  | .faddBf16 f => Sys2Proof.Machine.execFaddBf16 f s
  | .fsubBf16 f => Sys2Proof.Machine.execFsubBf16 f s
  | .fmulBf16 f => Sys2Proof.Machine.execFmulBf16 f s
  | .fmaBf16 f => Sys2Proof.Machine.execFmaBf16 f s
  | .fminBf16 f => Sys2Proof.Machine.execFminBf16 f s
  | .fmaxBf16 f => Sys2Proof.Machine.execFmaxBf16 f s
  | .fsetpBf16 f => Sys2Proof.Machine.execFsetpBf16 f s
  | .fnegBf16 f => Sys2Proof.Machine.execFnegBf16 f s
  | .fabsBf16 f => Sys2Proof.Machine.execFabsBf16 f s
  | .fclassBf16 f => Sys2Proof.Machine.execFclassBf16 f s
  | .rcp f => Sys2Proof.Machine.execRcp f s
  | .rsq f => Sys2Proof.Machine.execRsq f s
  | .sqrt f => Sys2Proof.Machine.execSqrt f s
  | .ex2 f => Sys2Proof.Machine.execEx2 f s
  | .lg2 f => Sys2Proof.Machine.execLg2 f s
  | .sinpi f => Sys2Proof.Machine.execSinpi f s
  | .cospi f => Sys2Proof.Machine.execCospi f s
  | .tanh f => Sys2Proof.Machine.execTanh f s
  | .cvtFloat f => Sys2Proof.Machine.execCvtFloat f s
  | .cvtInt f => Sys2Proof.Machine.execCvtInt f s
  | .cvtXF32 f => Sys2Proof.Machine.execCvtXF32 f s
  | .cvtF32X f => Sys2Proof.Machine.execCvtF32X f s
  | .qblk f => Sys2Proof.Machine.execQblk f s
  | .dqblk f => Sys2Proof.Machine.execDqblk f s
  | .swz f => Sys2Proof.Machine.execSwz f s
  | .lxch f => Sys2Proof.Machine.execLxch f s
  | .lbcast f => Sys2Proof.Machine.execLbcast f s
  | .lredAdd f => Sys2Proof.Machine.execLredAdd f s
  | .lredMinI f => Sys2Proof.Machine.execLredMinI f s
  | .lredMinN f => Sys2Proof.Machine.execLredMinN f s
  | .lredMaxI f => Sys2Proof.Machine.execLredMaxI f s
  | .lredMaxN f => Sys2Proof.Machine.execLredMaxN f s
  | .lredAnd f => Sys2Proof.Machine.execLredAnd f s
  | .lredOr f => Sys2Proof.Machine.execLredOr f s
  | .lredXor f => Sys2Proof.Machine.execLredXor f s
  | .lredMinIdxI f => Sys2Proof.Machine.execLredMinIdxI f s
  | .lredMinIdxN f => Sys2Proof.Machine.execLredMinIdxN f s
  | .lredMaxIdxI f => Sys2Proof.Machine.execLredMaxIdxI f s
  | .lredMaxIdxN f => Sys2Proof.Machine.execLredMaxIdxN f s
  | .lredFadd f => Sys2Proof.Machine.execLredFadd f s
  | .lredFmin f => Sys2Proof.Machine.execLredFmin f s
  | .lredFmax f => Sys2Proof.Machine.execLredFmax f s
  | .lredFminIdx f => Sys2Proof.Machine.execLredFminIdx f s
  | .lredFmaxIdx f => Sys2Proof.Machine.execLredFmaxIdx f s
  | .lredFaddBf16 f => Sys2Proof.Machine.execLredFaddBf16 f s
  | .lredFminBf16 f => Sys2Proof.Machine.execLredFminBf16 f s
  | .lredFmaxBf16 f => Sys2Proof.Machine.execLredFmaxBf16 f s
  | .lredFminIdxBf16 f => Sys2Proof.Machine.execLredFminIdxBf16 f s
  | .lredFmaxIdxBf16 f => Sys2Proof.Machine.execLredFmaxIdxBf16 f s
  | .lscanAdd f => Sys2Proof.Machine.execLscanAdd f s
  | .lscanMinI f => Sys2Proof.Machine.execLscanMinI f s
  | .lscanMinN f => Sys2Proof.Machine.execLscanMinN f s
  | .lscanMaxI f => Sys2Proof.Machine.execLscanMaxI f s
  | .lscanMaxN f => Sys2Proof.Machine.execLscanMaxN f s
  | .lscanAnd f => Sys2Proof.Machine.execLscanAnd f s
  | .lscanOr f => Sys2Proof.Machine.execLscanOr f s
  | .lscanXor f => Sys2Proof.Machine.execLscanXor f s
  | .lscanFadd f => Sys2Proof.Machine.execLscanFadd f s
  | .lscanFmin f => Sys2Proof.Machine.execLscanFmin f s
  | .lscanFmax f => Sys2Proof.Machine.execLscanFmax f s
  | .lscanFaddBf16 f => Sys2Proof.Machine.execLscanFaddBf16 f s
  | .lscanFminBf16 f => Sys2Proof.Machine.execLscanFminBf16 f s
  | .lscanFmaxBf16 f => Sys2Proof.Machine.execLscanFmaxBf16 f s
  | .lballot f => Sys2Proof.Machine.execLballot f s
  | .lmatch f => Sys2Proof.Machine.execLmatch f s
  | .lmatchF f => Sys2Proof.Machine.execLmatchF f s
  | .lmatchBf16 f => Sys2Proof.Machine.execLmatchBf16 f s
  | .lcount f => Sys2Proof.Machine.execLcount f s
  | .ld f => Sys2Proof.Machine.execLd f s
  | .ldOffset f => Sys2Proof.Machine.execLdOffset f s
  | .st f => Sys2Proof.Machine.execSt f s
  | .stOffset f => Sys2Proof.Machine.execStOffset f s
  | .ldu f => Sys2Proof.Machine.execLdu f s
  | .stu f => Sys2Proof.Machine.execStu f s
  | .ldl f => Sys2Proof.Machine.execLdl f s
  | .ldlOffset f => Sys2Proof.Machine.execLdlOffset f s
  | .stl f => Sys2Proof.Machine.execStl f s
  | .stlOffset f => Sys2Proof.Machine.execStlOffset f s
  | .ldc f => Sys2Proof.Machine.execLdc f s
  | .ldcU f => Sys2Proof.Machine.execLdcU f s
  | .amoAdd f => Sys2Proof.Machine.execAmoAdd f s
  | .amoMinI f => Sys2Proof.Machine.execAmoMinI f s
  | .amoMinN f => Sys2Proof.Machine.execAmoMinN f s
  | .amoMaxI f => Sys2Proof.Machine.execAmoMaxI f s
  | .amoMaxN f => Sys2Proof.Machine.execAmoMaxN f s
  | .amoAnd f => Sys2Proof.Machine.execAmoAnd f s
  | .amoOr f => Sys2Proof.Machine.execAmoOr f s
  | .amoXor f => Sys2Proof.Machine.execAmoXor f s
  | .amoExch f => Sys2Proof.Machine.execAmoExch f s
  | .amoCas f => Sys2Proof.Machine.execAmoCas f s
  | .amouAdd f => Sys2Proof.Machine.execAmouAdd f s
  | .amouMinI f => Sys2Proof.Machine.execAmouMinI f s
  | .amouMinN f => Sys2Proof.Machine.execAmouMinN f s
  | .amouMaxI f => Sys2Proof.Machine.execAmouMaxI f s
  | .amouMaxN f => Sys2Proof.Machine.execAmouMaxN f s
  | .amouAnd f => Sys2Proof.Machine.execAmouAnd f s
  | .amouOr f => Sys2Proof.Machine.execAmouOr f s
  | .amouXor f => Sys2Proof.Machine.execAmouXor f s
  | .amouExch f => Sys2Proof.Machine.execAmouExch f s
  | .amouCas f => Sys2Proof.Machine.execAmouCas f s
  | .aappend f => Sys2Proof.Machine.execAappend f s
  | .cpyG2l f => Sys2Proof.Machine.execCpyG2l f s
  | .cpyL2g f => Sys2Proof.Machine.execCpyL2g f s
  | .cpyL2l f => Sys2Proof.Machine.execCpyL2l f s
  | .cpyG2g f => Sys2Proof.Machine.execCpyG2g f s
  | .ringInit f => Sys2Proof.Machine.execRingInit f s
  | .ringAcq f => Sys2Proof.Machine.execRingAcq f s
  | .ringPub f => Sys2Proof.Machine.execRingPub f s
  | .ringTake f => Sys2Proof.Machine.execRingTake f s
  | .ringRel f => Sys2Proof.Machine.execRingRel f s
  | .barInit f => Sys2Proof.Machine.execBarInit f s
  | .barArv f => Sys2Proof.Machine.execBarArv f s
  | .barWait f => Sys2Proof.Machine.execBarWait f s
  | .barArw f => Sys2Proof.Machine.execBarArw f s
  | .barInval f => Sys2Proof.Machine.execBarInval f s
  | .bbar f => Sys2Proof.Machine.execBbar f s
  | .dbar f => Sys2Proof.Machine.execDbar f s
  | .cbar f => Sys2Proof.Machine.execCbar f s
  | .fenceIo f => Sys2Proof.Machine.execFenceIo f s
  | .bdecl f => Sys2Proof.Machine.execBdecl f s
  | .bentr f => Sys2Proof.Machine.execBentr f s
  | .bleav f => Sys2Proof.Machine.execBleav f s
  | .bstat f => Sys2Proof.Machine.execBstat f s
  | .qpop f => Sys2Proof.Machine.execQpop f s
  | .qpopTry f => Sys2Proof.Machine.execQpopTry f s
  | .qpush f => Sys2Proof.Machine.execQpush f s
  | .sgbind f => Sys2Proof.Machine.execSgbind f s
  | .sgstat f => Sys2Proof.Machine.execSgstat f s
  | .rdclk f => Sys2Proof.Machine.execRdclk f s
  | .rdptp f => Sys2Proof.Machine.execRdptp f s
  | .rdenergy f => Sys2Proof.Machine.execRdenergy f s
  | .bra f => Sys2Proof.Machine.execBra f s
  | .brd f => Sys2Proof.Machine.execBrd f s
  | .join f => Sys2Proof.Machine.execJoin f s
  | .brx f => Sys2Proof.Machine.execBrx f s
  | .brxU f => Sys2Proof.Machine.execBrxU f s
  | .ret f => Sys2Proof.Machine.execRet f s
  | .land f => Sys2Proof.Machine.execLand f s
  | .call f => Sys2Proof.Machine.execCall f s
  | .loop f => Sys2Proof.Machine.execLoop f s
  | .exit f => Sys2Proof.Machine.execExit f s
  | .mma f => Sys2Proof.Machine.execMma f s
  | .mzero f => Sys2Proof.Machine.execMzero f s
  | .mmag f => Sys2Proof.Machine.execMmag f s
  | .mstS f => Sys2Proof.Machine.execMstS f s
  | .mstSAddF32 f => Sys2Proof.Machine.execMstSAddF32 f s
  | .mstSAddI32 f => Sys2Proof.Machine.execMstSAddI32 f s
  | .mmaCv f => Sys2Proof.Machine.execMmaCv f s
  | .mrowRead f => Sys2Proof.Machine.execMrowRead f s
  | .mcolRead f => Sys2Proof.Machine.execMcolRead f s
  | .mrowWrite f => Sys2Proof.Machine.execMrowWrite f s
  | .mcolWrite f => Sys2Proof.Machine.execMcolWrite f s
  | .setvb f => Sys2Proof.Machine.execSetvb f s
  | .svc f => Sys2Proof.Machine.execSvc f s
  | .eret f => Sys2Proof.Machine.execEret f s
  | .eretNobp f => Sys2Proof.Machine.execEretNobp f s
  | .eretTerm f => Sys2Proof.Machine.execEretTerm f s
  | .mfsr f => Sys2Proof.Machine.execMfsr f s
  | .mtsr f => Sys2Proof.Machine.execMtsr f s
  | .tlbiPage f => Sys2Proof.Machine.execTlbiPage f s
  | .tlbiSpace f => Sys2Proof.Machine.execTlbiSpace f s
  | .tlbiTenant f => Sys2Proof.Machine.execTlbiTenant f s
  | .scrub f => Sys2Proof.Machine.execScrub f s
  | .ovld f => Sys2Proof.Machine.execOvld f s
  | .cacheopDropLine f => Sys2Proof.Machine.execCacheopDropLine f s
  | .cacheopWriteback f => Sys2Proof.Machine.execCacheopWriteback f s
  | .cacheopDropAll f => Sys2Proof.Machine.execCacheopDropAll f s
  | .wfe f => Sys2Proof.Machine.execWfe f s
  | .halt f => Sys2Proof.Machine.execHalt f s
  | .imm f => Sys2Proof.Machine.execImm f s
  | .rep f => Sys2Proof.Machine.execRep f s
  | .mod f => Sys2Proof.Machine.execMod f s
  | .sched f => Sys2Proof.Machine.execSched f s
  | .scoreboardWriteback who => Sys2Proof.Machine.execScoreboardWriteback who s
  | .hostAtomicCompletion blk car ok performed => Sys2Proof.Machine.execHostAtomicCompletion blk car ok performed s
  | .homeRequest src line first last own => Sys2Proof.Machine.execHomeRequest src line first last own s
  | .invalidation cache line words => Sys2Proof.Machine.execInvalidation cache line words s
  | .epochCommit blk car => Sys2Proof.Machine.execEpochCommit blk car s
  | .coreEscortEnd core => Sys2Proof.Machine.execCoreEscortEnd core s
  | .uncorrectableError e => Sys2Proof.Machine.execUncorrectableError e s
  | .copyTransfer id => Sys2Proof.Machine.execCopyTransfer id s
  | .matrixTake core => Sys2Proof.Machine.execMatrixTake core s
  | .matrixOperandRead core => Sys2Proof.Machine.execMatrixOperandRead core s
  | .matrixComplete core => Sys2Proof.Machine.execMatrixComplete core s
  | .trapEntry who t => Sys2Proof.Machine.execTrapEntry who t s
  | .wfeTimeout blk car => Sys2Proof.Machine.execWfeTimeout blk car s
  | .bundleRequestServe tenant die => Sys2Proof.Machine.execBundleRequestServe tenant die s
  | .bundleEntryComplete blk handle => Sys2Proof.Machine.execBundleEntryComplete blk handle s
  | .streamAccess id => Sys2Proof.Machine.execStreamAccess id s
  | .dhLineCopy vf proc => Sys2Proof.Machine.execDhLineCopy vf proc s
  | .ingestFrame port bytes => Sys2Proof.Machine.execIngestFrame port bytes s
  | .transmitFrame port => Sys2Proof.Machine.execTransmitFrame port s
  | .packetDispatch => Sys2Proof.Machine.execPacketDispatch s
  | .semaphorePoll vf q => Sys2Proof.Machine.execSemaphorePoll vf q s
  | .sliceEnd => Sys2Proof.Machine.execSliceEnd s
  | .feedQueuePush vf q => Sys2Proof.Machine.execFeedQueuePush vf q s
  | .launchCompletion launch => Sys2Proof.Machine.execLaunchCompletion launch s
  | .chunkSteal launch die => Sys2Proof.Machine.execChunkSteal launch die s
  | .blockAdmission die => Sys2Proof.Machine.execBlockAdmission die s
  | .energyMeterSample => Sys2Proof.Machine.execEnergyMeterSample s
  | .energyWindowStart => Sys2Proof.Machine.execEnergyWindowStart s
  | .flitReceive link x => Sys2Proof.Machine.execFlitReceive link x s
  | .linkHeartbeat link => Sys2Proof.Machine.execLinkHeartbeat link s
  | .linkFailed link => Sys2Proof.Machine.execLinkFailed link s
  | .requestReissue tag => Sys2Proof.Machine.execRequestReissue tag s
  | .packageFenced pkg => Sys2Proof.Machine.execPackageFenced pkg s
  | .hostAccess a => Sys2Proof.Machine.execHostAccess a s
  | .hostLkWrite vf reg value => Sys2Proof.Machine.execHostLkWrite vf reg value s
  | .ideStreamFailure vf => Sys2Proof.Machine.execIdeStreamFailure vf s
  | .functionLevelReset vf => Sys2Proof.Machine.execFunctionLevelReset vf s
  | .qtailDoorbell vf q value => Sys2Proof.Machine.execQtailDoorbell vf q value s
  | .evheadWrite vf value => Sys2Proof.Machine.execEvheadWrite vf value s
  | .registerWrite vf reg value => Sys2Proof.Machine.execRegisterWrite vf reg value s
  | .mapQueue c => Sys2Proof.Machine.execMapQueue c s
  | .unmapQueue c => Sys2Proof.Machine.execUnmapQueue c s
  | .pause c => Sys2Proof.Machine.execPause c s
  | .resume c => Sys2Proof.Machine.execResume c s
  | .evict c => Sys2Proof.Machine.execEvict c s
  | .importContext c => Sys2Proof.Machine.execImportContext c s
  | .setSlice c => Sys2Proof.Machine.execSetSlice c s
  | .reassignCores c => Sys2Proof.Machine.execReassignCores c s
  | .migrate c => Sys2Proof.Machine.execMigrate c s
  | .setWeight c => Sys2Proof.Machine.execSetWeight c s
  | .endGang c => Sys2Proof.Machine.execEndGang c s
  | .discardLaunch c => Sys2Proof.Machine.execDiscardLaunch c s
  | .resetQueue c => Sys2Proof.Machine.execResetQueue c s
  | .attachPort c => Sys2Proof.Machine.execAttachPort c s
  | .resetTenant c => Sys2Proof.Machine.execResetTenant c s
  | .installPolicy c => Sys2Proof.Machine.execInstallPolicy c s
  | .assignMemory c => Sys2Proof.Machine.execAssignMemory c s
  | .releaseMemory c => Sys2Proof.Machine.execReleaseMemory c s
  | .setPodWindow c => Sys2Proof.Machine.execSetPodWindow c s
  | .lockInterface m => Sys2Proof.Machine.execLockInterface m s
  | .startInterface m => Sys2Proof.Machine.execStartInterface m s
  | .stopInterface m => Sys2Proof.Machine.execStopInterface m s
  | .getDeviceInterfaceReport m => Sys2Proof.Machine.execGetDeviceInterfaceReport m s
  | .getDeviceInterfaceState m => Sys2Proof.Machine.execGetDeviceInterfaceState m s
  | .tdispGetVersion m => Sys2Proof.Machine.execTdispGetVersion m s
  | .tdispGetCapabilities m => Sys2Proof.Machine.execTdispGetCapabilities m s
  | .ifcmdLock vf => Sys2Proof.Machine.execIfcmdLock vf s
  | .ifcmdStart vf => Sys2Proof.Machine.execIfcmdStart vf s
  | .ifcmdStop vf => Sys2Proof.Machine.execIfcmdStop vf s
  | .spdmGetVersion m => Sys2Proof.Machine.execSpdmGetVersion m s
  | .spdmGetCapabilities m => Sys2Proof.Machine.execSpdmGetCapabilities m s
  | .negotiateAlgorithms m => Sys2Proof.Machine.execNegotiateAlgorithms m s
  | .getDigests m => Sys2Proof.Machine.execGetDigests m s
  | .getCertificate m => Sys2Proof.Machine.execGetCertificate m s
  | .challenge m => Sys2Proof.Machine.execChallenge m s
  | .getMeasurements m => Sys2Proof.Machine.execGetMeasurements m s
  | .keyExchange m => Sys2Proof.Machine.execKeyExchange m s
  | .finish m => Sys2Proof.Machine.execFinish m s
  | .spdmHeartbeat m => Sys2Proof.Machine.execSpdmHeartbeat m s
  | .keyUpdate m => Sys2Proof.Machine.execKeyUpdate m s
  | .endSession m => Sys2Proof.Machine.execEndSession m s
  | .policyKeyRegistration m => Sys2Proof.Machine.execPolicyKeyRegistration m s
  | .packageReset why => Sys2Proof.Machine.execPackageReset why s
  | .firmwareWatchdog => Sys2Proof.Machine.execFirmwareWatchdog s
  | .fwctlReady => Sys2Proof.Machine.execFwctlReady s
  | .fwctlActivate => Sys2Proof.Machine.execFwctlActivate s
  | .activationVerified => Sys2Proof.Machine.execActivationVerified s
  | .activationPause => Sys2Proof.Machine.execActivationPause s
  | .firmwareImageWrite bytes => Sys2Proof.Machine.execFirmwareImageWrite bytes s
  | .wake value => Sys2Proof.Machine.execWake value s
  | .stlaunch core value => Sys2Proof.Machine.execStlaunch core value s
  | .dhctlSync vf proc => Sys2Proof.Machine.execDhctlSync vf proc s
  | .dhctlSwitch vf proc => Sys2Proof.Machine.execDhctlSwitch vf proc s
  | .syzstatRetrain port => Sys2Proof.Machine.execSyzstatRetrain port s
  | .pwrcap value => Sys2Proof.Machine.execPwrcap value s
  | .junctionHot die => Sys2Proof.Machine.execJunctionHot die s
  | .junctionCool die => Sys2Proof.Machine.execJunctionCool die s
  | .thermalTrip => Sys2Proof.Machine.execThermalTrip s
  | .coreRetirement core => Sys2Proof.Machine.execCoreRetirement core s
  | .unassignedEncoding w => Sys2Proof.Machine.execUnassignedEncoding w s
  | .reservedHintWord w => Sys2Proof.Machine.execReservedHintWord w s
  | .ikdoor _value => Sys2Proof.Machine.execIkdoor _value s
  | .ideKmKeyProgramming m => Sys2Proof.Machine.execIdeKmKeyProgramming m s
  | .healthTestFailure => Sys2Proof.Machine.execHealthTestFailure s
  | .hostSnoop _addr => Sys2Proof.Machine.execHostSnoop _addr s
  | .globalObservationResponse addr => Sys2Proof.Machine.execGlobalObservationResponse addr s
  | .reAdmission source => Sys2Proof.Machine.execReAdmission source s
  | .trainingComplete port => Sys2Proof.Machine.execTrainingComplete port s

end Sys2Proof.Machine
end

