-- ==== Sys2Proof/Machine/Due.lean ====
section
/-! DEFINITION. Which event comes next, and the events that the clock brings about: windows and samples of energy (R377, R378), slices (R371),
polls (R369), heartbeats and links without a valid flit (R400), steps of the PTP clock (R325), the ends of escort (R395), of the watchdog (R430) and of an activation's pause (R434). -/
namespace Sys2Proof.Machine
open Sys2Proof

/-- Does an event wait for the accesses under way: it stops blocks at instruction boundaries (R380, R381), or changes where pages lie
(R361, R363, R411)? -/
def preempts (i : Instr) : Bool :=
  match i with
  | .pause _ | .evict _ | .migrate _ | .reassignCores _ | .sliceEnd | .coreRetirement _ | .releaseMemory _ | .dhctlSwitch _ _ => true
  | _ => false

/-- Has a caravan a bind or unbind that has still to wait (R326, R444)? -/
def State.bindWaits (s : State) (x : Block) (c : Caravan) : Bool := !c.late.isEmpty || s.bindStuck (.car x.id c.n)

/-- Is an access of several steps under way (R109, R298), so that a block is inside an instruction, or a bind or unbind not yet made? -/
def State.inAccess (s : State) : Bool := s.blocks.any (fun x => x.cars.any (fun c => c.io.isSome || s.bindWaits x c))

/-- The agenda's first event that can come now, and the rest: a pre-emption waits for the accesses under way (R381; log 17), and so do a
release of frames and a switch of homes (R361, R363; log 40). -/
def State.nextEvent (s : State) : Option (Instr × List Instr) :=
  match s.agenda with
  | [] => none
  | i :: rest =>
    if !s.inAccess then some (i, rest)
    else match s.agenda.findIdx? (fun j => !(preempts j)) with
      | some k => (s.agenda[k]?).map (fun j => (j, s.agenda.eraseIdx k))
      | none => none

/-- Core cycles in a microsecond (R11). -/
def microCycles : Nat := 2700

/-- Is a slice to end or to begin (R371): it ends after SLICE µs, or at once where its holder is not active; where none is held, one begins
once a function is active. -/
def State.sliceOver (s : State) : Bool :=
  if !s.sliceOn then (s.vfs.take 64).any s.active
  else match s.vf? s.sliceHolder with
    | none => false
    | some f => !(s.active f) || (let n := s.vfPolicy f.id 40 4; n != 0 && s.sliceStart + microCycles * n ≤ s.clk)

/-- What is looked at every microsecond: semaphores that packets wait for (R369), admission of what waits (R375), idle links
(R400), retirements that wait (R406), binds and unbinds that wait (R326, R444). -/
def State.polled (s : State) : List Instr :=
  s.vfs.flatMap (fun f => (f.queues.filter (fun q => q.stat.getLsbD 1)).map (fun q => Instr.semaphorePoll f.id q.q)) ++
  (if s.launches.any (fun l => !l.paused && (!l.unplaced.isEmpty || l.chunks.any (fun c => c.next < c.last) || s.saved.any (fun v => v.launch == l.id))) then
    (List.range 4).map Instr.blockAdmission else []) ++
  (s.links.filter (fun l => l.2.up && l.2.lastFlit + microCycles ≤ s.clk)).map (fun l => Instr.linkHeartbeat l.1) ++
  s.retiring.map Instr.coreRetirement ++
  s.blocks.flatMap (fun x => (x.cars.filter (s.bindWaits x)).map (fun c => Instr.epochCommit x.id c.n))

/-- The events due by the clock that do not yet stand on the agenda. -/
def State.due (s : State) : List Instr :=
  ((if s.energyWin < s.clk / 2700000 then [Instr.energyWindowStart] else []) ++
   (if s.samples < s.clk / 27000 then [Instr.energyMeterSample] else []) ++
   (s.cores.filter (fun c => c.escEnd != 0 && c.escEnd ≤ s.clk)).map (fun c => Instr.coreEscortEnd c.id) ++
   (if s.fw.watchdog && watchdogCycles ≤ s.clk then [Instr.firmwareWatchdog] else []) ++
   (if s.fw.phase == .paused && s.fw.pauseEnd ≤ s.clk then [Instr.activationPause] else []) ++
   (if s.sliceOver then [Instr.sliceEnd] else []) ++
   (s.links.filter (fun l => l.2.up && l.2.lastFlit + 100 * microCycles ≤ s.clk)).map (fun l => Instr.linkFailed l.1) ++
   (if s.polls < s.clk / microCycles then s.polled else [])).filter (fun i => !(s.agenda.contains i))

/-- The PTP clock as firmware has it after a microsecond: stepped, forwards or back, or running on (R325; log 15). In the pause of an
activation it runs on (R326). -/
def State.stepPtp (s : State) : State :=
  if s.polls < s.clk / microCycles && s.fw.phase != Phase.paused then
    match Config.ptpStep (s.clk / microCycles) with
    | some (sec, ns) => { s with ptpSec := sec, ptpNs := ns, ptpClk := s.clk }
    | none => s
  else s

/-- The events due go on the agenda, and this microsecond's looks are noted as made. -/
def State.noteDue (s : State) : State := { s.stepPtp with agenda := s.agenda ++ s.due, polls := s.clk / microCycles }

/-- The function that holds the slice where nothing has run out: the holder if it is active, else the first that is. -/
def State.rightfulHolder (s : State) : Nat :=
  match s.vf? s.sliceHolder with
  | some f => if s.active f then s.sliceHolder else
      (match (s.vfs.take 64).find? s.active with | some g => g.id | none => s.sliceHolder)
  | none => s.sliceHolder

/-- The state with nothing due by the clock. -/
def State.nothingDue (s : State) : State :=
  { s with
    energyWin := s.clk / 2700000, samples := s.clk / 27000, polls := s.clk / microCycles, sliceHolder := s.rightfulHolder, sliceOn := (s.vfs.take 64).any s.active, sliceStart := s.clk
    cores := s.cores.map (fun (c : CoreSt) => if c.escEnd ≤ s.clk then { c with escEnd := 0 } else c)
    links := s.links.map (fun l => (l.1, { l.2 with lastFlit := s.clk }))
    fw := { s.fw with watchdog := s.fw.watchdog && decide (s.clk < watchdogCycles) } }

/-- Words with word i replaced, padded with zeros up to it. -/
def setWordAt (ws : List W32) (i : Nat) (w : W32) : List W32 :=
  (List.range (max ws.length (i + 1))).map (fun j => if j = i then w else ws.getD j 0)

/-- Code placed at an address of a launch on a core. -/
def State.placeCode (s : State) (core launch vf addr : Nat) (w : W32) : State :=
  if 0x10000000 ≤ addr then s.modCore core (fun c =>
    let old := match c.images.find? (fun i => i.1 == vf) with | some i => i.2 | none => []
    { c with images := (vf, setWordAt old ((addr - 0x10000000) / 4) w) :: c.images.filter (fun i => i.1 != vf) })
  else
    let n := bitsOf addr 27 20
    s.modCore core (fun c =>
      let old := match c.overlays.find? (fun o => o.launch == launch && o.n == n) with | some o => o.words | none => []
      { c with overlays := { launch := launch, n := n, words := setWordAt old (addr % 0x100000 / 4) w } ::
                 c.overlays.filter (fun o => o.launch != launch || o.n != n) })

/-- The state whose next step fetches a given word (log 4). -/
def State.placeNext (s : State) (w : W32) : State :=
  let s := { s with agenda := [], fw := { s.fw with phase := .running } }
  let s := if s.midGroup then s else match s.nextAgent with
    | some _ => s
    | none => ({ s with blocks := Block.boot 0 :: s.blocks.filter (fun x => x.id != 0), turn := 0 }).modCore 256
        (fun c => { c with halted := false })
  let s := s.nothingDue
  let a := if s.midGroup then some s.cur else s.nextAgent.map (·.1)
  match a with
  | none => s
  | some a =>
    let l := match s.block? (blkOf a) with | some x => x.launch | none => 0
    let vf := match s.launch? l with | some l => l.vf | none => 0
    let s := s.placeCode (s.coreOf a) l vf (s.pcOf a) w
    if s.gating then s.modCore (s.coreOf a) (fun k => { k with gated := Vector.replicate 5 7 }) else s

end Sys2Proof.Machine
end

