-- ==== Sys2Proof/Machine/Step.lean ====
section
/-! DEFINITION. One step of the machine: the boot ROM's work, the next event, or the issue of the next word. -/
namespace Sys2Proof.Machine
open Sys2Proof

/-- The current agent issues the word at its pc, or takes the trap of its fetch (R149, R285, R350). -/
noncomputable def stepAgent (s : State) : Out :=
  match s.fetch with
  | .trap t => .next (s.trapFetch t)
  | .word w => exec (resolve s (decode w)) s.begun

/-- One step. A hint group that is open goes on (R163); else the agenda's first event that can come; else what the clock has
made due goes on the agenda; else the next ready agent issues, or its slot is gated (R438); else time passes. -/
noncomputable def step (s : State) : Out :=
  if s.fw.phase = .rom then .next s.bootRom
  else if s.midGroup then stepAgent (s.noteIssue s.cur)
  else match s.nextEvent with
    | some (i, rest) => exec i { s with agenda := rest }
    | none => match s.due with
      | _ :: _ => .next s.noteDue
      | [] => match s.nextAgent with
        | some (w, turn) => if s.slotGated w then .next (s.passGated w turn) else stepAgent (s.pass w turn)
        | none => .next { s with clk := s.clk + 2 }

/-- The machine with an instruction stored where its next step fetches: no event before it, the package running, and the word
at the pc of the agent whose turn it is; where no agent is ready, steward core 0's boot caravan is made ready (log 4). -/
def State.withFetchWord (s : State) (nbits w : Nat) : State := s.placeNext (if nbits ≤ 32 then BitVec.ofNat 32 w else 0)

end Sys2Proof.Machine
end

