-- ==== Sys2Proof/Safety.lean ====
section
/-! DEFINITION. The terms claims use: memory in its canonical form, hint groups as the spec lays their words out, an agent about to
issue with nothing in its way, and what a step leaves unchanged. -/
namespace Sys2Proof
open Sys2Proof.Machine

/-- Every memory of the machine is in its canonical form. -/
def MemoryOk (s : State) : Prop := s.mem.wf = true ∧ s.far.wf = true ∧ ∀ x ∈ s.blocks, x.ls.wf = true

/-! ## Hint groups -/

/-- The word MOD with a rounding mode, SAT and NEGP (R166). -/
def modWord (rm : BitVec 3) (sat neg : Bool) : W32 :=
  0xFC000000 ||| (rm.setWidth 32 <<< 19) ||| ((BitVec.ofBool sat).setWidth 32 <<< 18) ||| ((BitVec.ofBool neg).setWidth 32 <<< 17)

/-- The hint group before an instruction: a MOD word where it asks for something, else none (R163, R166). -/
def modGroup (rm : BitVec 3) (sat neg : Bool) : List W32 := if rm = 0 ∧ sat = false ∧ neg = false then [] else [modWord rm sat neg]

/-- The group that negates the predicate or condition, or no group. -/
def negpGroup (neg : Bool) : List W32 := modGroup 0 false neg

/-- The word IMM with a payload (R164). -/
def immWord (p : BitVec 25) : W32 := (0x7C : BitVec 7) ++ p

/-- The group of an IMM word, where there is one. -/
def immGroup : Option (BitVec 25) → List W32
  | none => []
  | some p => [immWord p]

/-- V of an I-format instruction (R150, R164): imm8 sign-extended, or below the payload of IMM in a 33-bit value. -/
def immV (p : Option (BitVec 25)) (i : BitVec 8) : Word :=
  match p with | none => i.signExtend 64 | some p => (p ++ i).signExtend 64

/-- V of an M-format offset form (R164, R221): idx6 sign-extended, or below the payload of IMM in a 31-bit value. -/
def offV (p : Option (BitVec 25)) (i : BitVec 6) : Word :=
  match p with | none => i.signExtend 64 | some p => (p ++ i).signExtend 64

/-- Does a once-only instruction execute (R154): pred3 7 always, 0 to 3 under c0 to c3, after negation? -/
def condHolds (c : Vector Bool 4) (pr : BitVec 3) (neg : Bool) : Bool := pr == 7 || (vget c pr.toNat != neg)

/-- Is pred3 one a once-only instruction takes, and NEGP one that a group may hold with it (R154, R166)? -/
def condOk (pr : BitVec 3) (neg : Bool) : Prop := (pr = 7 ∨ pr.toNat < 4) ∧ (pr = 7 → neg = false)

/-! ## Turns -/

/-- Caravan `c` of block `x` is the agent that issues next: its level is one of the three; its open hint group is `hs`; no result
on its way or not safely spaced stands before it (R157, R159); and another v register can be shadowed without a checkpoint
(R389); an epoch is open, and nothing it has committed has still to wait for a bind (R326, R444). -/
structure Turn (s : State) (x : Block) (c : Caravan) (hs : List W32) : Prop where
  cur : s.cur = .car x.id c.n
  block : s.block? x.id = some x
  car : x.car? c.n = some c
  group : c.hints = hs
  live : c.status ≠ .ended
  level : c.plv ≤ 2
  spaced : c.fix = []
  settled : ∀ e ∈ c.epochs, e.pend = []
  opened : c.epochs ≠ []
  late : c.late = []
  room : c.shadowed.length < 16

/-- The same of the sequencer `q` of block `x`. -/
structure SeqTurn (s : State) (x : Block) (q : Sequencer) (hs : List W32) : Prop where
  cur : s.cur = .seq x.id
  block : s.block? x.id = some x
  seq : x.seq = some q
  group : q.hints = hs
  live : q.status ≠ .ended
  spaced : q.fix = []

/-- A caravan holds no operation until a commit: to become non-speculative changes no memory (R103, R104). -/
def Quiet (c : Caravan) : Prop := ∀ e ∈ c.epochs, e.acts = []

/-! ## What stays -/

/-- Nothing outside block `b` changes but the clock, the agenda and the free-value counter. -/
structure OnlyBlock (s t : State) (b : Nat) : Prop where
  rest : { t with blocks := s.blocks, clk := s.clk, agenda := s.agenda, free := s.free } = s
  others : ∀ k, k ≠ b → t.block? k = s.block? k

/-- After an instruction that changes nothing but its caravan's registers: the caravan's registers are `r`, past the instruction;
its hint group is spent, and what is kept of a last word of R184; its status word, its exception registers, every other caravan, the block's tiles, rings, barriers and
local store, and all else stand as before. -/
def RegsBecome (s t : State) (x : Block) (c : Caravan) (r : CRegs) : Prop :=
  OnlyBlock s t x.id ∧ ∃ y d, t.block? x.id = some y ∧ y.car? c.n = some d ∧ { y with cars := x.cars } = x ∧
    (∀ k, k ≠ c.n → y.car? k = x.car? k) ∧
    d.regs = { r with pc := c.regs.pc + 4 } ∧ d.hints = [] ∧ d.status = .running ∧
    { d with regs := c.regs, hints := c.hints, fix := c.fix, nextIssue := c.nextIssue, epochs := c.epochs, status := c.status,
             multi := c.multi } = c

/-- The same for an instruction that makes its caravan non-speculative and changes its block: but for its caravans the block is
`y'`; the caravan's registers are `r`, past the instruction; its rollback counters and ESC may change (R394). -/
def BlockBecomes (s t : State) (x y' : Block) (c : Caravan) (r : CRegs) : Prop :=
  OnlyBlock s t x.id ∧ ∃ y d, t.block? x.id = some y ∧ y.car? c.n = some d ∧ { y with cars := y'.cars } = y' ∧
    (∀ k, k ≠ c.n → y.car? k = x.car? k) ∧
    d.regs = { r with pc := c.regs.pc + 4 } ∧ d.hints = [] ∧ d.status = .running ∧ d.cst &&& ~~~8 = c.cst &&& ~~~8 ∧
    { d with regs := c.regs, hints := c.hints, fix := c.fix, nextIssue := c.nextIssue, epochs := c.epochs, status := c.status,
             rbCur := c.rbCur, rbEsc := c.rbEsc, cst := c.cst, multi := c.multi } = c

/-- The same for a sequencer: its g registers and conditions become those of `q'`. -/
def SeqBecomes (s t : State) (x : Block) (q q' : Sequencer) : Prop :=
  OnlyBlock s t x.id ∧ ∃ y d, t.block? x.id = some y ∧ y.seq = some d ∧ { y with seq := x.seq } = x ∧
    d.g = q'.g ∧ d.c = q'.c ∧ d.pc = q.pc + 4 ∧ d.hints = [] ∧ d.status = .running ∧
    { d with pc := q.pc, g := q.g, c := q.c, hints := q.hints, fix := q.fix, nextIssue := q.nextIssue, status := q.status } = q

/-- The same for a sequencer's instruction that changes its block: but for its sequencer the block is `y'`. -/
def SeqBlockBecomes (s t : State) (x y' : Block) (q q' : Sequencer) : Prop :=
  OnlyBlock s t x.id ∧ ∃ y d, t.block? x.id = some y ∧ y.seq = some d ∧ { y with seq := y'.seq } = y' ∧
    d.g = q'.g ∧ d.c = q'.c ∧ d.pc = q.pc + 4 ∧ d.hints = [] ∧ d.status = .running ∧
    { d with pc := q.pc, g := q.g, c := q.c, hints := q.hints, fix := q.fix, nextIssue := q.nextIssue, status := q.status } = q

/-- The caravan that has run an instruction: its registers, the pc among them, are `r`; its hint group is spent and it runs on; its
level and fields of CST but ESC, its exception registers, its window and its scope counts stand as before. -/
def CarIs (t : State) (x : Block) (c : Caravan) (r : CRegs) : Prop :=
  ∃ d, t.car? x.id c.n = some d ∧ d.regs = r ∧ d.hints = [] ∧ d.status = .running ∧ d.cst &&& ~~~8 = c.cst &&& ~~~8 ∧ d.epc = c.epc ∧
    d.ecst = c.ecst ∧ d.emask = c.emask ∧ d.frec = c.frec ∧ d.vb = c.vb ∧ d.scope = c.scope

/-- Registers with the pc past the instruction. -/
def past (r : CRegs) : CRegs := { r with pc := r.pc + 4 }

/-- Outside the caravan that has made an access, only the lines and translations its core's caches hold, the clock and the agenda
may change. -/
structure AccessFrame (s t : State) (x : Block) (c : Caravan) : Prop where
  rest : { t with blocks := s.blocks, cores := s.cores, clk := s.clk, agenda := s.agenda, free := s.free } = s
  others : ∀ k, k ≠ x.id → t.block? k = s.block? k
  block : ∃ y, t.block? x.id = some y ∧ { y with cars := x.cars } = x ∧ ∀ k, k ≠ c.n → y.car? k = x.car? k
  cores : ∀ k, (t.core? k).map (fun z => { z with l1 := [], consts := [], tlb := [] }) =
    (s.core? k).map (fun z => { z with l1 := [], consts := [], tlb := [] })

/-- Every memory byte reads as before: device memory, memory of other pods, and every local store (R97). -/
def BytesKept (s t : State) : Prop := t.far = s.far ∧ ∀ l, t.peek l = s.peek l

end Sys2Proof
end

