-- ==== Sys2Proof/Certificates/Slice0/Obligations.lean ====
section
/-! DEFINITION. The statements for the provers, and the tables of instruction forms they range over: for each instruction of a family
the registers it names, what the spec asks of its fields, and the value it gives. -/
namespace Sys2Proof.Claims
open Sys2Proof Sys2Proof.Machine

/-! ## Instructions that execute per thread and write a v register -/

/-- A per-thread instruction as a claim sees it: its predicate field, the v register it writes, the v registers it reads, whether its
fields are ones the spec accepts, whether porters may not issue it (R35), and the value of each thread, from the registers before
the instruction and the level. -/
structure LaneForm where
  pr : BitVec 3
  dst : BitVec 6
  srcs : List (BitVec 6)
  ok : Bool
  vectorOnly : Bool
  value : CRegs → Nat → Nat → Word

/-- Thread t's 64 bits of v register r. -/
def lane (x : CRegs) (r : BitVec 6) (t : Nat) : Word := vget (vget x.v r.toNat) t

/-- A caravan's registers after a lane form, its predicate negated or not: the active threads of the register it names have new
values (R153). -/
def LaneForm.after (l : LaneForm) (c : Caravan) (neg : Bool) : CRegs :=
  c.regs.wrV l.dst.toNat (c.active l.pr.toNat neg) (vtab (l.value c.regs c.plv))

/-- What a lane form asks before it executes: NEGP only with a predicate, fields the spec accepts, registers below VB (R147), a role
that may issue it. -/
structure LaneForm.Ready (l : LaneForm) (c : Caravan) (neg : Bool) : Prop where
  negp : l.pr = 7 → neg = false
  fields : l.ok = true
  window : ∀ r ∈ l.dst :: l.srcs, r.toNat < c.vb
  role : l.vectorOnly = true → c.vector = true

/-- d from a and b, sub-element by sub-element. -/
def bin (f : FmtR) (op : IOp) : LaneForm :=
  ⟨f.pr, f.d, [f.a, f.b], true, false, fun x _ t => iopWord op (widthOf f.sz.toNat) (lane x f.a t) (lane x f.b t) (lane x f.d t)⟩
/-- The same on 64-bit values. -/
def binW (f : FmtW) (op : IOp) : LaneForm :=
  ⟨f.pr, f.d, [f.a, f.b], true, false, fun x _ t => iopWord op 64 (lane x f.a t) (lane x f.b t) (lane x f.d t)⟩
/-- The same on 32- or 64-bit values. -/
def binZ (f : FmtZ1) (op : IOp) : LaneForm :=
  ⟨f.pr, f.d, [f.a, f.b], true, false, fun x _ t => iopWord op (widthOf (2 + f.z1.toNat)) (lane x f.a t) (lane x f.b t) (lane x f.d t)⟩
/-- d from a alone. -/
def un (f : FmtZDA) (op : UOp) : LaneForm :=
  ⟨f.pr, f.d, [f.a], true, false, fun x _ t => uopWord op (widthOf f.sz.toNat) (lane x f.a t)⟩
/-- The same on 64-bit values. -/
def unW (f : FmtDA) (op : UOp) : LaneForm := ⟨f.pr, f.d, [f.a], true, false, fun x _ t => uopWord op 64 (lane x f.a t)⟩
/-- A pack (R192); sz2 0 is refused. -/
def pack (f : FmtZDA) (signed high : Bool) : LaneForm :=
  ⟨f.pr, f.d, [f.a], f.sz != 0, false, fun x _ t => packHalf signed high (widthOf f.sz.toNat) (lane x f.a t) (lane x f.d t)⟩
/-- An unpack (R192). -/
def unpack (f : FmtZDA) (signed high : Bool) : LaneForm :=
  ⟨f.pr, f.d, [f.a], f.sz != 0, false, fun x _ t => unpackHalf signed high (widthOf f.sz.toNat) (lane x f.a t)⟩

/-- The vector integer instructions that write a v register (R186, R187, R189 to R192). -/
inductive IntForm : Instr → LaneForm → Prop
  | add (f) : IntForm (.add f) (bin f .add)
  | sub (f) : IntForm (.sub f) (bin f .sub)
  | mul (f) : IntForm (.mul f) (bin f .mul)
  | mulhI (f) : IntForm (.mulhI f) (bin f .mulhI)
  | mulhN (f) : IntForm (.mulhN f) (bin f .mulhN)
  | mad (f) : IntForm (.mad f) (bin f .mad)
  | sad (f) : IntForm (.sad f) (bin f .sad)
  | minI (f) : IntForm (.minI f) (bin f .minI)
  | minN (f) : IntForm (.minN f) (bin f .minN)
  | maxI (f) : IntForm (.maxI f) (bin f .maxI)
  | maxN (f) : IntForm (.maxN f) (bin f .maxN)
  | shl (f) : IntForm (.shl f) (bin f .shl)
  | shrN (f) : IntForm (.shrN f) (bin f .shrN)
  | shrI (f) : IntForm (.shrI f) (bin f .shrI)
  | rotl (f) : IntForm (.rotl f) (bin f .rotl)
  | and (f) : IntForm (.and f) (binW f .and)
  | or (f) : IntForm (.or f) (binW f .or)
  | xor (f) : IntForm (.xor f) (binW f .xor)
  | bfx (f) : IntForm (.bfx f) (binZ f .bfx)
  | bfi (f) : IntForm (.bfi f) (binZ f .bfi)
  | mov (f) : IntForm (.mov f) (unW f .mov)
  | not (f) : IntForm (.not f) (unW f .not)
  | neg (f) : IntForm (.neg f) (un f .neg)
  | abs (f) : IntForm (.abs f) (un f .abs)
  | popc (f) : IntForm (.popc f) (un f .popc)
  | clz (f) : IntForm (.clz f) (un f .clz)
  | ctz (f) : IntForm (.ctz f) (un f .ctz)
  | brev (f) : IntForm (.brev f) (un f .brev)
  | packlI (f) : IntForm (.packlI f) (pack f true false)
  | unpklI (f) : IntForm (.unpklI f) (unpack f true false)
  | packhI (f) : IntForm (.packhI f) (pack f true true)
  | unpkhI (f) : IntForm (.unpkhI f) (unpack f true true)
  | packlN (f) : IntForm (.packlN f) (pack f false false)
  | unpklN (f) : IntForm (.unpklN f) (unpack f false false)
  | packhN (f) : IntForm (.packhN f) (pack f false true)
  | unpkhN (f) : IntForm (.unpkhN f) (unpack f false true)
  | sel (f) : IntForm (.sel f) ⟨f.pr, f.d, [f.a, f.b], true, false, fun x _ t => (lane x f.a t &&& lane x f.d t) ||| (lane x f.b t &&& ~~~(lane x f.d t))⟩
  | lea (f) : IntForm (.lea f) ⟨f.pr, f.d, [f.b], true, false, fun x plv t => x.rd plv f.a.toNat + lane x f.b t * BitVec.ofNat 64 (2 ^ f.sz.toNat)⟩
  | bcast (f) : IntForm (.bcast f) ⟨f.pr, f.d, [], true, false, fun x plv _ => x.rd plv f.a.toNat⟩
  | pmask (f) : IntForm (.pmask f) ⟨f.pr, f.d, [], f.a.toNat < 8, false, fun x _ t => if bitAt (x.rdP f.a.toNat) t then BitVec.allOnes 64 else 0⟩
  | rdtid (f) : IntForm (.rdtid f) ⟨f.pr, f.d, [], true, false, fun _ _ t => BitVec.ofNat 64 t⟩

/-- The floating minimum and maximum, sign and class forms, and `swz` (R200, R202, R213): no rounding. -/
inductive FloatForm : Instr → LaneForm → Prop
  | fmin (f) : FloatForm (.fmin f) ⟨f.pr, f.d, [f.a, f.b], f.sz != 0, true, fun x _ t => let fm := Fmt.ofSize f.sz.toNat
      ofElems fm.width fun k => fm.pick false (elem fm.width (lane x f.a t) k) (elem fm.width (lane x f.b t) k)⟩
  | fminBf16 (f) : FloatForm (.fminBf16 f) ⟨f.pr, f.d, [f.a, f.b], true, true, fun x _ t =>
      ofElems 16 fun k => Fmt.bf16.pick false (elem 16 (lane x f.a t) k) (elem 16 (lane x f.b t) k)⟩
  | fmax (f) : FloatForm (.fmax f) ⟨f.pr, f.d, [f.a, f.b], f.sz != 0, true, fun x _ t => let fm := Fmt.ofSize f.sz.toNat
      ofElems fm.width fun k => fm.pick true (elem fm.width (lane x f.a t) k) (elem fm.width (lane x f.b t) k)⟩
  | fmaxBf16 (f) : FloatForm (.fmaxBf16 f) ⟨f.pr, f.d, [f.a, f.b], true, true, fun x _ t =>
      ofElems 16 fun k => Fmt.bf16.pick true (elem 16 (lane x f.a t) k) (elem 16 (lane x f.b t) k)⟩
  | fneg (f) : FloatForm (.fneg f) ⟨f.pr, f.d, [f.a], f.sz != 0, true, fun x _ t => let fm := Fmt.ofSize f.sz.toNat
      ofElems fm.width fun k => fm.flip (elem fm.width (lane x f.a t) k)⟩
  | fnegBf16 (f) : FloatForm (.fnegBf16 f) ⟨f.pr, f.d, [f.a], true, true, fun x _ t => ofElems 16 fun k => Fmt.bf16.flip (elem 16 (lane x f.a t) k)⟩
  | fabs (f) : FloatForm (.fabs f) ⟨f.pr, f.d, [f.a], f.sz != 0, true, fun x _ t => let fm := Fmt.ofSize f.sz.toNat
      ofElems fm.width fun k => fm.clear (elem fm.width (lane x f.a t) k)⟩
  | fabsBf16 (f) : FloatForm (.fabsBf16 f) ⟨f.pr, f.d, [f.a], true, true, fun x _ t => ofElems 16 fun k => Fmt.bf16.clear (elem 16 (lane x f.a t) k)⟩
  | fclass (f) : FloatForm (.fclass f) ⟨f.pr, f.d, [f.a], f.sz != 0, true, fun x _ t => let fm := Fmt.ofSize f.sz.toNat
      ofElems fm.width fun k => fm.class (elem fm.width (lane x f.a t) k)⟩
  | fclassBf16 (f) : FloatForm (.fclassBf16 f) ⟨f.pr, f.d, [f.a], true, true, fun x _ t => ofElems 16 fun k => Fmt.bf16.class (elem 16 (lane x f.a t) k)⟩
  | swz (f) : FloatForm (.swz f) ⟨f.pr, f.d, [f.a, f.b], true, true, fun x _ t => ofElems 8 fun i =>
      let s := elem 8 (lane x f.b t) i
      let y := if s % 16 < 8 then elem 8 (lane x f.a t) (s % 16) else elem 8 (lane x f.d t) (s % 16 - 8)
      if s / 128 = 1 then 0 else if s / 64 % 2 = 1 then (if y / 128 = 1 then 255 else 0) else y⟩

/-- A special function of both f32 sub-elements. -/
def special (f : FmtDA) (op : Nat) : LaneForm :=
  ⟨f.pr, f.d, [f.a], true, true, fun x _ t => ofElems 32 fun k => specialCode op (elem 32 (lane x f.a t) k)⟩

/-- The special functions of f32 (R203, R204). -/
inductive SpecialForm : Instr → LaneForm → Prop
  | rcp (f) : SpecialForm (.rcp f) (special f 0)
  | rsq (f) : SpecialForm (.rsq f) (special f 1)
  | sqrt (f) : SpecialForm (.sqrt f) (special f 2)
  | ex2 (f) : SpecialForm (.ex2 f) (special f 3)
  | lg2 (f) : SpecialForm (.lg2 f) (special f 4)
  | sinpi (f) : SpecialForm (.sinpi f) (special f 5)
  | cospi (f) : SpecialForm (.cospi f) (special f 6)
  | tanh (f) : SpecialForm (.tanh f) (special f 7)

/-- A rounding instruction: its lane form takes the rounding mode, SAT, and each element's draw (R130, R136); `n` elements a thread. -/
structure RoundForm where
  pr : BitVec 3
  dst : BitVec 6
  srcs : List (BitVec 6)
  ok : Bool
  n : Nat
  value : CRegs → BitVec 3 → Bool → (Nat → Nat) → Nat → Word

/-- A caravan's registers after a rounding form: the active threads have new values, and GS has moved on by the draws made. -/
def RoundForm.after (l : RoundForm) (c : Caravan) (rm : BitVec 3) (sat neg : Bool) : CRegs :=
  let m := c.active l.pr.toNat neg
  let (ds, gs) := drawsFor rm.toNat l.n m c.regs.gs
  { c.regs.wrV l.dst.toNat m (vtab fun t => l.value c.regs rm sat (drawAt ds l.n m t) t) with gs := gs }

/-- The same of a rounding form, issued by a vector caravan (R35), under a rounding mode the spec gives (R130). -/
structure RoundForm.Ready (l : RoundForm) (c : Caravan) (rm : BitVec 3) (neg : Bool) : Prop where
  negp : l.pr = 7 → neg = false
  mode : rm.toNat ≤ 4
  fields : l.ok = true
  window : ∀ r ∈ l.dst :: l.srcs, r.toNat < c.vb
  role : c.vector = true

/-- Rounding arithmetic on the elements of a, b and d (R199): `g` is the exact result, told whether the mode is RDN. -/
def arith (fm : Fmt) (pr : BitVec 3) (ok : Bool) (d a b : BitVec 6) (g : Bool → Machine.Num → Machine.Num → Machine.Num → Machine.Num) : RoundForm :=
  ⟨pr, d, [a, b], ok, 64 / fm.width, fun x rm sat draw t => ofElems fm.width fun k =>
    let v := fun r => fm.decode (elem fm.width (lane x r t) k)
    fm.round rm.toNat sat (draw k) (g (rm == 2) (v a) (v b) (v d))⟩
/-- A conversion between two element types (R205 to R207). -/
def conv (pr : BitVec 3) (sz : BitVec 2) (d a : BitVec 6) (dest : Elem) (src : Option Elem) : RoundForm :=
  let w := widthOf sz.toNat
  ⟨pr, d, [a], src.isSome && widerIs sz.toNat dest (src.getD dest), 64 / w, fun x rm sat draw t => ofElems w fun k =>
    dest.code rm.toNat sat (draw k) ((src.getD dest).value (elem w (lane x a t) k))⟩

/-- The rounding arithmetic and the conversions (R199, R206, R207). -/
inductive RoundedForm : Instr → RoundForm → Prop
  | fadd (f) : RoundedForm (.fadd f) (arith (.ofSize f.sz.toNat) f.pr (f.sz != 0) f.d f.a f.b fun dn a b _ => a.add dn b)
  | faddBf16 (f) : RoundedForm (.faddBf16 f) (arith .bf16 f.pr true f.d f.a f.b fun dn a b _ => a.add dn b)
  | fsub (f) : RoundedForm (.fsub f) (arith (.ofSize f.sz.toNat) f.pr (f.sz != 0) f.d f.a f.b fun dn a b _ => a.add dn b.neg)
  | fsubBf16 (f) : RoundedForm (.fsubBf16 f) (arith .bf16 f.pr true f.d f.a f.b fun dn a b _ => a.add dn b.neg)
  | fmul (f) : RoundedForm (.fmul f) (arith (.ofSize f.sz.toNat) f.pr (f.sz != 0) f.d f.a f.b fun _ a b _ => a.mul b)
  | fmulBf16 (f) : RoundedForm (.fmulBf16 f) (arith .bf16 f.pr true f.d f.a f.b fun _ a b _ => a.mul b)
  | fma (f) : RoundedForm (.fma f) (arith (.ofSize f.sz.toNat) f.pr (f.sz != 0) f.d f.a f.b fun dn a b d => (a.mul b).add dn d)
  | fmaBf16 (f) : RoundedForm (.fmaBf16 f) (arith .bf16 f.pr true f.d f.a f.b fun dn a b d => (a.mul b).add dn d)
  | cvtFloat (f) : RoundedForm (.cvtFloat f) (conv f.pr f.sz f.d f.a ((typeElem (8 + f.e.toNat)).getD (.flt .f32)) (typeElem f.src.toNat))
  | cvtInt (f) : RoundedForm (.cvtInt f) (conv f.pr f.sz f.d f.a ((typeElem f.e.toNat).getD (.flt .f32)) (typeElem (8 + f.src.toNat)))

/-- A cross-lane instruction (R214 to R220): as a lane form, its values from the registers and the active threads. -/
structure CrossForm where
  pr : BitVec 3
  dst : BitVec 6
  srcs : List (BitVec 6)
  ok : Bool
  value : CRegs → Nat → W32 → VReg

/-- A caravan's registers once a cross-lane instruction's result stands. -/
def CrossForm.after (l : CrossForm) (c : Caravan) (neg : Bool) : CRegs :=
  let m := c.active l.pr.toNat neg
  c.regs.wrV l.dst.toNat m (l.value c.regs c.plv m)

/-- What a cross-lane instruction asks before it executes. -/
structure CrossForm.Ready (l : CrossForm) (c : Caravan) (neg : Bool) : Prop where
  negp : l.pr = 7 → neg = false
  fields : l.ok = true
  window : ∀ r ∈ l.dst :: l.srcs, r.toNat < c.vb

/-- The exchanges and the reads of a predicate over all threads (R215, R219), which give their result at once. -/
inductive ExchangeForm : Instr → CrossForm → Prop
  | lxch (f) : ExchangeForm (.lxch f) ⟨f.pr, f.d, [f.a, f.b], true, fun x _ _ => let w := widthOf f.sz.toNat
      vtab fun t => ofElems w fun k => posElem (vget x.v f.a.toNat) w (posElem (vget x.v f.b.toNat) w (t * (64 / w) + k) % (32 * (64 / w)))⟩
  | lbcast (f) : ExchangeForm (.lbcast f) ⟨f.pr, f.d, [f.a], true, fun x plv _ => let w := widthOf f.sz.toNat
      vtab fun _ => ofElems w fun _ => posElem (vget x.v f.a.toNat) w ((x.rd plv f.b.toNat).toNat % (32 * (64 / w)))⟩
  | lballot (f) : ExchangeForm (.lballot f) ⟨f.pr, f.d, [], f.a.toNat < 8, fun x _ m => vtab fun _ => (m &&& x.rdP f.a.toNat).setWidth 64⟩
  | lcount (f) : ExchangeForm (.lcount f) ⟨f.pr, f.d, [], f.a.toNat < 8, fun x _ m =>
      vtab fun t => BitVec.ofNat 64 ((List.range t).countP fun j => bitAt (m &&& x.rdP f.a.toNat) j)⟩

/-- A reduction in order of position (R217). -/
def red (pr : BitVec 3) (d a : BitVec 6) (ok : Bool) (w : Nat) (fo : Fold) : CrossForm :=
  ⟨pr, d, [a], ok, fun x _ m => vtab fun _ => ofElems w fun _ =>
    (contributions (vget x.v a.toNat) w m).foldl (fun acc p => fo.op acc p.2) fo.unit⟩
/-- A floating sum along the tree of R141, inactive positions at the identity. -/
def redTree (pr : BitVec 3) (d a : BitVec 6) (ok : Bool) (w : Nat) (fo : Fold) : CrossForm :=
  ⟨pr, d, [a], ok, fun x _ m => vtab fun _ => ofElems w fun _ => (tree fo.op 8 ((List.range (32 * (64 / w))).map fun p =>
    if bitAt m (p / (64 / w)) then posElem (vget x.v a.toNat) w p else fo.unit)).headD fo.unit⟩
/-- The best contributing value with the lowest position that holds it, the value in the low 32 bits (R217). -/
def redIdx (pr : BitVec 3) (d a : BitVec 6) (ok : Bool) (w unit : Nat) (counts : Nat → Bool) (better : Nat → Nat → Bool)
    (wide : Nat → Nat) : CrossForm :=
  ⟨pr, d, [a], ok, fun x _ m =>
    let best := match (contributions (vget x.v a.toNat) w m).filter (fun p => counts p.2) with
      | [] => (2 ^ 32 - 1, unit)
      | p :: ps => ps.foldl (fun (acc q : Nat × Nat) => if better q.2 acc.2 then q else acc) p
    vtab fun _ => BitVec.ofNat 64 (wide best.2 + best.1 * 2 ^ 32)⟩
/-- A scan (R218). -/
def scanned (pr : BitVec 3) (d a : BitVec 6) (ok : Bool) (w : Nat) (excl : BitVec 1) (fo : Fold) : CrossForm :=
  ⟨pr, d, [a], ok, fun x _ m =>
    let n := 64 / w
    let out := (scanList fo.op (excl == 1) fo.unit ((List.range (32 * n)).map fun p => (bitAt m (p / n), posElem (vget x.v a.toNat) w p))).toArray
    vtab fun t => ofElems w fun k => out.getD (t * n + k) 0⟩
/-- The active threads whose key matches (R220). -/
def matched (pr : BitVec 3) (d a : BitVec 6) (ok : Bool) (w : Nat) (same : Nat → Nat → Bool) : CrossForm :=
  ⟨pr, d, [a], ok, fun x _ m => vtab fun t =>
    (maskOf fun j => bitAt m j && same (elem w (lane x a t) 0) (elem w (lane x a j) 0)).setWidth 64⟩

/-- The reductions, scans and matches (R216 to R218, R220), whose results land later (R159, R184). -/
inductive GatherForm : Instr → CrossForm → Prop
  | lredAdd (f) : GatherForm (.lredAdd f) (red f.pr f.d f.a true (widthOf f.sz.toNat) (intFold .add (widthOf f.sz.toNat)))
  | lscanAdd (f) : GatherForm (.lscanAdd f) (scanned f.pr f.d f.a true (widthOf f.sz.toNat) f.x (intFold .add (widthOf f.sz.toNat)))
  | lredMinI (f) : GatherForm (.lredMinI f) (red f.pr f.d f.a true (widthOf f.sz.toNat) (intFold .minI (widthOf f.sz.toNat)))
  | lscanMinI (f) : GatherForm (.lscanMinI f) (scanned f.pr f.d f.a true (widthOf f.sz.toNat) f.x (intFold .minI (widthOf f.sz.toNat)))
  | lredMinN (f) : GatherForm (.lredMinN f) (red f.pr f.d f.a true (widthOf f.sz.toNat) (intFold .minN (widthOf f.sz.toNat)))
  | lscanMinN (f) : GatherForm (.lscanMinN f) (scanned f.pr f.d f.a true (widthOf f.sz.toNat) f.x (intFold .minN (widthOf f.sz.toNat)))
  | lredMaxI (f) : GatherForm (.lredMaxI f) (red f.pr f.d f.a true (widthOf f.sz.toNat) (intFold .maxI (widthOf f.sz.toNat)))
  | lscanMaxI (f) : GatherForm (.lscanMaxI f) (scanned f.pr f.d f.a true (widthOf f.sz.toNat) f.x (intFold .maxI (widthOf f.sz.toNat)))
  | lredMaxN (f) : GatherForm (.lredMaxN f) (red f.pr f.d f.a true (widthOf f.sz.toNat) (intFold .maxN (widthOf f.sz.toNat)))
  | lscanMaxN (f) : GatherForm (.lscanMaxN f) (scanned f.pr f.d f.a true (widthOf f.sz.toNat) f.x (intFold .maxN (widthOf f.sz.toNat)))
  | lredAnd (f) : GatherForm (.lredAnd f) (red f.pr f.d f.a true (widthOf f.sz.toNat) (intFold .and (widthOf f.sz.toNat)))
  | lscanAnd (f) : GatherForm (.lscanAnd f) (scanned f.pr f.d f.a true (widthOf f.sz.toNat) f.x (intFold .and (widthOf f.sz.toNat)))
  | lredOr (f) : GatherForm (.lredOr f) (red f.pr f.d f.a true (widthOf f.sz.toNat) (intFold .or (widthOf f.sz.toNat)))
  | lscanOr (f) : GatherForm (.lscanOr f) (scanned f.pr f.d f.a true (widthOf f.sz.toNat) f.x (intFold .or (widthOf f.sz.toNat)))
  | lredXor (f) : GatherForm (.lredXor f) (red f.pr f.d f.a true (widthOf f.sz.toNat) (intFold .xor (widthOf f.sz.toNat)))
  | lscanXor (f) : GatherForm (.lscanXor f) (scanned f.pr f.d f.a true (widthOf f.sz.toNat) f.x (intFold .xor (widthOf f.sz.toNat)))
  | lredMinIdxI (f) : GatherForm (.lredMinIdxI f) (redIdx f.pr f.d f.a (f.sz != 3) (widthOf f.sz.toNat) (intFold .minI (widthOf f.sz.toNat)).unit (fun _ => true)
      (fun p q => sInt (widthOf f.sz.toNat) p < sInt (widthOf f.sz.toNat) q) (fun x => wrapInt 32 (sInt (widthOf f.sz.toNat) x)))
  | lredMinIdxN (f) : GatherForm (.lredMinIdxN f) (redIdx f.pr f.d f.a (f.sz != 3) (widthOf f.sz.toNat) (intFold .minN (widthOf f.sz.toNat)).unit (fun _ => true)
      (fun p q => p < q) (fun x => x))
  | lredMaxIdxI (f) : GatherForm (.lredMaxIdxI f) (redIdx f.pr f.d f.a (f.sz != 3) (widthOf f.sz.toNat) (intFold .maxI (widthOf f.sz.toNat)).unit (fun _ => true)
      (fun p q => sInt (widthOf f.sz.toNat) q < sInt (widthOf f.sz.toNat) p) (fun x => wrapInt 32 (sInt (widthOf f.sz.toNat) x)))
  | lredMaxIdxN (f) : GatherForm (.lredMaxIdxN f) (redIdx f.pr f.d f.a (f.sz != 3) (widthOf f.sz.toNat) (intFold .maxN (widthOf f.sz.toNat)).unit (fun _ => true)
      (fun p q => q < p) (fun x => x))
  | lredFadd (f) : GatherForm (.lredFadd f) (redTree f.pr f.d f.a (f.sz != 0) (widthOf f.sz.toNat) (addFold (.ofSize f.sz.toNat)))
  | lscanFadd (f) : GatherForm (.lscanFadd f) (scanned f.pr f.d f.a (f.sz != 0) (widthOf f.sz.toNat) f.x (addFold (.ofSize f.sz.toNat)))
  | lredFmin (f) : GatherForm (.lredFmin f) (red f.pr f.d f.a (f.sz != 0) (widthOf f.sz.toNat) (pickFold (.ofSize f.sz.toNat) false))
  | lscanFmin (f) : GatherForm (.lscanFmin f) (scanned f.pr f.d f.a (f.sz != 0) (widthOf f.sz.toNat) f.x (pickFold (.ofSize f.sz.toNat) false))
  | lredFminIdx (f) : GatherForm (.lredFminIdx f) (redIdx f.pr f.d f.a (f.sz != 0 && f.sz != 3) (Fmt.ofSize f.sz.toNat).width ((Fmt.ofSize f.sz.toNat).infinity false) (fun z => !((Fmt.ofSize f.sz.toNat).decode z).isNan)
      (fun p q => ((Fmt.ofSize f.sz.toNat).decode p).below ((Fmt.ofSize f.sz.toNat).decode q)) id)
  | lredFmax (f) : GatherForm (.lredFmax f) (red f.pr f.d f.a (f.sz != 0) (widthOf f.sz.toNat) (pickFold (.ofSize f.sz.toNat) true))
  | lscanFmax (f) : GatherForm (.lscanFmax f) (scanned f.pr f.d f.a (f.sz != 0) (widthOf f.sz.toNat) f.x (pickFold (.ofSize f.sz.toNat) true))
  | lredFmaxIdx (f) : GatherForm (.lredFmaxIdx f) (redIdx f.pr f.d f.a (f.sz != 0 && f.sz != 3) (Fmt.ofSize f.sz.toNat).width ((Fmt.ofSize f.sz.toNat).infinity true) (fun z => !((Fmt.ofSize f.sz.toNat).decode z).isNan)
      (fun p q => ((Fmt.ofSize f.sz.toNat).decode q).below ((Fmt.ofSize f.sz.toNat).decode p)) id)
  | lredFaddBf16 (f) : GatherForm (.lredFaddBf16 f) (redTree f.pr f.d f.a true 16 (addFold .bf16))
  | lscanFaddBf16 (f) : GatherForm (.lscanFaddBf16 f) (scanned f.pr f.d f.a true 16 f.x (addFold .bf16))
  | lredFminBf16 (f) : GatherForm (.lredFminBf16 f) (red f.pr f.d f.a true 16 (pickFold .bf16 false))
  | lscanFminBf16 (f) : GatherForm (.lscanFminBf16 f) (scanned f.pr f.d f.a true 16 f.x (pickFold .bf16 false))
  | lredFminIdxBf16 (f) : GatherForm (.lredFminIdxBf16 f) (redIdx f.pr f.d f.a true Fmt.bf16.width (Fmt.bf16.infinity false) (fun z => !(Fmt.bf16.decode z).isNan)
      (fun p q => (Fmt.bf16.decode p).below (Fmt.bf16.decode q)) id)
  | lredFmaxBf16 (f) : GatherForm (.lredFmaxBf16 f) (red f.pr f.d f.a true 16 (pickFold .bf16 true))
  | lscanFmaxBf16 (f) : GatherForm (.lscanFmaxBf16 f) (scanned f.pr f.d f.a true 16 f.x (pickFold .bf16 true))
  | lredFmaxIdxBf16 (f) : GatherForm (.lredFmaxIdxBf16 f) (redIdx f.pr f.d f.a true Fmt.bf16.width (Fmt.bf16.infinity true) (fun z => !(Fmt.bf16.decode z).isNan)
      (fun p q => (Fmt.bf16.decode q).below (Fmt.bf16.decode p)) id)
  | lmatch (f) : GatherForm (.lmatch f) (matched f.pr f.d f.a true (widthOf f.sz.toNat) (fun p q => p == q))
  | lmatchF (f) : GatherForm (.lmatchF f) (matched f.pr f.d f.a (f.sz != 0) (widthOf f.sz.toNat) (Fmt.ofSize f.sz.toNat).sameKey)
  | lmatchBf16 (f) : GatherForm (.lmatchBf16 f) (matched f.pr f.d f.a true 16 Fmt.bf16.sameKey)

/-! ## Predicates -/

/-- A per-thread instruction that writes a predicate: the bit of each active thread (R188, R191, R201). -/
structure PredForm where
  pr : BitVec 3
  dst : Nat
  srcs : List (BitVec 6)
  ok : Bool
  vectorOnly : Bool
  value : CRegs → Nat → Bool

/-- A caravan's registers after it: inactive threads keep their bits; p7 takes nothing (R145). -/
def PredForm.after (l : PredForm) (c : Caravan) (neg : Bool) : CRegs :=
  let m := c.active l.pr.toNat neg
  c.regs.wrP l.dst (maskOf fun t => if bitAt m t then l.value c.regs t else bitAt (c.regs.rdP l.dst) t)

/-- What it asks before it executes. -/
structure PredForm.Ready (l : PredForm) (c : Caravan) (neg : Bool) : Prop where
  negp : l.pr = 7 → neg = false
  fields : l.ok = true
  window : ∀ r ∈ l.srcs, r.toNat < c.vb
  role : l.vectorOnly = true → c.vector = true

/-- The compares into predicates and `pnot`. -/
inductive PredicateForm : Instr → PredForm → Prop
  | setp (f) : PredicateForm (.setp f) ⟨f.pr, f.q.toNat, [f.a, f.b], true, false, fun x t => let w := widthOf f.sz.toNat
      intCond f.c.toNat w (elem w (lane x f.a t) 0) (elem w (lane x f.b t) 0)⟩
  | pnot (f) : PredicateForm (.pnot f) ⟨f.pr, f.d.toNat, [], f.d.toNat < 8 && f.a.toNat < 8, false, fun x t => !(bitAt (x.rdP f.a.toNat) t)⟩
  | fsetp (f) : PredicateForm (.fsetp f) ⟨f.pr, f.q.toNat, [f.a, f.b], f.sz != 0, true, fun x t => let fm := Fmt.ofSize f.sz.toNat
      floatCond f.c.toNat (fm.decode (elem fm.width (lane x f.a t) 0)) (fm.decode (elem fm.width (lane x f.b t) 0))⟩
  | fsetpBf16 (f) : PredicateForm (.fsetpBf16 f) ⟨f.pr, f.q.toNat, [f.a, f.b], true, true, fun x t =>
      floatCond f.c.toNat (Fmt.bf16.decode (elem 16 (lane x f.a t) 0)) (Fmt.bf16.decode (elem 16 (lane x f.b t) 0))⟩

/-! ## Uniform instructions -/

/-- A once-only instruction that writes one uniform register: its condition field, the registers it names, whether an IMM word may
stand before it, and its value from the registers and V. -/
structure UniForm where
  pr : BitVec 3
  dst : BitVec 6
  srcs : List (BitVec 6)
  ok : Bool
  imm : Option (BitVec 8)
  value : (Nat → Word) → Word → Word

/-- V of a form before which a group stands. -/
def UniForm.v (l : UniForm) (p : Option (BitVec 25)) : Word := match l.imm with | some i => immV p i | none => 0

/-- A caravan's registers after it; nothing where its condition is false. -/
def UniForm.after (l : UniForm) (c : Caravan) (p : Option (BitVec 25)) (neg : Bool) : CRegs :=
  if condHolds c.regs.c l.pr neg then c.regs.wr c.plv l.dst.toNat (l.value (c.regs.rd c.plv) (l.v p)) else c.regs
/-- A sequencer after it. -/
def UniForm.afterSeq (l : UniForm) (q : Sequencer) (p : Option (BitVec 25)) (neg : Bool) : Sequencer :=
  if condHolds q.c l.pr neg then q.wr l.dst.toNat (l.value q.rd (l.v p)) else q

/-- Two-address operations (R195). -/
def ubin (f : FmtZDA) (op : IOp) : UniForm :=
  ⟨f.pr, f.d, [f.a], true, none, fun r _ => iopWord op (widthOf f.sz.toNat) (r f.d.toNat) (r f.a.toNat) (r f.d.toNat)⟩
/-- The same on 64-bit values. -/
def ubinW (f : FmtDA) (op : IOp) : UniForm := ⟨f.pr, f.d, [f.a], true, none, fun r _ => iopWord op 64 (r f.d.toNat) (r f.a.toNat) (r f.d.toNat)⟩
/-- I-format operations (R194). -/
def uimm (f : FmtI) (g : Word → Word → Word) : UniForm := ⟨f.pr, f.d, [f.a], true, some f.i, fun r v => g (r f.a.toNat) v⟩
/-- Unary operations (R191). -/
def uun (f : FmtZDA) (op : UOp) : UniForm := ⟨f.pr, f.d, [f.a], true, none, fun r _ => uopWord op (widthOf f.sz.toNat) (r f.a.toNat)⟩
/-- The same on 64-bit values. -/
def uunW (f : FmtDA) (op : UOp) : UniForm := ⟨f.pr, f.d, [f.a], true, none, fun r _ => uopWord op 64 (r f.a.toNat)⟩
/-- Packs and unpacks (R192). -/
def upack (f : FmtZDA) (signed high : Bool) : UniForm :=
  ⟨f.pr, f.d, [f.a], f.sz != 0, none, fun r _ => packHalf signed high (widthOf f.sz.toNat) (r f.a.toNat) (r f.d.toNat)⟩
def uunpack (f : FmtZDA) (signed high : Bool) : UniForm :=
  ⟨f.pr, f.d, [f.a], f.sz != 0, none, fun r _ => unpackHalf signed high (widthOf f.sz.toNat) (r f.a.toNat)⟩

/-- The uniform instructions that write a register (R191, R192, R194, R195). -/
inductive UniformForm : Instr → UniForm → Prop
  | addU (f) : UniformForm (.addU f) (ubin f .add)
  | subU (f) : UniformForm (.subU f) (ubin f .sub)
  | mulU (f) : UniformForm (.mulU f) (ubin f .mul)
  | mulhIU (f) : UniformForm (.mulhIU f) (ubin f .mulhI)
  | mulhNU (f) : UniformForm (.mulhNU f) (ubin f .mulhN)
  | madU (f) : UniformForm (.madU f) (ubin f .mad)
  | sadU (f) : UniformForm (.sadU f) (ubin f .sad)
  | minIU (f) : UniformForm (.minIU f) (ubin f .minI)
  | minNU (f) : UniformForm (.minNU f) (ubin f .minN)
  | maxIU (f) : UniformForm (.maxIU f) (ubin f .maxI)
  | maxNU (f) : UniformForm (.maxNU f) (ubin f .maxN)
  | shlU (f) : UniformForm (.shlU f) (ubin f .shl)
  | shrNU (f) : UniformForm (.shrNU f) (ubin f .shrN)
  | shrIU (f) : UniformForm (.shrIU f) (ubin f .shrI)
  | rotlU (f) : UniformForm (.rotlU f) (ubin f .rotl)
  | andU (f) : UniformForm (.andU f) (ubinW f .and)
  | orU (f) : UniformForm (.orU f) (ubinW f .or)
  | xorU (f) : UniformForm (.xorU f) (ubinW f .xor)
  | bfxU (f) : UniformForm (.bfxU f) ⟨f.pr, f.d, [f.a], true, none, fun r _ =>
      iopWord .bfx (widthOf (2 + f.z1.toNat)) (r f.d.toNat) (r f.a.toNat) (r f.d.toNat)⟩
  | leaU (f) : UniformForm (.leaU f) ⟨f.pr, f.d, [f.a], true, none, fun r _ => r f.d.toNat + r f.a.toNat * BitVec.ofNat 64 (2 ^ f.sz.toNat)⟩
  | addImm (f) : UniformForm (.addImm f) (uimm f fun a v => a + v)
  | shlImm (f) : UniformForm (.shlImm f) (uimm f fun a v => if 64 ≤ v.toNat then 0 else a <<< v.toNat)
  | shrNImm (f) : UniformForm (.shrNImm f) (uimm f fun a v => if 64 ≤ v.toNat then 0 else a >>> v.toNat)
  | shrIImm (f) : UniformForm (.shrIImm f) (uimm f fun a v => a.sshiftRight (min v.toNat 63))
  | andImm (f) : UniformForm (.andImm f) (uimm f fun a v => a &&& v)
  | orImm (f) : UniformForm (.orImm f) (uimm f fun a v => a ||| v)
  | xorImm (f) : UniformForm (.xorImm f) (uimm f fun a v => a ^^^ v)
  | mulImm (f) : UniformForm (.mulImm f) (uimm f fun a v => a * v)
  | movU (f) : UniformForm (.movU f) (uunW f .mov)
  | notU (f) : UniformForm (.notU f) (uunW f .not)
  | negU (f) : UniformForm (.negU f) (uun f .neg)
  | absU (f) : UniformForm (.absU f) (uun f .abs)
  | popcU (f) : UniformForm (.popcU f) (uun f .popc)
  | clzU (f) : UniformForm (.clzU f) (uun f .clz)
  | ctzU (f) : UniformForm (.ctzU f) (uun f .ctz)
  | brevU (f) : UniformForm (.brevU f) (uun f .brev)
  | packlIU (f) : UniformForm (.packlIU f) (upack f true false)
  | unpklIU (f) : UniformForm (.unpklIU f) (uunpack f true false)
  | packhIU (f) : UniformForm (.packhIU f) (upack f true true)
  | unpkhIU (f) : UniformForm (.unpkhIU f) (uunpack f true true)
  | packlNU (f) : UniformForm (.packlNU f) (upack f false false)
  | unpklNU (f) : UniformForm (.unpklNU f) (uunpack f false false)
  | packhNU (f) : UniformForm (.packhNU f) (upack f false true)
  | unpkhNU (f) : UniformForm (.unpkhNU f) (uunpack f false true)
  | madUniform (f) : UniformForm (.madUniform f) ⟨f.pr, f.d, [f.a, f.b], true, none, fun r _ =>
      iopWord .mad (widthOf f.sz.toNat) (r f.a.toNat) (r f.b.toNat) (r f.d.toNat)⟩
  | bfiU (f) : UniformForm (.bfiU f) ⟨f.pr, f.d, [f.a, f.b], true, none, fun r _ =>
      iopWord .bfi (widthOf (2 + f.z1.toNat)) (r f.a.toNat) (r f.b.toNat) (r f.d.toNat)⟩
  | selU (f) : UniformForm (.selU f) ⟨f.pr, f.d, [f.a, f.b], true, none, fun r _ =>
      (r f.a.toNat &&& r f.d.toNat) ||| (r f.b.toNat &&& ~~~(r f.d.toNat))⟩

/-- A once-only instruction that writes a condition: its number, the uniform registers it reads, and its value. -/
structure CondForm where
  pr : BitVec 3
  dst : Nat
  srcs : List (BitVec 6)
  ok : Bool
  imm : Option (BitVec 8)
  value : (Nat → Word) → (Nat → Bool) → Word → Bool

/-- The conditions after it, from the uniform registers `r` and the conditions before it. -/
def CondForm.after (l : CondForm) (r : Nat → Word) (c : Vector Bool 4) (p : Option (BitVec 25)) (neg : Bool) : Vector Bool 4 :=
  if condHolds c l.pr neg then vset c l.dst (l.value r (vget c) (match l.imm with | some i => immV p i | none => 0)) else c

/-- The compares into conditions and `cnot` (R191, R196). -/
inductive ConditionForm : Instr → CondForm → Prop
  | csetp (f) : ConditionForm (.csetp f) ⟨f.pr, f.k.toNat, [f.a, f.b], true, none, fun r _ _ => let w := widthOf f.sz.toNat
      intCond f.c.toNat w (elem w (r f.a.toNat) 0) (elem w (r f.b.toNat) 0)⟩
  | csetpImm (f) : ConditionForm (.csetpImm f) ⟨f.pr, f.k.toNat, [f.a], true, some f.i, fun r _ v => intCond f.c.toNat 64 (r f.a.toNat).toNat v.toNat⟩
  | cnot (f) : ConditionForm (.cnot f) ⟨f.pr, f.d.toNat, [], f.d.toNat < 4 && f.a.toNat < 4, none, fun _ c _ => !(c f.a.toNat)⟩

/-- The counters (R264): rdclk at once; rdptp and rdenergy. -/
inductive CounterForm : Instr → BitVec 3 → BitVec 6 → (State → Who → Word) → Prop
  | rdclk (f) : CounterForm (.rdclk f) f.pr f.d (fun s _ => BitVec.ofNat 64 s.clk)
  | rdptp (f) : CounterForm (.rdptp f) f.pr f.d (fun s _ => BitVec.ofNat 64 (ptpValue s))
  | rdenergy (f) : CounterForm (.rdenergy f) f.pr f.d (fun s w => BitVec.ofNat 64 (energyValue s w))

end Sys2Proof.Claims

open Sys2Proof Sys2Proof.Machine Sys2Proof.Claims

/-! # Registers -/

/-- R153, R186, R187, R189 to R192, R200, R202 to R204, R213: at the turn of a caravan, a vector integer instruction, a floating form that
does not round, `swz` or a special function of f32 completes; the active threads of its destination take the values its table gives, no
other register, flag or byte changes, and the pc moves on. Where the model's bounds do not settle the rounding of a special function
(R204), its value is `Config.specialF32`, by the model's choice (log 9). -/
def Obligations.LaneInstructionWritesActiveLanes : Prop :=
  ∀ (s : State) (x : Block) (c : Caravan) (neg : Bool) (i : Instr) (l : LaneForm),
    IntForm i l ∨ FloatForm i l ∨ SpecialForm i l → Turn s x c (negpGroup neg) → l.Ready c neg →
    ∃ t, exec i s = .next t ∧ RegsBecome s t x c (l.after c neg) ∧ BytesKept s t

/-- R130, R136, R199, R205 to R207: rounding arithmetic and conversions, under every rounding mode, SAT and NEGP: each element is
the exact result rounded once; GS moves on by the draws of the active threads alone. -/
def Obligations.RoundedArithmeticWritesActiveLanes : Prop :=
  ∀ (s : State) (x : Block) (c : Caravan) (rm : BitVec 3) (sat neg : Bool) (i : Instr) (l : RoundForm),
    RoundedForm i l → Turn s x c (modGroup rm sat neg) → l.Ready c rm neg →
    ∃ t, exec i s = .next t ∧ RegsBecome s t x c (l.after c rm sat neg) ∧ BytesKept s t

/-- R141, R159, R184, R215 to R220: the exchanges, `lballot` and `lcount` read all threads as they were before the instruction; a
reduction, scan or match completes, and once its result has landed, as it does before any word that names its register issues, the
active threads hold it, and nothing else has changed. -/
def Obligations.CrossLaneReadsAllLanesBefore : Prop :=
  (∀ (s : State) (x : Block) (c : Caravan) (neg : Bool) (i : Instr) (l : CrossForm),
     ExchangeForm i l → Turn s x c (negpGroup neg) → l.Ready c neg →
     ∃ t, exec i s = .next t ∧ RegsBecome s t x c (l.after c neg) ∧ BytesKept s t) ∧
  (∀ (s : State) (x : Block) (c : Caravan) (neg : Bool) (i : Instr) (l : CrossForm),
     GatherForm i l → Turn s x c (negpGroup neg) → l.Ready c neg →
     ∃ t, exec i s = .next t ∧ BytesKept s t ∧
       RegsBecome s (t.settleRegs s.cur [.v l.dst.toNat]) x c (l.after c neg))

/-- R60, R191 to R195, R154, R164: a uniform instruction of a caravan writes its register where its condition holds, with V from imm8
or IMM; a write to s0 is discarded and s56 to s63 are those of the level (R145, R330); in a sequencer it writes a g register (R170). -/
def Obligations.UniformInstructionWritesRegister : Prop :=
  (∀ (s : State) (x : Block) (c : Caravan) (p : Option (BitVec 25)) (neg : Bool) (i : Instr) (l : UniForm),
     UniformForm i l → Turn s x c (immGroup p ++ negpGroup neg) → condOk l.pr neg → l.ok = true → (p.isSome → l.imm.isSome) →
     ∃ t, exec i s = .next t ∧ RegsBecome s t x c (l.after c p neg) ∧ BytesKept s t) ∧
  (∀ (s : State) (x : Block) (q : Sequencer) (p : Option (BitVec 25)) (neg : Bool) (i : Instr) (l : UniForm),
     UniformForm i l → SeqTurn s x q (immGroup p ++ negpGroup neg) → condOk l.pr neg → l.ok = true → (p.isSome → l.imm.isSome) →
     (∀ r ∈ l.dst :: l.srcs, r.toNat < 16) →
     ∃ t, exec i s = .next t ∧ SeqBecomes s t x q (l.afterSeq q p neg) ∧ BytesKept s t)

/-- R188, R191, R196, R201: a compare into a predicate writes the bits of its active threads and keeps the others, a write to p7 being
discarded (R145); a compare into a condition, in a caravan and in a sequencer, writes it where its own condition holds. -/
def Obligations.CompareWritesPredicateOrCondition : Prop :=
  (∀ (s : State) (x : Block) (c : Caravan) (neg : Bool) (i : Instr) (l : PredForm),
     PredicateForm i l → Turn s x c (negpGroup neg) → l.Ready c neg →
     ∃ t, exec i s = .next t ∧ RegsBecome s t x c (l.after c neg) ∧ BytesKept s t) ∧
  (∀ (s : State) (x : Block) (p : Option (BitVec 25)) (neg : Bool) (i : Instr) (l : CondForm), ConditionForm i l →
     condOk l.pr neg → l.ok = true → (p.isSome → l.imm.isSome) →
     (∀ c : Caravan, Turn s x c (immGroup p ++ negpGroup neg) →
       ∃ t, exec i s = .next t ∧ RegsBecome s t x c { c.regs with c := l.after (c.regs.rd c.plv) c.regs.c p neg } ∧ BytesKept s t) ∧
     (∀ q : Sequencer, SeqTurn s x q (immGroup p ++ negpGroup neg) → (∀ r ∈ l.srcs, r.toNat < 16) →
       ∃ t, exec i s = .next t ∧ SeqBecomes s t x q { q with c := l.after q.rd q.c p neg } ∧ BytesKept s t))

/-! # Element formats named by a register -/

/-- R208 to R212: `cvt` to an 8-bit or 4-bit format named by an s register gives each active thread the pair of its rounded codes; from
such a format to f32, and from block-scaled codes with their shift count, the values; `qblk` finds each block's shift count from the
elements its active threads hold and gives each its codes with that count above them, landing later (R159). -/
def Obligations.NamedFormatsConvert : Prop :=
  (∀ (s : State) (x : Block) (c : Caravan) (rm : BitVec 3) (sat neg : Bool) (f : FmtW) (e : Elem),
     let l : RoundForm := ⟨f.pr, f.d, [f.a], true, 2, fun y rm sat draw t =>
       let code := fun k => e.code rm.toNat sat (draw k) (Fmt.f32.decode (elem 32 (lane y f.a t) k))
       pairWord e (code 0) (code 1) 0⟩
     Turn s x c (modGroup rm sat neg) → l.Ready c rm neg → scaleFmt false (c.regs.rd c.plv f.b.toNat) = some e →
     ∃ t, exec (.cvtXF32 f) s = .next t ∧ RegsBecome s t x c (l.after c rm sat neg) ∧ BytesKept s t) ∧
  (∀ (s : State) (x : Block) (c : Caravan) (neg : Bool) (f : FmtW) (e : Elem),
     let plain : LaneForm := ⟨f.pr, f.d, [f.a], true, true, fun y _ t =>
       ofElems 32 fun k => Fmt.f32.round 0 false 0 (e.value (pairCode e (lane y f.a t) k))⟩
     let blocked : LaneForm := ⟨f.pr, f.d, [f.a], true, true, fun y _ t =>
       let sh := sInt 8 ((lane y f.a t).toNat / 2 ^ 56)
       ofElems 32 fun k => if sh = -128 then 0 else Fmt.f32.round 0 false 0 ((e.value (pairCode e (lane y f.a t) k)).scale sh)⟩
     Turn s x c (negpGroup neg) → plain.Ready c neg → scaleFmt false (c.regs.rd c.plv f.b.toNat) = some e →
     (∃ t, exec (.cvtF32X f) s = .next t ∧ RegsBecome s t x c (plain.after c neg) ∧ BytesKept s t) ∧
     (∃ t, exec (.dqblk f) s = .next t ∧ RegsBecome s t x c (blocked.after c neg) ∧ BytesKept s t)) ∧
  (∀ (s : State) (x : Block) (c : Caravan) (rm : BitVec 3) (sat neg : Bool) (f : FmtW) (e : Elem),
     let m := c.active f.pr.toNat neg
     let lb := bitsOf (c.regs.rd c.plv f.b.toNat).toNat 9 8
     let l : RoundForm := ⟨f.pr, f.d, [f.a], true, 2, fun y rm sat draw t =>
       let sh := threadShift e y f.a.toNat lb m t
       let code := fun k => if sh = -128 then 0
         else e.code rm.toNat sat (draw k) ((Fmt.f32.decode (elem 32 (lane y f.a t) k)).scale (-sh))
       pairWord e (code 0) (code 1) (wrapInt 8 sh)⟩
     Turn s x c (modGroup rm sat neg) → l.Ready c rm neg → scaleFmt true (c.regs.rd c.plv f.b.toNat) = some e →
     ∃ t, exec (.qblk f) s = .next t ∧ BytesKept s t ∧
       RegsBecome s (t.settleRegs s.cur [.v f.d.toNat]) x c (l.after c rm sat neg))

/-! # Memory -/

namespace Sys2Proof.Claims
open Sys2Proof Sys2Proof.Machine

/-- The vector loads and stores: what they want of their addresses, and whether those are base plus dense offsets (R225). -/
inductive VectorLoad : Instr → FmtR → Want → Bool → Prop
  | ld (f) : VectorLoad (.ld f) f { read := true, decode := true, size := 2 ^ f.sz.toNat } false
  | ldOffset (f) : VectorLoad (.ldOffset f) f { read := true, decode := true, size := 2 ^ f.sz.toNat } true
  | ldl (f) : VectorLoad (.ldl f) f { read := true, own := true, size := 2 ^ f.sz.toNat } false
  | ldlOffset (f) : VectorLoad (.ldlOffset f) f { read := true, own := true, size := 2 ^ f.sz.toNat } true
inductive VectorStore : Instr → FmtR → Want → Bool → Prop
  | st (f) : VectorStore (.st f) f { write := true, size := 2 ^ f.sz.toNat } false
  | stOffset (f) : VectorStore (.stOffset f) f { write := true, size := 2 ^ f.sz.toNat } true
  | stl (f) : VectorStore (.stl f) f { write := true, own := true, size := 2 ^ f.sz.toNat } false
  | stlOffset (f) : VectorStore (.stlOffset f) f { write := true, own := true, size := 2 ^ f.sz.toNat } true

/-- The address of thread t (R225): base plus an offset register, or element V + t from the base. -/
def laneAddr (c : Caravan) (f : FmtR) (p : Option (BitVec 25)) (offset : Bool) (t : Nat) : Nat :=
  (c.regs.rd c.plv f.a.toNat + if offset then (offV p f.b + BitVec.ofNat 64 t) * BitVec.ofNat 64 (2 ^ f.sz.toNat) else lane c.regs f.b t).toNat

/-- Lane addresses of the threads that are active. -/
def laneAddrs (c : Caravan) (f : FmtR) (p : Option (BitVec 25)) (neg offset : Bool) : List (Nat × Nat) :=
  (lanesOf (c.active f.pr.toNat neg)).map fun t => (t, laneAddr c f p offset t)

/-- The v registers an access names are below VB, and NEGP stands only with a predicate. -/
def accessRegs (c : Caravan) (f : FmtR) (neg offset : Bool) : Prop :=
  f.d.toNat < c.vb ∧ (offset = false → f.b.toNat < c.vb) ∧ (f.pr = 7 → neg = false)

/-- An agent holds no bind or unbind of a stream slot, so that its accesses need not settle it first (the model's choice, log 21). -/
def Unbound (s : State) : Prop := (s.heldOf s.cur).any Held.isBind = false

/-- A load whose lanes pass every check (R93) and reach plain bytes: no MMIO, no streamed page, nothing poisoned or unreachable, in a
caravan that is not escorted, has no access under way and holds no bind, on a core whose L1 has lines to spare for it (R389). -/
structure LoadOk (s : State) (want : Want) (lanes : List (Nat × Nat)) (whole : Bool) : Prop where
  checks : (s.checkLanes s.cur want lanes whole).1 = none
  mmio : anyMmio (s.checkLanes s.cur want lanes whole).2 = false
  stream : anyStream (s.checkLanes s.cur want lanes whole).2 = false
  free : s.escorted s.cur = false
  reach : s.reachTrap s.cur ((s.checkLanes s.cur want lanes whole).2.map fun l => (l.1, s.fetched s.cur want.decode l.2)) true whole
    (s.hides s.cur) = none
  io : s.ioOf s.cur = .none
  binds : Unbound s
  lines : s.crowded (s.coreOf s.cur) (segLines ((s.checkLanes s.cur want lanes whole).2.flatMap fun l => s.fetched s.cur want.decode l.2)) = false

/-- The same of a store, which must also find room for its local-store chunks (R389). -/
structure StoreOk (s : State) (want : Want) (lanes : List (Nat × Nat)) (whole : Bool) : Prop where
  checks : (s.checkLanes s.cur want lanes whole).1 = none
  mmio : anyMmio (s.checkLanes s.cur want lanes whole).2 = false
  stream : anyStream (s.checkLanes s.cur want lanes whole).2 = false
  free : s.escorted s.cur = false
  reach : s.reachTrap s.cur (s.checkLanes s.cur want lanes whole).2 false whole (fun _ => false) = none
  io : s.ioOf s.cur = .none
  binds : Unbound s
  lines : s.crowded (s.coreOf s.cur) (segLines ((s.checkLanes s.cur want lanes whole).2.flatMap (·.2))) = false
  room : (addAll (heldChunks ((s.checkLanes s.cur want lanes whole).2.flatMap fun l =>
    l.2.map fun g => Held.store g.loc (List.replicate g.len 0) .none true)) (heldChunks (s.heldOf s.cur))).length ≤ 64

/-- A lane's value among those read. -/
def valueOf (vals : List (Nat × Nat)) (t : Nat) : Word := BitVec.ofNat 64 (((vals.find? fun x => x.1 == t).map (·.2)).getD 0)

/-- The operations a store leaves held (R103): each segment's bytes, the low ones of the lane's value, at its place. -/
def heldStores (size : Nat) (segs : List (Nat × List Seg)) (data : Nat → Word) : List Held :=
  segs.flatMap fun l => l.2.map fun g => Held.store g.loc (((leBytes size (data l.1).toNat).drop g.off).take g.len)
    (match g.leaf with | some f => f.secondOf g.va | none => none) (match g.leaf with | some f => f.tracked | none => true)

end Sys2Proof.Claims

/-- R5, R228: `ldl` by offsets that lie below LSG gives each active thread the little-endian value of the block's own local store. -/
def Obligations.LocalLoadIsLittleEndian : Prop :=
  ∀ (s : State) (x : Block) (c : Caravan) (p : Option (BitVec 25)) (neg offset : Bool) (f : FmtR),
    Turn s x c (immGroup p ++ negpGroup neg) → (p.isSome → offset = true) → accessRegs c f neg offset → Quiet c →
    s.poison = [] → (∀ y ∈ s.blocks, y.lsPoison = []) → s.escorted s.cur = false → c.io = none →
    (∀ t, bitAt (c.active f.pr.toNat neg) t = true → t < 32 → laneAddr c f p offset t + 2 ^ f.sz.toNat ≤ x.lsg) →
    let value := fun t => BitVec.ofNat 64 (leNat ((List.range (2 ^ f.sz.toNat)).map fun i => x.ls.read (laneAddr c f p offset t + i)))
    ∃ t, exec (if offset then .ldlOffset f else .ldl f) s = .next t ∧ BytesKept s t ∧
      CarIs t x c (past (c.regs.wrV f.d.toNat (c.active f.pr.toNat neg) (vtab value)))

/-- R97, R103, R225, R226, R228: a vector load whose lanes pass their checks writes each active thread the value its bytes have in
memory order, its own held stores seen, every other register and every byte of memory being as before; a vector store whose lanes pass
theirs is held: no byte of memory changes until its epoch commits, and the caravan holds the bytes each active thread stores, at its
address, in ascending order of lanes. -/
def Obligations.VectorLoadReadsAndStoreIsHeld : Prop :=
  (∀ (s : State) (x : Block) (c : Caravan) (p : Option (BitVec 25)) (neg offset : Bool) (i : Instr) (f : FmtR) (want : Want),
     VectorLoad i f want offset → Turn s x c (immGroup p ++ negpGroup neg) → (p.isSome → offset = true) → accessRegs c f neg offset →
     LoadOk s want (laneAddrs c f p neg offset) false →
     let segs := (s.checkLanes s.cur want (laneAddrs c f p neg offset) false).2
     let vals := segs.map fun l => (l.1, s.laneValue s.cur want.decode l.2)
     ∃ t, exec i s = .next t ∧ BytesKept s t ∧ AccessFrame s t x c ∧
       CarIs t x c (past (c.regs.wrV f.d.toNat (c.active f.pr.toNat neg) (vtab (valueOf vals))))) ∧
  (∀ (s : State) (x : Block) (c : Caravan) (p : Option (BitVec 25)) (neg offset : Bool) (i : Instr) (f : FmtR) (want : Want),
     VectorStore i f want offset → Turn s x c (immGroup p ++ negpGroup neg) → (p.isSome → offset = true) → accessRegs c f neg offset →
     StoreOk s want (laneAddrs c f p neg offset) false →
     let segs := (s.checkLanes s.cur want (laneAddrs c f p neg offset) false).2
     ∃ t, exec i s = .next t ∧ BytesKept s t ∧ AccessFrame s t x c ∧ CarIs t x c (past c.regs) ∧
       ∃ d, t.car? x.id c.n = some d ∧ d.held = c.held ++ heldStores want.size segs (lane c.regs f.d))

/-- R70, R71, R225, R226, R229: the uniform load and store, at the address of element V, under a condition that holds; a constant load
gives each active thread, or its register, the bytes its core's constant cache has, else memory's. -/
def Obligations.UniformAndConstantAccess : Prop :=
  (∀ (s : State) (x : Block) (c : Caravan) (p : Option (BitVec 25)) (neg : Bool) (f : FmtR),
     Turn s x c (immGroup p ++ negpGroup neg) → condOk f.pr neg → condHolds c.regs.c f.pr neg = true →
     let size := 2 ^ f.sz.toNat
     let lanes := [(0, laneAddr c f p true 0)]
     (let want : Want := { read := true, decode := true, size := size }
      LoadOk s want lanes true →
      let vals := (s.checkLanes s.cur want lanes true).2.map fun l => (l.1, s.laneValue s.cur true l.2)
      ∃ t, exec (.ldu f) s = .next t ∧ BytesKept s t ∧ AccessFrame s t x c ∧
        CarIs t x c (past (c.regs.wr c.plv f.d.toNat (valueOf vals 0)))) ∧
     (let want : Want := { write := true, size := size }
      StoreOk s want lanes true →
      ∃ t, exec (.stu f) s = .next t ∧ BytesKept s t ∧ AccessFrame s t x c ∧ CarIs t x c (past c.regs) ∧
        ∃ d, t.car? x.id c.n = some d ∧
          d.held = c.held ++ heldStores size (s.checkLanes s.cur want lanes true).2 (fun _ => c.regs.rd c.plv f.d.toNat))) ∧
  (∀ (s : State) (x : Block) (c : Caravan) (p : Option (BitVec 25)) (neg : Bool) (f : FmtR),
     let want : Want := { read := true, const := true, size := 2 ^ f.sz.toNat }
     let launch := match s.launchOf s.cur with | some l => l.id | none => 0
     let read := fun (lanes : List (Nat × Nat)) (whole : Bool) =>
       (s.checkLanes s.cur want lanes whole).2.map fun l => (l.1, leNat (l.2.flatMap (s.constSeg s.cur launch)))
     let ok := fun (lanes : List (Nat × Nat)) (whole : Bool) => Unbound s ∧ (s.checkLanes s.cur want lanes whole).1 = none ∧
       anyMmio (s.checkLanes s.cur want lanes whole).2 = false ∧
       s.reachTrap s.cur (s.checkLanes s.cur want lanes whole).2 true whole (fun _ => false) = none
     (Turn s x c (negpGroup neg) → accessRegs c f neg false → ok (laneAddrs c f none neg false) false →
       ∃ t, exec (.ldc f) s = .next t ∧ BytesKept s t ∧ AccessFrame s t x c ∧
         CarIs t x c (past (c.regs.wrV f.d.toNat (c.active f.pr.toNat neg) (vtab (valueOf (read (laneAddrs c f none neg false) false)))))) ∧
     (Turn s x c (immGroup p ++ negpGroup neg) → condOk f.pr neg → condHolds c.regs.c f.pr neg = true →
       ok [(0, laneAddr c f p true 0)] true →
       ∃ t, exec (.ldcU f) s = .next t ∧ BytesKept s t ∧ AccessFrame s t x c ∧
         CarIs t x c (past (c.regs.wr c.plv f.d.toNat (valueOf (read [(0, laneAddr c f p true 0)] true) 0)))))

namespace Sys2Proof.Claims
open Sys2Proof Sys2Proof.Machine

/-- The place of a code in the order of R93. -/
def codeRank : Nat → Nat
  | 0x10 => 1
  | 0x16 => 1
  | 0x11 => 2
  | 0x12 => 3
  | 0x13 => 4
  | 0x14 => 5
  | 0x15 => 6
  | _ => 0

end Sys2Proof.Claims

/-- R93: an access whose lanes fail a check traps before any lane performs: with a code that one of them fails with and that comes no
later in the order of R93 than any code any lane fails with; the lane mask names the lanes whose own first failing code it is. Which code that
is for a lane that fails with both of rank 1 is the model's choice: the first in address order (log 12). -/
def Obligations.FailedAccessTrapsBeforeAnyLane : Prop :=
  ∀ (s : State) (x : Block) (c : Caravan) (p : Option (BitVec 25)) (neg offset : Bool) (i : Instr) (f : FmtR) (want : Want),
    (VectorLoad i f want offset ∨ VectorStore i f want offset) → Turn s x c (immGroup p ++ negpGroup neg) → (p.isSome → offset = true) →
    accessRegs c f neg offset → c.io = none → Unbound s →
    (∃ l ∈ laneAddrs c f p neg offset, (s.checkLane s.cur want l.2).1 ≠ []) →
    ∃ tr, exec i s = .next (s.takeTrap s.cur tr) ∧
      (∃ l ∈ laneAddrs c f p neg offset, ∃ e ∈ (s.checkLane s.cur want l.2).1, e.code = tr.code) ∧
      (∀ l ∈ laneAddrs c f p neg offset, ∀ e ∈ (s.checkLane s.cur want l.2).1, codeRank tr.code ≤ codeRank e.code) ∧
      ∀ t, t < 32 → (bitAt tr.lanes t = true ↔ ∃ a e, (t, a) ∈ laneAddrs c f p neg offset ∧
        firstFail (s.checkLane s.cur want a).1 = some e ∧ e.code = tr.code)

/-- R97, R103, R106, R237, R390, R399, R402: a store performed when its epoch commits: its bytes stand at its place, and no other byte
changes; the transfer of a committed copy of its core's present incarnation, whose homes can be reached: the destination holds what the source held, no other byte changes, the copy is gone from its core, and
its arrival is made. -/
def Obligations.CommitAndTransferMoveBytes : Prop :=
  (∀ (s : State) (b n : Nat) (c : Caravan) (e : Epoch) (es : List Epoch) (l : Loc) (bs : List Byte) (tracked : Bool),
    s.car? b n = some c → c.epochs = e :: es → e.closed = true → e.acts = [.store l bs none tracked] → c.late = [] →
    s.bindStuck (.car b n) = false → (∀ b' o, l = .ls b' o → (s.block? b').isSome) →
    ∃ t, exec (.epochCommit b n) s = .next t ∧ t.peekN l bs.length = bs ∧
      ∀ l', (∀ i, i < bs.length → l' ≠ l.add i) → t.peek l' = s.peek l') ∧
  (∀ (s : State) (k : CoreSt) (q : CopyReq) (x : Block) (src dst : Loc) (len va : Nat),
    s.copyHome q.id = some k.id → s.core? k.id = some k → k.copies.find? (fun y => y.id == q.id) = some q → s.block? q.blk = some x →
    x.closing = none → q.inc = s.incarnation k.id → s.copyLost k.id q = none → q.tag = none → q.reps = [[{ src := src, dst := dst, len := len, dstVa := va }]] →
    (∀ b o, dst = .ls b o → (s.block? b).isSome) → (∀ a, src = .glob a ∨ dst = .glob a → kindOf a ≠ .mmio) →
    let b := vget x.bars q.bar
    ∃ t y j, exec (.copyTransfer q.id) s = .next t ∧ t.peekN dst len = s.peekN src len ∧
      (∀ l', (∀ i, i < len → l' ≠ dst.add i) → t.peek l' = s.peek l') ∧
      t.core? k.id = some j ∧ (∀ z ∈ j.copies, z.id ≠ q.id) ∧ t.block? q.blk = some y ∧
      y.bars = vset x.bars q.bar (if b.count + 1 = b.n then ⟨b.n, 0, b.p + 1⟩ else ⟨b.n, b.count + 1, b.p⟩))

namespace Sys2Proof.Claims
open Sys2Proof Sys2Proof.Machine

/-- The vector atomics and the uniform ones, with the operation each performs (R231, R232). -/
inductive VectorAtomic : Instr → FmtZ1DA → Nat → Prop
  | amoAdd (f) : VectorAtomic (.amoAdd f) f 0
  | amoMinI (f) : VectorAtomic (.amoMinI f) f 1
  | amoMinN (f) : VectorAtomic (.amoMinN f) f 2
  | amoMaxI (f) : VectorAtomic (.amoMaxI f) f 3
  | amoMaxN (f) : VectorAtomic (.amoMaxN f) f 4
  | amoAnd (f) : VectorAtomic (.amoAnd f) f 5
  | amoOr (f) : VectorAtomic (.amoOr f) f 6
  | amoXor (f) : VectorAtomic (.amoXor f) f 7
  | amoExch (f) : VectorAtomic (.amoExch f) f 8
  | amoCas (f) : VectorAtomic (.amoCas f) f 9
inductive UniformAtomic : Instr → FmtZ1DA → Nat → Prop
  | amouAdd (f) : UniformAtomic (.amouAdd f) f 0
  | amouMinI (f) : UniformAtomic (.amouMinI f) f 1
  | amouMinN (f) : UniformAtomic (.amouMinN f) f 2
  | amouMaxI (f) : UniformAtomic (.amouMaxI f) f 3
  | amouMaxN (f) : UniformAtomic (.amouMaxN f) f 4
  | amouAnd (f) : UniformAtomic (.amouAnd f) f 5
  | amouOr (f) : UniformAtomic (.amouOr f) f 6
  | amouXor (f) : UniformAtomic (.amouXor f) f 7
  | amouExch (f) : UniformAtomic (.amouExch f) f 8
  | amouCas (f) : UniformAtomic (.amouCas f) f 9

/-- An atomic whose lanes pass their checks and reach bytes of this package, in a caravan that waits for no access. -/
structure AtomicOk (s : State) (op bytes : Nat) (lanes : List (Nat × Nat)) (whole : Bool) : Prop where
  checks : (s.checkLanes s.cur { read := true, write := true, atomic := some op, size := bytes } lanes whole).1 = none
  reach : s.amoReach s.cur (s.checkLanes s.cur { read := true, write := true, atomic := some op, size := bytes } lanes whole).2 whole = none
  host : ∀ l ∈ (s.checkLanes s.cur { read := true, write := true, atomic := some op, size := bytes } lanes whole).2, ∀ g ∈ l.2, g.host = false
  io : s.ioOf s.cur = .none

/-- Each lane's place, one after another. -/
def atomicPlaces (s : State) (op bytes : Nat) (lanes : List (Nat × Nat)) (whole : Bool) : List (Nat × Seg) :=
  (s.checkLanes s.cur { read := true, write := true, atomic := some op, size := bytes } lanes whole).2.flatMap fun l => l.2.map fun g => (l.1, g)

/-- Atomic steps of lanes in ascending order: the old values, and the state after. -/
def atomicRun (w : Who) (op bytes : Nat) (data : Nat → Nat × Nat) : List (Nat × Seg) → State → List (Nat × Nat) × State
  | [], s => ([], s)
  | (t, g) :: rest, s =>
    let r := s.amoStep w op bytes g (data t).1 (data t).2
    let more := atomicRun w op bytes data rest r.2
    ((t, r.1) :: more.1, more.2)

end Sys2Proof.Claims

/-- R92, R100, R232, R233: a vector atomic of a caravan that holds nothing performs one step for each active lane, ascending; each
lane's register gets the value before its own step; memory is as the last step leaves it; a uniform atomic is one step. -/
def Obligations.AtomicStepsLanesInOrder : Prop :=
  (∀ (s : State) (x : Block) (c : Caravan) (neg : Bool) (i : Instr) (f : FmtZ1DA) (op : Nat),
     VectorAtomic i f op → Turn s x c (negpGroup neg) → Quiet c → (f.pr = 7 → neg = false) → (op = 9 → f.d.toNat % 2 = 0) →
     f.d.toNat < c.vb → f.a.toNat < c.vb → (op = 9 → f.d.toNat + 1 < c.vb) →
     let bytes := 4 * 2 ^ f.z1.toNat
     let lanes := (lanesOf (c.active f.pr.toNat neg)).map fun t => (t, (lane c.regs f.a t).toNat)
     AtomicOk s op bytes lanes false →
     let r := atomicRun s.cur op bytes (fun t => ((lane c.regs f.d t).toNat, (vget (vget c.regs.v (f.d.toNat + 1)) t).toNat))
       (atomicPlaces s op bytes lanes false) s
     ∃ t, exec i s = .next t ∧ t.far = r.2.far ∧ (∀ l, t.peek l = r.2.peek l) ∧
       CarIs t x c (past (c.regs.wrV f.d.toNat (c.active f.pr.toNat neg) (vtab (valueOf r.1))))) ∧
  (∀ (s : State) (x : Block) (c : Caravan) (neg : Bool) (i : Instr) (f : FmtZ1DA) (op : Nat),
     UniformAtomic i f op → Turn s x c (negpGroup neg) → Quiet c → condOk f.pr neg → condHolds c.regs.c f.pr neg = true →
     (op = 9 → f.d.toNat % 2 = 0) →
     let bytes := 4 * 2 ^ f.z1.toNat
     let lanes := [(0, (c.regs.rd c.plv f.a.toNat).toNat)]
     AtomicOk s op bytes lanes true →
     let r := atomicRun s.cur op bytes (fun _ => ((c.regs.rd c.plv f.d.toNat).toNat, (c.regs.rd c.plv (f.d.toNat + 1)).toNat))
       (atomicPlaces s op bytes lanes true) s
     ∃ t, exec i s = .next t ∧ t.far = r.2.far ∧ (∀ l, t.peek l = r.2.peek l) ∧
       CarIs t x c (past (c.regs.wr c.plv f.d.toNat (valueOf r.1 0))))

/-- R100, R232: one step of an atomic on 4 or 8 bytes: it answers the old value and writes the operation's result at its place, or,
where a `cas` finds another value, nothing; no other byte changes. -/
def Obligations.AtomicStepReadsThenWrites : Prop :=
  ∀ (s : State) (w : Who) (op bytes d swap : Nat) (g : Seg), (bytes = 4 ∨ bytes = 8) → op ≤ 9 →
    (∀ l, g.leaf = some l → l.secondOf g.va = none) → (∀ b o, g.loc = .ls b o → (s.block? b).isSome) →
    let old := leNat (s.peekN g.loc bytes)
    let n := 2 ^ (8 * bytes)
    let new := match op with
      | 0 => (old + d) % n
      | 5 => old &&& d % n
      | 6 => old ||| d % n
      | 7 => old ^^^ d % n
      | 8 => d % n
      | 9 => if old = d % n then swap % n else old
      | 1 => if (BitVec.ofNat (8 * bytes) old).toInt ≤ (BitVec.ofNat (8 * bytes) d).toInt then old else d % n
      | 2 => min old (d % n)
      | 3 => if (BitVec.ofNat (8 * bytes) d).toInt ≤ (BitVec.ofNat (8 * bytes) old).toInt then old else d % n
      | _ => max old (d % n)
    let r := s.amoStep w op bytes g d swap
    r.1 = old ∧ leNat (r.2.peekN g.loc bytes) = new ∧
      ∀ l', (∀ i, i < bytes → l' ≠ g.loc.add i) → r.2.peek l' = s.peek l'

/-- R234: `aappend` adds the increments of all active threads in one step, and gives each the old value plus the increments of the
active threads below it. -/
def Obligations.AppendReservesInOneStep : Prop :=
  ∀ (s : State) (x : Block) (c : Caravan) (neg : Bool) (f : FmtZ1) (g : Seg),
    Turn s x c (negpGroup neg) → Quiet c → (f.pr = 7 → neg = false) → f.d.toNat < c.vb → f.b.toNat < c.vb →
    let bytes := 4 * 2 ^ f.z1.toNat
    let n := 2 ^ (8 * bytes)
    let m := c.active f.pr.toNat neg
    let want : Want := { read := true, write := true, atomic := some 0x40, size := bytes }
    let lanes := (lanesOf m).map fun t => (t, (c.regs.rd c.plv f.a.toNat).toNat)
    let sum := fun (ts : List Nat) => (ts.map fun j => (lane c.regs f.b j).toNat % n).sum
    let old := leNat (s.peekN g.loc bytes)
    (s.checkLanes s.cur want lanes false).1 = none → (s.checkLanes s.cur want lanes false).2.head?.map (·.2) = some [g] →
    s.amoReach s.cur (s.checkLanes s.cur want lanes false).2 false = none → g.host = false → c.io = none →
    (∀ l, g.leaf = some l → l.secondOf g.va = none) → (∀ b o, g.loc = .ls b o → (s.block? b).isSome) →
    ∃ t, exec (.aappend f) s = .next t ∧ leNat (t.peekN g.loc bytes) = (old + sum (lanesOf m)) % n ∧
      (∀ l', (∀ i, i < bytes → l' ≠ g.loc.add i) → t.peek l' = s.peek l') ∧
      CarIs t x c (past (c.regs.wrV f.d.toNat m (vtab fun j => BitVec.ofNat 64 ((old + sum ((lanesOf m).filter (· < j))) % n))))

/-! # Reads of the machine, copies, rings, barriers, bundles, queues and graphs -/

namespace Sys2Proof.Claims
open Sys2Proof Sys2Proof.Machine

/-- A once-only instruction of a caravan that executes: its turn, a condition it takes, and that holds (R154). -/
structure Runs (s : State) (x : Block) (c : Caravan) (pr : BitVec 3) (neg : Bool) : Prop where
  turn : Turn s x c (negpGroup neg)
  cond : condOk pr neg
  holds : condHolds c.regs.c pr neg = true

/-- The same of a sequencer. -/
structure SeqRuns (s : State) (x : Block) (q : Sequencer) (pr : BitVec 3) (neg : Bool) : Prop where
  turn : SeqTurn s x q (negpGroup neg)
  cond : condOk pr neg
  holds : condHolds q.c pr neg = true

/-- Instructions that read what the machine holds into a uniform register: their selector's check, whether vector caravans alone issue
them, and the value. -/
inductive ReadForm : Instr → BitVec 3 → BitVec 6 → Bool → Bool → (State → Who → CRegs → Nat → Nat) → Prop
  | rdid (f) : ReadForm (.rdid f) f.pr f.d (selectorOk f.i.toNat) false (fun s w _ _ => (s.identity w f.i.toNat).getD 0)
  | rdclk (f) : ReadForm (.rdclk f) f.pr f.d true false (fun s _ _ _ => s.clk)
  | rdptp (f) : ReadForm (.rdptp f) f.pr f.d true false (fun s _ _ _ => s.ptpNow.1 % 2 ^ 32 + 2 ^ 32 * s.ptpNow.2)
  | rdenergy (f) : ReadForm (.rdenergy f) f.pr f.d true false (fun s w _ _ =>
      min (match s.vf? (s.spaceOf w).1 with
        | some y => if s.energyWin = s.clk / 2700000 then s.energyLeft y else s.budget y.id
        | none => 0) (2 ^ 32 - 1) + 2 ^ 32 * (s.clk / 2700000 % 2 ^ 16))
  | bstat (f) : ReadForm (.bstat f) f.pr f.d true false (fun s w r plv => bstatValue s w (r.rd plv f.a.toNat).toNat)
  | sgstat (f) : ReadForm (.sgstat f) f.pr f.d true true (fun s w r plv => sgstatValue s (s.tenantOfWho w) ((r.rd plv f.a.toNat).toNat % 16))

/-- The four copies (R235). -/
inductive CopyForm : Instr → FmtR → CopyKind → Prop
  | cpyG2l (f) : CopyForm (.cpyG2l f) f .g2l
  | cpyL2g (f) : CopyForm (.cpyL2g f) f .l2g
  | cpyL2l (f) : CopyForm (.cpyL2l f) f .l2l
  | cpyG2g (f) : CopyForm (.cpyG2g f) f .g2g

/-- The REP word before a copy: stride register, count and side (R165); or none. -/
def repGroup : Option (BitVec 6 × BitVec 12 × BitVec 2) → List W32
  | none => []
  | some (r, n, side) => [(0x7D : BitVec 7) ++ r ++ n ++ side ++ (0 : BitVec 5)]
/-- Runs of a copy beyond the first (R165). -/
def repCount : Option (BitVec 6 × BitVec 12 × BitVec 2) → Nat
  | none => 0
  | some (_, n, _) => n.toNat

/-- Source and destination of a thread's run j of a copy: each moves on by the stride but where SIDE keeps it (R165, R237). -/
def copyLane (c : Caravan) (f : FmtR) (rep : Option (BitVec 6 × BitVec 12 × BitVec 2)) (t j : Nat) : CopyLane :=
  let step : Word := match rep with | none => 0 | some (r, _, _) => BitVec.ofNat 64 j * c.regs.rd c.plv r.toNat
  let side : BitVec 2 := match rep with | none => 0 | some (_, _, x) => x
  { t := t, j := j, src := (lane c.regs f.a t + (if side = 2 then 0 else step)).toNat,
    dst := (lane c.regs f.d t + (if side = 1 then 0 else step)).toNat }

end Sys2Proof.Claims

/-- R60, R255, R262, R264, R377: an identity value, the clock in core cycles, PTP time, the energy that remains in the clock's window with that
window's number, a bundle's or a slot's status: read into a register, changing nothing else; an identity value in a sequencer too (R170). -/
def Obligations.MachineStateIsRead : Prop :=
  (∀ (s : State) (x : Block) (c : Caravan) (neg : Bool) (i : Instr) (pr : BitVec 3) (d : BitVec 6) (ok vectorOnly : Bool)
    (v : State → Who → CRegs → Nat → Nat), ReadForm i pr d ok vectorOnly v → Runs s x c pr neg → ok = true → (vectorOnly = true → c.vector = true) →
    ∃ t, exec i s = .next t ∧ RegsBecome s t x c (c.regs.wr c.plv d.toNat (BitVec.ofNat 64 (v s s.cur c.regs c.plv))) ∧ BytesKept s t) ∧
  (∀ (s : State) (x : Block) (q : Sequencer) (neg : Bool) (f : FmtDI), SeqRuns s x q f.pr neg → selectorOk f.i.toNat = true → f.d.toNat < 16 →
    ∃ t, exec (.rdid f) s = .next t ∧ SeqBecomes s t x q (q.wr f.d.toNat (BitVec.ofNat 64 ((s.identity s.cur f.i.toNat).getD 0))) ∧ BytesKept s t)

/-- R35, R95, R165, R235 to R238, R394, R399: a porter's copy whose runs pass every check is accepted whole: no byte moves yet; the request
names its barrier, its core's incarnation number, and the pieces of each run in ascending order of threads. It is held, but in an
escorted caravan, and where a side lies in another pod: there its checkpoint commits in the same step, and it stands among the core's
copies, its transfer due. -/
def Obligations.CopyIsAcceptedWholeAndHeld : Prop :=
  ∀ (s : State) (x : Block) (c : Caravan) (rep : Option (BitVec 6 × BitVec 12 × BitVec 2)) (neg : Bool) (i : Instr) (f : FmtR) (k : CopyKind)
    (cs : List CopySpan) (tag : Option (Nat × Nat × Nat × Nat)),
    CopyForm i f k → Turn s x c (repGroup rep ++ negpGroup neg) → (∀ r n d, rep = some (r, n, d) → d ≠ 3) →
    c.vector = false → f.sz ≠ 3 → (f.pr = 7 → neg = false) →
    f.d.toNat < c.vb → f.a.toNat < c.vb → f.b.toNat < x.nbar → (vget x.bars f.b.toNat).n ≠ 0 →
    let bytes := 4 * 2 ^ f.sz.toNat
    let lanes := (lanesOf (c.active f.pr.toNat neg)).flatMap fun t => (List.range (repCount rep + 1)).map (copyLane c f rep t)
    s.checkCopy s.cur k bytes lanes = (none, cs) → s.copyTag bytes cs = .ok tag → s.copyReach s.cur bytes cs = none → Unbound s →
    s.copyCount x.core < 256 → (cs.any (fun y => y.src.isFar || y.dst.isFar) || s.escorted s.cur → Quiet c) →
    ∃ t d q, exec i s = .next t ∧ BytesKept s t ∧ CarIs t x c (past c.regs) ∧
      t.car? x.id c.n = some d ∧ ((cs.any (fun y => y.src.isFar || y.dst.isFar) || s.escorted s.cur) = false → d.held = c.held ++ [.copy q]) ∧
      (cs.any (fun y => y.src.isFar || y.dst.isFar) || s.escorted s.cur → ∀ k, s.core? x.core = some k →
        ∃ j, t.core? x.core = some j ∧ j.copies = k.copies ++ [q] ∧ Instr.copyTransfer q.id ∈ t.agenda) ∧
      q.blk = x.id ∧ q.car = c.n ∧ q.inc = s.incarnation x.core ∧ q.tenant = s.tenantOfWho s.cur ∧ q.bar = f.b.toNat ∧ q.tag = tag ∧
      q.reps = (List.range (if lanes = [] then 0 else repCount rep + 1)).map fun j => (cs.filter (fun y => y.lane.j == j)).flatMap (s.copyPieces s.cur bytes)

/-- R241: `ring.init` with a good geometry inside the local store, over a ring whose slots are all FREE, leaves the ring with that
geometry, every slot FREE and every counter 0. -/
def Obligations.RingInitFreesEverySlot : Prop :=
  ∀ (s : State) (x : Block) (c : Caravan) (neg : Bool) (f : FmtDA), Runs s x c f.pr neg → Quiet c → f.a.toNat < x.nring →
    let v := c.regs.rd c.plv f.d.toNat
    let old := vget x.rings f.a.toNat
    let slots := (v.extractLsb' 48 4).toNat + 1
    let size := (v.extractLsb' 32 16).toNat * 256
    let base := (v.extractLsb' 0 32).toNat
    v.extractLsb' 52 12 = 0 → size ≠ 0 → base % 256 = 0 → base + slots * size ≤ x.lsg →
    (old.init ≠ 0 → ∀ j, j < old.slots → vget old.states j = 0) →
    ∃ t, exec (.ringInit f) s = .next t ∧ BytesKept s t ∧
      BlockBecomes s t x { x with rings := vset x.rings f.a.toNat ⟨v, 0, 0, 0, 0, Vector.replicate 16 0, Vector.replicate 16 0, []⟩ } c c.regs

/-- R242, R243: `ring.acq` claims the next slot when it is FREE, `ring.take` when it is PUBLISHED: the slot becomes ACQUIRED or TAKEN, the
counter moves on by one, and the register gets the slot's offset. `ring.pub` of a slot the block has ACQUIRED, and `ring.rel` of one it
has TAKEN, held publishes and releases counted, are held until they commit: the ring is as before. -/
def Obligations.RingSlotIsClaimedOrPut : Prop :=
  (∀ (s : State) (x : Block) (c : Caravan) (neg : Bool) (f : FmtDA), Runs s x c f.pr neg → Quiet c → f.a.toNat < x.nring → c.status = .running →
     let r := vget x.rings f.a.toNat
     let offset := fun j => BitVec.ofNat 64 (r.base + j * r.size)
     r.init ≠ 0 →
     (let j := r.acquired.toNat % r.slots
      vget r.states j = 0 → x.ringAhead f.a.toNat 0 none = false →
      ∃ t, exec (.ringAcq f) s = .next t ∧ BytesKept s t ∧
        BlockBecomes s t x { x with rings := vset x.rings f.a.toNat { r with states := vset r.states j 1, acquired := r.acquired + 1 } } c
          (c.regs.wr c.plv f.d.toNat (offset j))) ∧
     (let j := r.taken.toNat % r.slots
      vget r.states j = 2 → x.ringAhead f.a.toNat 2 none = false →
      ∃ t, exec (.ringTake f) s = .next t ∧ BytesKept s t ∧
        BlockBecomes s t x { x with rings := vset x.rings f.a.toNat { r with states := vset r.states j 3, taken := r.taken + 1 } } c
          (c.regs.wr c.plv f.d.toNat (offset j)))) ∧
  (∀ (s : State) (x : Block) (c : Caravan) (neg : Bool) (f : FmtDA) (j : Nat), Runs s x c f.pr neg → f.a.toNat < x.nring →
     let r := x.claimed f.a.toNat
     r.init ≠ 0 → r.slotAt (c.regs.rd c.plv f.d.toNat).toNat = some j →
     (vget r.states j = 1 → ∃ t d, exec (.ringPub f) s = .next t ∧ RegsBecome s t x c c.regs ∧ BytesKept s t ∧
       t.car? x.id c.n = some d ∧ d.held = c.held ++ [.ringPub f.a.toNat j]) ∧
     (vget r.states j = 3 → ∃ t d, exec (.ringRel f) s = .next t ∧ RegsBecome s t x c c.regs ∧ BytesKept s t ∧
       t.car? x.id c.n = some d ∧ d.held = c.held ++ [.ringRel f.a.toNat j]))

/-- R103, R156, R222, R244, R246: a caravan's `bar.arv` is held with its register pending; with a stall of 3 it waits for the register, so that its
checkpoint commits in the same step, and it arrives; a sequencer's, once its matrix instructions have read their operands, arrives at
once: the N-th arrival completes the phase. -/
def Obligations.ArrivalIsHeldOrMadeAtOnce : Prop :=
  ∀ (s : State) (x : Block) (neg : Bool) (f : FmtDA),
    let b := vget x.bars f.a.toNat
    f.a.toNat < x.nbar → b.n ≠ 0 →
    let arrived : Barrier := if b.count + 1 = b.n then ⟨b.n, 0, b.p + 1⟩ else ⟨b.n, b.count + 1, b.p⟩
    (∀ c : Caravan, Runs s x c f.pr neg → f.st ≠ 3 →
      ∃ t d, exec (.barArv f) s = .next t ∧ RegsBecome s t x c c.regs ∧ BytesKept s t ∧
        t.car? x.id c.n = some d ∧ d.held = c.held ++ [.barArv f.a.toNat f.d.toNat] ∧
        (f.d.toNat ≠ 0 → ∃ e ∈ d.epochs, ⟨.u f.d.toNat, .held⟩ ∈ e.pend)) ∧
    (∀ c : Caravan, Runs s x c f.pr neg → f.st = 3 → f.d.toNat ≠ 0 → Quiet c →
      ∃ t, exec (.barArv f) s = .next t ∧ BytesKept s t ∧
        BlockBecomes s t x { x with bars := vset x.bars f.a.toNat arrived } c (c.regs.wr c.plv f.d.toNat (b.p.setWidth 64))) ∧
    (∀ q : Sequencer, SeqRuns s x q f.pr neg → f.d.toNat < 16 → (∀ m ∈ s.pendingMx x, m.stage = 2) →
      ∃ t y d, exec (.barArv f) s = .next t ∧ BytesKept s t ∧ t.block? x.id = some y ∧ y.seq = some d ∧
        y.bars = vset x.bars f.a.toNat arrived ∧
        d.g = (q.wr f.d.toNat (b.p.setWidth 64)).g ∧ d.c = q.c ∧ d.pc = q.pc + 4 ∧ d.status = .running)

/-- R245 to R247, R250: `bar.init` with a count from 1 to 65,535, and `bar.inval`, of a barrier that nothing waits on or owes an arrival;
`bar.wait` goes on where the named phase lies 1 to 2^31 behind the barrier's; `bar.arw` arrives, goes on where its arrival completes
the phase, with that phase in its register, and else waits for it. The same in a sequencer whose matrix instructions have read their
operands. -/
def Obligations.BarrierSetUpAndWaitedOn : Prop :=
  (∀ (s : State) (x : Block) (c : Caravan) (neg : Bool) (f : FmtDA) (g : FmtA), Quiet c →
     (let n := (c.regs.rd c.plv f.d.toNat).toNat
      Runs s x c f.pr neg → f.a.toNat < x.nbar → 0 < n → n < 65536 → s.barBusy x f.a.toNat = false →
      ∃ t, exec (.barInit f) s = .next t ∧ BytesKept s t ∧ BlockBecomes s t x { x with bars := vset x.bars f.a.toNat ⟨n, 0, 0⟩ } c c.regs) ∧
     (Runs s x c g.pr neg → g.a.toNat < x.nbar → s.barBusy x g.a.toNat = false →
      ∃ t, exec (.barInval g) s = .next t ∧ BytesKept s t ∧ BlockBecomes s t x { x with bars := vset x.bars g.a.toNat ⟨0, 0, 0⟩ } c c.regs)) ∧
  (∀ (s : State) (x : Block) (c : Caravan) (neg : Bool) (f : FmtDA),
     let b := vget x.bars f.a.toNat
     Runs s x c f.pr neg → Quiet c → f.a.toNat < x.nbar → b.n ≠ 0 →
     (let behind := (b.p - (c.regs.rd c.plv f.d.toNat).setWidth 32).toNat
      1 ≤ behind → behind ≤ 2 ^ 31 →
      ∃ t, exec (.barWait f) s = .next t ∧ BytesKept s t ∧ BlockBecomes s t x x c c.regs) ∧
     (c.phase = none → b.count + 1 = b.n →
      ∃ t, exec (.barArw f) s = .next t ∧ BytesKept s t ∧
        BlockBecomes s t x { x with bars := vset x.bars f.a.toNat ⟨b.n, 0, b.p + 1⟩ } c (c.regs.wr c.plv f.d.toNat (b.p.setWidth 64))) ∧
     (c.phase = none → b.count + 1 ≠ b.n →
      ∃ t y, exec (.barArw f) s = .next t ∧ BytesKept s t ∧ t.block? x.id = some y ∧
        y.bars = vset x.bars f.a.toNat ⟨b.n, b.count + 1, b.p⟩ ∧ t.statusOf s.cur = some (.waiting (.phase f.a.toNat b.p.toNat)) ∧
        t.pcOf s.cur = c.regs.pc.toNat)) ∧
  (∀ (s : State) (x : Block) (q : Sequencer) (neg : Bool) (f : FmtDA) (g : FmtA), (∀ m ∈ s.pendingMx x, m.stage = 2) → f.d.toNat < 16 →
     let sets := fun (i : Instr) (k : BitVec 6) (b : Barrier) (q' : Sequencer) =>
       ∃ t, exec i s = .next t ∧ BytesKept s t ∧ SeqBlockBecomes s t x { x with bars := vset x.bars k.toNat b } q q'
     let b := vget x.bars f.a.toNat
     let n := (q.rd f.d.toNat).toNat
     let behind := (b.p - (q.rd f.d.toNat).setWidth 32).toNat
     (SeqRuns s x q g.pr neg → g.a.toNat < x.nbar → s.barBusy x g.a.toNat = false → sets (.barInval g) g.a ⟨0, 0, 0⟩ q) ∧
     (SeqRuns s x q f.pr neg → f.a.toNat < x.nbar →
       (0 < n → n < 65536 → s.barBusy x f.a.toNat = false → sets (.barInit f) f.a ⟨n, 0, 0⟩ q) ∧
       (b.n ≠ 0 → 1 ≤ behind → behind ≤ 2 ^ 31 → sets (.barWait f) f.a b q) ∧
       (b.n ≠ 0 → q.phase = none → b.count + 1 = b.n → sets (.barArw f) f.a ⟨b.n, 0, b.p + 1⟩ (q.wr f.d.toNat (b.p.setWidth 64))) ∧
       (b.n ≠ 0 → q.phase = none → b.count + 1 ≠ b.n →
         ∃ t y, exec (.barArw f) s = .next t ∧ BytesKept s t ∧ t.block? x.id = some y ∧
           y.bars = vset x.bars f.a.toNat ⟨b.n, b.count + 1, b.p⟩ ∧ t.statusOf s.cur = some (.waiting (.phase f.a.toNat b.p.toNat)) ∧
           t.pcOf s.cur = q.pc.toNat)))

namespace Sys2Proof.Claims
open Sys2Proof Sys2Proof.Machine

/-- The scope barriers: block, die, and the four convoy slots (R248, R249): the scope's number and its argument. -/
inductive ScopeForm : Instr → BitVec 3 → BitVec 6 → Nat → Nat → Prop
  | bbar (f) : ScopeForm (.bbar f) f.pr f.d 0 0x40
  | dbar (f) : ScopeForm (.dbar f) f.pr f.d 1 0x41
  | cbar (f) : ScopeForm (.cbar f) f.pr f.d (2 + f.a.toNat) (0x44 + f.a.toNat)

end Sys2Proof.Claims

/-- R248 to R250: a scope barrier counts a member's execution once, as it first issues; it completes, with the phase in its register,
when the phase it waits for has completed; `bbar` goes on at once in the member that is the last of its block's to execute it. A sequencer
executes them so once its matrix instructions have read their operands (R246). -/
def Obligations.ScopeBarrierCountsOnceAndCompletes : Prop :=
  (∀ (s : State) (x : Block) (c : Caravan) (neg : Bool) (i : Instr) (pr : BitVec 3) (d : BitVec 6) (k arg : Nat),
     ScopeForm i pr d k arg → Runs s x c pr neg → Quiet c → (2 ≤ k → (x.convoys.getD (k - 2) none).isSome) →
     (c.phase = none → ∃ t e, exec i s = .next t ∧ BytesKept s t ∧ t.car? x.id c.n = some e ∧
       e.scope = vset c.scope k (vget c.scope k + 1) ∧
       ((∃ p, e.phase = some p ∧ p.ph = vget c.scope k ∧ e.status = .waiting (.scope arg p.ph.toNat) ∧ e.regs = c.regs) ∨
        (e.phase = none ∧ e.status = .running ∧ e.regs = past (c.regs.wr c.plv d.toNat ((vget c.scope k).setWidth 64))))) ∧
     (∀ p, c.phase = some p → p.d = d.toNat → s.scopeDone x arg p.ph.toNat = true →
       ∃ t e, exec i s = .next t ∧ BytesKept s t ∧ t.car? x.id c.n = some e ∧ e.scope = c.scope ∧ e.phase = none ∧ e.status = .running ∧
         e.regs = past (c.regs.wr c.plv d.toNat (p.ph.setWidth 64)))) ∧
  (∀ (s : State) (x : Block) (c : Caravan) (neg : Bool) (f : FmtD), Runs s x c f.pr neg → Quiet c → c.phase = none →
     (x.cars.map (·.n)).Nodup → vget c.scope 0 ≠ BitVec.allOnes 32 →
     (∀ e ∈ x.cars, e.n ≠ c.n → e.status ≠ .ended → (vget c.scope 0).toNat < (vget e.scope 0).toNat) →
     (∀ q, x.seq = some q → q.status ≠ .ended → (vget c.scope 0).toNat < (vget q.scope 0).toNat) →
     ∃ t e, exec (.bbar f) s = .next t ∧ BytesKept s t ∧ t.car? x.id c.n = some e ∧ e.status = .running ∧
       e.regs = past (c.regs.wr c.plv f.d.toNat ((vget c.scope 0).setWidth 64))) ∧
  (∀ (s : State) (x : Block) (q : Sequencer) (neg : Bool) (i : Instr) (pr : BitVec 3) (d : BitVec 6) (k arg : Nat),
     ScopeForm i pr d k arg → SeqRuns s x q pr neg → d.toNat < 16 → (∀ m ∈ s.pendingMx x, m.stage = 2) →
     (2 ≤ k → (x.convoys.getD (k - 2) none).isSome) →
     let goesOn := fun (p : W32) (sc : Vector W32 6) => ∃ t y e, exec i s = .next t ∧ BytesKept s t ∧ t.block? x.id = some y ∧ y.seq = some e ∧
       e.scope = sc ∧ e.phase = none ∧ e.status = .running ∧ e.pc = q.pc + 4 ∧ e.g = (q.wr d.toNat (p.setWidth 64)).g ∧ e.c = q.c
     let ph := vget q.scope k
     let bumped := vset q.scope k (ph + 1)
     (q.phase = none → goesOn ph bumped ∨
       ∃ t y e p, exec i s = .next t ∧ BytesKept s t ∧ t.block? x.id = some y ∧ y.seq = some e ∧ e.scope = bumped ∧
         e.phase = some p ∧ p.ph = ph ∧ e.status = .waiting (.scope arg ph.toNat) ∧ e.pc = q.pc ∧ e.g = q.g ∧ e.c = q.c) ∧
     (∀ p, q.phase = some p → p.d = d.toNat → s.scopeDone x arg p.ph.toNat = true → goesOn p.ph q.scope) ∧
     (k = 0 → q.phase = none → ph ≠ BitVec.allOnes 32 →
       (∀ e ∈ x.cars, e.status ≠ .ended → ph.toNat < (vget e.scope 0).toNat) → goesOn ph bumped))

/-- R114: `fence.io` with no untracked store of the caravan on its way drops its core's clean untracked lines. -/
def Obligations.FenceDropsUntrackedLines : Prop :=
  ∀ (s : State) (x : Block) (c : Caravan) (neg : Bool) (f : FmtN), Runs s x c f.pr neg → Quiet c → s.globalWrites = [] →
    ∃ t, exec (.fenceIo f) s = .next t ∧ BytesKept s t ∧ CarIs t x c (past c.regs) ∧ ∀ k, t.core? x.core = some k → k.l1 = []

/-- R85 to R87, R103, R252 to R254, R257, R259: `bdecl` reads COUNT and the ranges as ordinary loads, and gives the handle of the new bundle or a
refusal: a COUNT outside 1 to 16 is refused with status 1. `bentr` of a handle of its launch, `bleav` of one, and `qpush` where a place
is free are held: nothing has changed but that the caravan holds them. -/
def Obligations.BundleIsDeclaredEnteredAndLeft : Prop :=
  (∀ (s : State) (x : Block) (c : Caravan) (neg : Bool) (f : FmtDA) (s1 : State) (head : List Byte), Runs s x c f.pr neg → Quiet c →
     let a := (c.regs.rd c.plv f.a.toNat).toNat
     let n := leNat head
     a % 8 = 0 → (s.settleWho s.cur).readWords s.cur [] a 1 = (none, head, s1) →
     (n = 0 ∨ 16 < n → ∃ t, exec (.bdecl f) s = .next t ∧ CarIs t x c (past (c.regs.wr c.plv f.d.toNat (0 - 255)))) ∧
     (0 < n → n ≤ 16 → ∀ (bs : List Byte) (s2 : State), s1.readWords s.cur [] a (1 + 2 * n) = (none, bs, s2) →
       let r := s2.declareBundle x.launch (s.tenantOfWho s.cur) (s2.lookup x.core (s.spaceOf s.cur).1 (s.spaceOf s.cur).2) (descRanges bs)
       s.launch? x.launch ≠ none → (s.launch? x.launch).map (·.id) = some x.launch →
       ∃ t, exec (.bdecl f) s = .next t ∧ t.bundles = r.2.bundles ∧ CarIs t x c (past (c.regs.wr c.plv f.d.toNat (BitVec.ofNat 64 r.1))))) ∧
  (∀ (s : State) (x : Block) (c : Caravan) (neg : Bool) (f : FmtDA) (g : FmtA) (u : Bundle) (l : Launch) (p : Pipe),
     let holds := fun (i : Instr) (h : Held) => ∃ t d, exec i s = .next t ∧ RegsBecome s t x c c.regs ∧ BytesKept s t ∧
       t.car? x.id c.n = some d ∧ d.held = c.held ++ [h]
     let handle := fun (r : BitVec 6) => (c.regs.rd c.plv r.toNat).toNat
     (Runs s x c f.pr neg → f.d.toNat < x.nbar → (vget x.bars f.d.toNat).n ≠ 0 → s.ownHandle s.cur (handle f.a) = some u →
       (x.handles.contains (handle f.a) = true ∨ x.handles.length < 32) → holds (.bentr f) (.bentr (handle f.a) f.d.toNat)) ∧
     (Runs s x c g.pr neg → s.ownHandle s.cur (handle g.a) = some u → holds (.bleav g) (.bleav (handle g.a))) ∧
     (Runs s x c f.pr neg → f.d.toNat % 4 = 0 → 4 ≤ f.d.toNat → s.pipeFor s.cur f.a.toNat true = .ok (l, p) →
       s.pipeClosed l f.a.toNat = false → p.drain = 0 → s.pipeUsed l f.a.toNat < p.depth →
       holds (.qpush f) (.qpush f.a.toNat ((List.range 4).flatMap fun j => leBytes 8 (c.regs.rd c.plv (f.d.toNat + j)).toNat))))

/-- R258: `qpop` and `qpop.try` take a pipe's oldest entry into four registers and set their condition; `qpop.try` of an empty pipe
clears it, as does `qpop` of one that is closed. -/
def Obligations.PopTakesOldestEntry : Prop :=
  ∀ (s : State) (x : Block) (c : Caravan) (neg : Bool) (f : FmtQ) (l : Launch) (p : Pipe) (i : Instr),
    (i = .qpop f ∨ i = .qpopTry f) → Runs s x c f.pr neg → Quiet c → f.d.toNat % 4 = 0 → 4 ≤ f.d.toNat →
    s.pipeFor s.cur f.a.toNat false = .ok (l, p) → s.launch? l.id = some l →
    (∀ e rest, p.entries = e :: rest →
      ∃ t y, exec i s = .next t ∧ BytesKept s t ∧ t.launch? l.id = some y ∧
        y.pipes[f.a.toNat]? = some { p with entries := rest } ∧
        CarIs t x c (past { (List.range 4).foldl (fun (r : CRegs) j => r.wr c.plv (f.d.toNat + j) (BitVec.ofNat 64 (leNat ((e.drop (8 * j)).take 8)))) c.regs
          with c := vset c.regs.c f.c.toNat true })) ∧
    (p.entries = [] → (i = .qpopTry f ∨ s.pipeClosed l f.a.toNat = true) →
      ∃ t, exec i s = .next t ∧ BytesKept s t ∧ t.launch? l.id = some l ∧
        CarIs t x c (past { c.regs with c := vset c.regs.c f.c.toNat false }))

/-- R103, R261, R309 to R312, R326, R394, R444: `sgbind` is held, with address 0 an unbind, else a bind of the image at its address, which is not yet
read; its status register is pending, and with a stall of 3 its checkpoint commits in the same step. When its epoch commits, an unbind of a
slot whose accesses have passed leaves the slot no graph and answers 0, a bind of a slot with a graph changes nothing and answers 3, and a
bind of any other reads its image as loads of its caravan, and is checked and performed on what it has read. By the model's choice (log 21)
a bind whose image has become unreadable since its issue takes its caravan back to the issue, a rollback that counts (R394). In the pause of an activation nothing is
bound: the commit waits. -/
def Obligations.GraphIsBoundAndUnbound : Prop :=
  (∀ (s : State) (x : Block) (c : Caravan) (neg : Bool) (f : FmtDA), Runs s x c f.pr neg → c.vector = true → s.escorted s.cur = false →
    let slot := (c.regs.rd c.plv f.d.toNat).toNat
    let a := (c.regs.rd c.plv f.a.toNat).toNat
    let vf := (s.spaceOf s.cur).1
    let tenant := s.tenantOfWho s.cur
    let holds := fun (image : Option Nat) => ∃ t d, exec (.sgbind f) s = .next t ∧ RegsBecome s t x c c.regs ∧ BytesKept s t ∧
      t.car? x.id c.n = some d ∧ d.held = c.held ++ [.sgbind f.d.toNat vf tenant slot image] ∧ ∃ e ∈ d.epochs, ⟨.u f.d.toNat, .held⟩ ∈ e.pend
    let answers := fun (n : Nat) => ∃ t, exec (.sgbind f) s = .next t ∧ BytesKept s t ∧ (n = 3 → t.tenants = s.tenants) ∧
      (n = 0 → t.openGraph? tenant slot = none) ∧ CarIs t x c (past (c.regs.wr c.plv f.d.toNat (BitVec.ofNat 64 n)))
    0 < slot → slot < 16 → f.d.toNat ≠ 0 →
    (a = 0 → f.st ≠ 3 → holds none) ∧
    (a ≠ 0 → a % 8 = 0 → f.st ≠ 3 → (s.heldOf s.cur).any Held.isBind = false →
      (s.slotTaken tenant slot = true ∨ (s.readImage s.cur (s.heldOf s.cur) a).1 = none) → holds (some a)) ∧
    (a = 0 → f.st = 3 → Quiet c → s.fw.phase ≠ .paused → s.slotInUse tenant slot (some s.cur) = false → answers 0) ∧
    (a ≠ 0 → a % 8 = 0 → f.st = 3 → Quiet c → s.fw.phase ≠ .paused → (s.openGraph? tenant slot).isSome → answers 3)) ∧
  (∀ (s : State) (b n : Nat) (c : Caravan) (e : Epoch) (es : List Epoch) (d vf tenant slot : Nat) (image : Option Nat),
    s.car? b n = some c → c.epochs = e :: es → e.closed = true → e.acts = [.sgbind d vf tenant slot image] → e.pend = [⟨.u d, .held⟩] →
    (∀ e' ∈ es, e'.acts = []) → c.late = [] → 0 < d → d < 64 → s.fw.phase ≠ .paused →
    (image = none → s.slotInUse tenant slot = false →
      ∃ t y, exec (.epochCommit b n) s = .next t ∧ BytesKept s t ∧ t.car? b n = some y ∧
        t.openGraph? tenant slot = none ∧ y.regs.rd c.plv d = 0) ∧
    (∀ a, image = some a → (s.openGraph? tenant slot).isSome →
      ∃ t y, exec (.epochCommit b n) s = .next t ∧ BytesKept s t ∧ t.car? b n = some y ∧ t.tenants = s.tenants ∧ y.regs.rd c.plv d = 3) ∧
    (∀ a img s1, image = some a → s.slotTaken tenant slot = false → (s.readImage (.car b n) c.held a).1 = none →
      s.readImage (.car b n) [] a = (none, img, s1) →
      ∃ t y, exec (.epochCommit b n) s = .next t ∧ BytesKept s t ∧ t.car? b n = some y ∧
        t.tenants = (s1.bindImage vf tenant slot img).2.tenants ∧ y.regs.rd c.plv d = BitVec.ofNat 64 (s1.bindImage vf tenant slot img).1) ∧
    (∀ a, image = some a → s.slotTaken tenant slot = false → (s.readImage (.car b n) c.held a).1.isSome →
      ∃ t, exec (.epochCommit b n) s = .next t ∧ t.tenants = s.tenants ∧ t.car? b n = some (c.rollTo 0 true))) ∧
  (∀ (s : State) (b n : Nat) (c : Caravan) (d vf tenant slot : Nat) (image : Option Nat) (hs : List Held),
    s.car? b n = some c → c.late = .sgbind d vf tenant slot image :: hs → s.fw.phase = .paused →
    ∃ t, exec (.epochCommit b n) s = .next t ∧ BytesKept s t ∧ t.tenants = s.tenants ∧ t.car? b n = some c)

/-! # Control flow -/

namespace Sys2Proof.Claims
open Sys2Proof Sys2Proof.Machine

/-- The target of a B-format word at an address (R150). -/
def branchTo (pc : Word) (off : BitVec 20) : Nat := (pc + off.signExtend 64 * 4).toNat

/-- The uniform transfers and `land` (R288, R293): where they go, if anywhere, their registers, and whether the target must be a `land`. -/
inductive TransferForm : Instr → BitVec 3 → Option (BitVec 8) → (CRegs → Nat → Word → Option Nat × CRegs) → Bool → Prop
  | bra (f) : TransferForm (.bra f) f.pr none (fun r _ _ => (some (branchTo r.pc f.off), r)) false
  | call (f) : TransferForm (.call f) f.pr none (fun r plv _ => (some (branchTo r.pc f.off), r.wr plv 63 (r.pc + 4))) false
  | ret (f) : TransferForm (.ret f) f.pr none (fun r plv _ => (some (r.rd plv f.a.toNat).toNat, r)) false
  | brxU (f) : TransferForm (.brxU f) f.pr none (fun r plv _ => (some (r.rd plv f.a.toNat).toNat, r)) true
  | loop (f) : TransferForm (.loop f) f.pr (some f.i) (fun r plv v => let y := r.rd plv f.d.toNat - 1
      (if y = 0 then none else some (r.pc + 4 * v).toNat, r.wr plv f.d.toNat y)) false
  | land (f) : TransferForm (.land f) 7 none (fun r _ _ => (none, r)) false

/-- The same in a sequencer, whose link register is g15 (R170, R288), with the g registers they name. -/
inductive SeqTransfer : Instr → BitVec 3 → Option (BitVec 8) → (Sequencer → Word → Option Nat × Sequencer) → Bool → List (BitVec 6) → Prop
  | bra (f) : SeqTransfer (.bra f) f.pr none (fun q _ => (some (branchTo q.pc f.off), q)) false []
  | call (f) : SeqTransfer (.call f) f.pr none (fun q _ => (some (branchTo q.pc f.off), q.wr 15 (q.pc + 4))) false []
  | ret (f) : SeqTransfer (.ret f) f.pr none (fun q _ => (some (q.rd f.a.toNat).toNat, q)) false [f.a]
  | brxU (f) : SeqTransfer (.brxU f) f.pr none (fun q _ => (some (q.rd f.a.toNat).toNat, q)) true [f.a]
  | loop (f) : SeqTransfer (.loop f) f.pr (some f.i) (fun q v => let y := q.rd f.d.toNat - 1
      (if y = 0 then none else some (q.pc + 4 * v).toNat, q.wr f.d.toNat y)) false [f.d]
  | land (f) : SeqTransfer (.land f) 7 none (fun q _ => (none, q)) false []

/-- An instruction that leaves its sequencer with the pc, g registers and conditions of `r`, and changes nothing else. -/
def SeqMoves (s : State) (x : Block) (i : Instr) (r : Sequencer) : Prop :=
  ∃ t y d, exec i s = .next t ∧ OnlyBlock s t x.id ∧ BytesKept s t ∧ t.block? x.id = some y ∧ y.seq = some d ∧ { y with seq := x.seq } = x ∧
    d.pc = r.pc ∧ d.g = r.g ∧ d.c = r.c ∧ d.hints = [] ∧ d.status = .running

/-- An instruction that leaves its caravan with registers `r`, pc included, and changes nothing else. -/
def Moves (s : State) (x : Block) (c : Caravan) (i : Instr) (r : CRegs) : Prop :=
  ∃ t, exec i s = .next t ∧ OnlyBlock s t x.id ∧ BytesKept s t ∧ CarIs t x c r

end Sys2Proof.Claims

/-- R287, R288, R293, R294: a uniform transfer whose condition holds moves the pc to its target, `call` linking in s63, or in a sequencer in
g15, and `loop` counting; a false condition does nothing; a target that fails a check traps with its reason, the registers as they were. -/
def Obligations.UniformTransferMovesOrTraps : Prop :=
  let fails := fun (s : State) (i : Instr) (a : Nat) (land : Bool) =>
    (s.targetStep s.cur a land = 3 → exec i s = .next (s.takeTrap s.cur (wholeTrap 0x05 0 a 0))) ∧
    (s.targetStep s.cur a land = 4 → exec i s = .next (s.takeTrap s.cur (wholeTrap 0x06 3 a 0))) ∧
    (s.targetStep s.cur a land = 1 ∨ s.targetStep s.cur a land = 2 →
      exec i s = .next (s.takeTrap s.cur (wholeTrap 0x06 (s.targetStep s.cur a land) a 0)))
  (∀ (s : State) (x : Block) (c : Caravan) (p : Option (BitVec 25)) (neg : Bool) (i : Instr) (pr : BitVec 3) (imm : Option (BitVec 8))
     (g : CRegs → Nat → Word → Option Nat × CRegs) (land : Bool), TransferForm i pr imm g land →
     Turn s x c (immGroup p ++ negpGroup neg) → condOk pr neg → (p.isSome → imm.isSome) →
     let r := g c.regs c.plv (match imm with | some v => immV p v | none => 0)
     (condHolds c.regs.c pr neg = false → Moves s x c i (past c.regs)) ∧
     (condHolds c.regs.c pr neg = true → r.1 = none → Moves s x c i (past r.2)) ∧
     (condHolds c.regs.c pr neg = true → ∀ a, r.1 = some a →
       (s.targetStep s.cur a land = 0 → Moves s x c i { r.2 with pc := BitVec.ofNat 64 a }) ∧ fails s i a land)) ∧
  (∀ (s : State) (x : Block) (q : Sequencer) (p : Option (BitVec 25)) (neg : Bool) (i : Instr) (pr : BitVec 3) (imm : Option (BitVec 8))
     (g : Sequencer → Word → Option Nat × Sequencer) (land : Bool) (rs : List (BitVec 6)), SeqTransfer i pr imm g land rs →
     SeqTurn s x q (immGroup p ++ negpGroup neg) → condOk pr neg → (p.isSome → imm.isSome) → (∀ r ∈ rs, r.toNat < 16) →
     let r := g q (match imm with | some v => immV p v | none => 0)
     (condHolds q.c pr neg = false → SeqMoves s x i { q with pc := q.pc + 4 }) ∧
     (condHolds q.c pr neg = true → r.1 = none → SeqMoves s x i { r.2 with pc := q.pc + 4 }) ∧
     (condHolds q.c pr neg = true → ∀ a, r.1 = some a →
       (s.targetStep s.cur a land = 0 → SeqMoves s x i { r.2 with pc := BitVec.ofNat 64 a }) ∧ fails s i a land))

/-- R290, R291: `brd` to a target whose partner is a `join`: no active thread goes on, all active go to the target, and else both paths stand
on the stack, the fall-through first; a stack deeper than 30 traps with nothing pushed. `join` with its rpc on top of the stack
resumes the first entry below it that has threads not exited; else it jumps to rpc. That a word counts as a `join` by its opcode alone, and
that a `brd` with no active thread checks neither target nor partner, is the model's choice (logs 51, 22). -/
def Obligations.DivergenceAndJoin : Prop :=
  (∀ (s : State) (x : Block) (c : Caravan) (neg : Bool) (f : FmtB) (j : W32), Turn s x c (negpGroup neg) → (f.pr = 7 → neg = false) →
     let taken := c.active f.pr.toNat neg
     let fall := c.regs.m &&& ~~~taken
     let y := branchTo c.regs.pc f.off
     let rpc := branchTo (BitVec.ofNat 64 (y - 4)) (j.extractLsb' 0 20)
     (taken = 0 → Moves s x c (.brd f) (past c.regs)) ∧
     (taken ≠ 0 → s.targetStep s.cur y false = 0 → 4 ≤ y → (y - 4) / 0x100000 = c.regs.pc.toNat / 0x100000 →
       s.codeFor s.cur (y - 4) = .word j → j.extractLsb' 25 7 = 0x6A →
       (fall = 0 → Moves s x c (.brd f) { c.regs with pc := BitVec.ofNat 64 y }) ∧
       (fall ≠ 0 → c.regs.stack.length ≤ 30 → Moves s x c (.brd f) (past { c.regs with m := fall, stack :=
           ⟨BitVec.ofNat 32 y, taken, BitVec.ofNat 32 rpc, true⟩ :: ⟨BitVec.ofNat 32 rpc, c.regs.m, BitVec.ofNat 32 rpc, false⟩ :: c.regs.stack })) ∧
       (fall ≠ 0 → 30 < c.regs.stack.length →
         exec (.brd f) s = .next (s.takeTrap s.cur (wholeTrap 0x07 c.regs.stack.length 0 0))))) ∧
  (∀ (s : State) (x : Block) (c : Caravan) (f : FmtBn), Turn s x c [] →
     let rpc := branchTo c.regs.pc f.off
     ((∀ e ∈ c.regs.stack.head?, e.rpc.toNat ≠ rpc) → s.targetStep s.cur rpc false = 0 →
       Moves s x c (.join f) { c.regs with pc := BitVec.ofNat 64 rpc }) ∧
     (∀ (dead : List StackEntry) (e : StackEntry) (rest : List StackEntry), c.regs.stack = dead ++ e :: rest →
       (∀ d ∈ dead, d.mask &&& ~~~c.regs.e = 0) → e.mask &&& ~~~c.regs.e ≠ 0 → (∀ d ∈ c.regs.stack.head?, d.rpc.toNat = rpc) →
       let a := (if e.path then e.pc else e.rpc).toNat
       s.targetStep s.cur a false = 0 →
       Moves s x c (.join f) { c.regs with pc := BitVec.ofNat 64 a, m := e.mask &&& ~~~c.regs.e, stack := rest }))

/-- R293, R294: `brx` with no active thread goes on; with every active thread's target a `land` of one reconvergence address it runs the
lowest group of threads, the others standing on the stack in ascending order from the top. -/
def Obligations.IndirectBranchRunsLowestGroup : Prop :=
  ∀ (s : State) (x : Block) (c : Caravan) (neg : Bool) (f : FmtA) (rpc : Nat), Turn s x c (negpGroup neg) → (f.pr = 7 → neg = false) →
    f.a.toNat < c.vb →
    let act := c.active f.pr.toNat neg
    let goes := (lanesOf act).map fun t => (t, (lane c.regs f.a t).toNat)
    let stays := (lanesOf (c.regs.m &&& ~~~act)).map fun t => (t, c.regs.pc.toNat + 4)
    (act = 0 → Moves s x c (.brx f) (past c.regs)) ∧
    (act ≠ 0 → (∀ l ∈ goes, s.targetStep s.cur l.2 true = 0 ∧
        ∃ j, s.codeFor s.cur l.2 = .word j ∧ branchTo (BitVec.ofNat 64 l.2) (j.extractLsb' 0 20) = rpc) →
      ∀ (g : Nat × W32) (rest : List (Nat × W32)), brxGroups (goes ++ stays) = g :: rest →
      (rest = [] → Moves s x c (.brx f) { c.regs with pc := BitVec.ofNat 64 g.1 }) ∧
      (rest ≠ [] → c.regs.stack.length + rest.length + 1 ≤ 32 → Moves s x c (.brx f) { c.regs with
        pc := BitVec.ofNat 64 g.1, m := g.2,
        stack := rest.map (fun y => ⟨BitVec.ofNat 32 y.1, y.2, BitVec.ofNat 32 rpc, true⟩) ++
          ⟨BitVec.ofNat 32 rpc, c.regs.m, BitVec.ofNat 32 rpc, false⟩ :: c.regs.stack }) ∧
      (rest ≠ [] → 32 < c.regs.stack.length + rest.length + 1 →
        exec (.brx f) s = .next (s.takeTrap s.cur (wholeTrap 0x07 c.regs.stack.length 0 0))))

/-- R46, R292: `exit` adds its active threads to E; threads left go on; where none is left the first entry of the stack with threads
not exited resumes; where there is none the caravan ends, and its block with its last member; a sequencer ends once its
matrix instructions have completed. -/
def Obligations.ExitEndsThreadsCaravanAndBlock : Prop :=
  ∀ (s : State) (x : Block) (neg : Bool) (f : FmtN),
    (∀ c : Caravan, Turn s x c (negpGroup neg) → (f.pr = 7 → neg = false) → Quiet c →
      let act := c.active f.pr.toNat neg
      let e := c.regs.e ||| act
      let m := c.regs.m &&& ~~~act
      (act = 0 → Moves s x c (.exit f) (past c.regs)) ∧
      (act ≠ 0 → m ≠ 0 → Moves s x c (.exit f) (past { c.regs with e := e, m := m })) ∧
      (act ≠ 0 → m = 0 → ∀ a n rest, resumeFrom e c.regs.stack = some (a, n, rest) → s.targetStep s.cur a false = 0 →
        Moves s x c (.exit f) { c.regs with pc := BitVec.ofNat 64 a, e := e, m := n, stack := rest }) ∧
      (act ≠ 0 → m = 0 → resumeFrom e c.regs.stack = none → ∃ t y, exec (.exit f) s = .next t ∧ BytesKept s t ∧
        t.statusOf s.cur = some .ended ∧ t.block? x.id = some y ∧
        (x.ended = false → (y.ended = true ↔ (∀ d ∈ x.cars, d.n ≠ c.n → d.status = .ended) ∧ (∀ q, x.seq = some q → q.status = .ended))))) ∧
    (∀ q : Sequencer, SeqRuns s x q f.pr neg → s.pendingMx x = [] →
      ∃ t, exec (.exit f) s = .next t ∧ BytesKept s t ∧ t.statusOf s.cur = some .ended)

/-! # The matrix array and the tile moves -/

namespace Sys2Proof.Claims
open Sys2Proof Sys2Proof.Machine

/-- A matrix instruction of a sequencer: its condition field, its own checks, the highest tile it names, the g registers it reads,
and what the array gets (R272 to R277). -/
inductive MatrixForm : Instr → BitVec 3 → Bool → Nat → List Nat → Bool → (Bool → Sequencer → Nat → MxOp) → Prop
  | mma (f) : MatrixForm (.mma f) f.pr (f.d.toNat < 32) f.d.toNat [f.a.toNat, f.b.toNat] true (fun sat q b =>
      mxOp .mma f.d.toNat 0 (q.rd f.a.toNat) 0 (q.rd f.b.toNat) sat (f.st == 3) b q)
  | mmag (f) : MatrixForm (.mmag f) f.pr (f.d.toNat < 32 && f.a.toNat % 2 == 0) f.d.toNat [f.a.toNat, f.a.toNat + 1, f.b.toNat] true (fun sat q b =>
      mxOp .mmag f.d.toNat 0 (q.rd f.a.toNat) (q.rd (f.a.toNat + 1)) (q.rd f.b.toNat) sat (f.st == 3) b q)
  | mmaCv (f) : MatrixForm (.mmaCv f) f.pr (f.d.toNat < 32 && f.a.toNat % 2 == 0) f.d.toNat [f.a.toNat, f.a.toNat + 1, f.b.toNat] true (fun sat q b =>
      mxOp .mmaCv f.d.toNat 0 (q.rd f.a.toNat) (q.rd (f.a.toNat + 1)) (q.rd f.b.toNat) sat (f.st == 3) b q)
  | mstS (f) : MatrixForm (.mstS f) f.pr (f.d.toNat < 32 && f.a.toNat < 32) (max f.d.toNat f.a.toNat) [f.b.toNat] true (fun sat q b =>
      mxOp .mst f.d.toNat f.a.toNat 0 0 (q.rd f.b.toNat) sat (f.st == 3) b q)
  | mstSAddF32 (f) : MatrixForm (.mstSAddF32 f) f.pr (f.d.toNat < 32 && f.a.toNat < 32) (max f.d.toNat f.a.toNat) [f.b.toNat] true (fun sat q b =>
      mxOp .mstF f.d.toNat f.a.toNat 0 0 (q.rd f.b.toNat) sat (f.st == 3) b q)
  | mstSAddI32 (f) : MatrixForm (.mstSAddI32 f) f.pr (f.d.toNat < 32 && f.a.toNat < 32) (max f.d.toNat f.a.toNat) [f.b.toNat] true (fun sat q b =>
      mxOp .mstI f.d.toNat f.a.toNat 0 0 (q.rd f.b.toNat) sat (f.st == 3) b q)
  | mzero (f) : MatrixForm (.mzero f) f.pr (f.d.toNat < 32 && f.a.toNat < 32) (f.d.toNat + f.a.toNat) [] false (fun _ q b =>
      mxOp .mzero f.d.toNat f.a.toNat 0 0 0 false (f.st == 3) b q)

/-- The slice reads and writes (R282): whether the slice is a column. -/
inductive SliceRead : Instr → FmtT → Bool → Prop
  | mrowRead (f) : SliceRead (.mrowRead f) f false
  | mcolRead (f) : SliceRead (.mcolRead f) f true
inductive SliceWrite : Instr → FmtT → Bool → Prop
  | mrowWrite (f) : SliceWrite (.mrowWrite f) f false
  | mcolWrite (f) : SliceWrite (.mcolWrite f) f true

end Sys2Proof.Claims

/-- R58, R266, R267, R275: a matrix instruction whose checks at issue pass joins the array's instructions, and its sequencer waits; when
every instruction of its block has read its operands, and none is to be waited for, the sequencer goes on. A failed check traps. -/
def Obligations.MatrixInstructionIsGivenToTheArray : Prop :=
  ∀ (s : State) (x : Block) (q : Sequencer) (sat neg : Bool) (i : Instr) (pr : BitVec 3) (ok : Bool) (tile : Nat) (regs : List Nat)
    (takesSat : Bool) (op : Bool → Sequencer → Nat → MxOp) (k : CoreSt),
    MatrixForm i pr ok tile regs takesSat op → SeqTurn s x q (modGroup 0 sat neg) → condOk pr neg → condHolds q.c pr neg = true →
    (sat = true → takesSat = true) → ok = true → tile < x.vectors * x.tilesPer → (∀ r ∈ regs, r < 16) → s.core? x.core = some k →
    let m := op sat q x.id
    (q.given = false → mxIssueTrap s x m = none → ∃ t j d, exec i s = .next t ∧ BytesKept s t ∧
      t.core? x.core = some j ∧ j.array = k.array ++ [m] ∧ .matrixTake x.core ∈ t.agenda ∧
      t.seq? x.id = some d ∧ d.status = .waiting .array ∧ d.given = true ∧ d.pc = q.pc ∧ d.g = q.g) ∧
    (∀ tr, q.given = false → mxIssueTrap s x m = some tr → exec i s = .next (s.takeTrap s.cur tr)) ∧
    (q.given = true → (∀ y ∈ s.pendingMx x, y.stage = 2 ∧ y.hold = false) → ∃ t d, exec i s = .next t ∧ BytesKept s t ∧ OnlyBlock s t x.id ∧
      t.seq? x.id = some d ∧ d.status = .running ∧ d.given = false ∧ d.pc = q.pc + 4 ∧ d.g = q.g ∧ d.c = q.c)

/-- R148, R282, R283: a slice read gives each active thread two elements of a row or column; a slice write replaces those of its active
threads and no other element of any tile. -/
def Obligations.SliceMovesBetweenTileAndRegister : Prop :=
  ∀ (s : State) (x : Block) (c : Caravan) (neg col : Bool) (i : Instr) (f : FmtT), Turn s x c (negpGroup neg) → (f.pr = 7 → neg = false) →
    c.vector = true → f.v.toNat < c.vb → f.t.toNat < x.vectors * x.tilesPer → x.tileUsable f.t.toNat = true → s.targeted x f.t.toNat = false →
    let m := c.active f.pr.toNat neg
    let n := ((c.regs.rd c.plv f.i.toNat).toNat + f.m.toNat) % 64
    let tile := vget x.tiles f.t.toNat
    let el := fun e => if col then tileAt tile e n else tileAt tile n e
    let put := tileOf fun r k =>
      let e := if col then r else k
      if (if col then k else r) = n ∧ bitAt m (e / 2) = true then
        (if e % 2 = 0 then (lane c.regs f.v (e / 2)).extractLsb' 0 32 else (lane c.regs f.v (e / 2)).extractLsb' 32 32)
      else tileAt tile r k
    (SliceRead i f col → ∃ t, exec i s = .next t ∧ BytesKept s t ∧
      RegsBecome s t x c (c.regs.wrV f.v.toNat m (vtab fun k => (el (2 * k + 1)).setWidth 64 <<< 32 ||| (el (2 * k)).setWidth 64))) ∧
    (SliceWrite i f col → f.i ≠ 0 → Quiet c → ∃ t, exec i s = .next t ∧ BytesKept s t ∧
      BlockBecomes s t x { x with tiles := vset x.tiles f.t.toNat put } c c.regs)

/-- R42, R284: `setvb` in a vector caravan within its window, with no tile position lost that a matrix instruction targets or that holds
a bit: VB is the new one, registers both hold stay, all others read zero, and so do the tile positions gained. -/
def Obligations.BoundaryMovesWithoutLoss : Prop :=
  ∀ (s : State) (x : Block) (c : Caravan) (neg : Bool) (f : FmtVb), Runs s x c f.pr neg → Quiet c → c.vector = true →
    let n := 8 * (f.m.toNat + 1)
    let first := (c.n - x.porters) * x.tilesPer
    n * 256 ≤ x.window →
    (∀ i, i < x.tilesPer → x.positionFree c.vb i = true → x.positionFree n i = false →
      s.targeted x (first + i) = false ∧ vget x.tiles (first + i) = Tile.zero) →
    ∃ t y d, exec (.setvb f) s = .next t ∧ OnlyBlock s t x.id ∧ BytesKept s t ∧ t.block? x.id = some y ∧ y.car? c.n = some d ∧
      d.vb = n ∧ d.status = .running ∧ d.hints = [] ∧
      d.regs = past { c.regs with v := Vector.ofFn fun r : Fin 64 => if r.val < min n c.vb then c.regs.v.get r else VReg.zero } ∧
      (∀ k, k < 32 → vget y.tiles k = if first ≤ k ∧ k < first + x.tilesPer ∧ x.positionFree n (k - first) = true ∧
        x.positionFree c.vb (k - first) = false then Tile.zero else vget x.tiles k) ∧
      { y with cars := x.cars, tiles := x.tiles } = x

/-! # Levels, traps and system instructions -/

/-- R342: `svc n` raises SVC with SUB n and has no other effect; the EPC of its entry names the word after it. -/
def Obligations.ServiceCallRaisesSvc : Prop :=
  ∀ (s : State) (x : Block) (c : Caravan) (neg : Bool) (f : FmtS), Runs s x c f.pr neg → c.plv = 0 →
    exec (.svc f) s = .next (s.takeTrap s.cur (wholeTrap 0x40 f.n.toNat 0 0)) ∧
    (Quiet c → (isSteward x.core = true → s.fw.phase ≠ .paused) →
      ∀ lvl vector, trapRoute s x c (wholeTrap 0x40 f.n.toNat 0 0) = some (lvl, vector) →
      ∃ d, (s.takeTrap s.cur (wholeTrap 0x40 f.n.toNat 0 0)).car? x.id c.n = some d ∧ d.epc = c.regs.pc + 4)

namespace Sys2Proof.Claims
open Sys2Proof Sys2Proof.Machine

/-- The system instructions but `wfe`, each with its condition field and whether its row of R341, or the row of the register it names (R332),
lists a level. -/
inductive LevelForm : Instr → BitVec 3 → (Nat → Prop) → Prop
  | svc (f) : LevelForm (.svc f) f.pr (· = 0)
  | eret (f) : LevelForm (.eret f) f.pr (fun n => n = 1 ∨ n = 2)
  | eretNobp (f) : LevelForm (.eretNobp f) f.pr (fun n => n = 1 ∨ n = 2)
  | eretTerm (f) : LevelForm (.eretTerm f) f.pr (fun n => n = 1 ∨ n = 2)
  | mfsr (f ls) : sysLevels f.i.toNat false = some ls → LevelForm (.mfsr f) f.pr (· ∈ ls)
  | mtsr (f ls) : sysLevels f.r.toNat true = some ls → LevelForm (.mtsr f) f.pr (· ∈ ls)
  | tlbiPage (f) : LevelForm (.tlbiPage f) f.pr (fun n => n = 1 ∨ n = 2)
  | tlbiSpace (f) : LevelForm (.tlbiSpace f) f.pr (fun n => n = 1 ∨ n = 2)
  | tlbiTenant (f) : LevelForm (.tlbiTenant f) f.pr (fun n => n = 1 ∨ n = 2)
  | scrub (f) : LevelForm (.scrub f) f.pr (· = 2)
  | ovld (f) : f.a.toNat % 2 = 0 → LevelForm (.ovld f) f.pr (· = 1)
  | cacheopDropLine (f) : LevelForm (.cacheopDropLine f) f.pr (fun n => n = 1 ∨ n = 2)
  | cacheopWriteback (f) : LevelForm (.cacheopWriteback f) f.pr (fun n => n = 1 ∨ n = 2)
  | cacheopDropAll (f) : LevelForm (.cacheopDropAll f) f.pr (fun n => n = 1 ∨ n = 2)
  | halt (f) : LevelForm (.halt f) f.pr (· = 2)

end Sys2Proof.Claims

/-- R332, R338, R341, R343, R358: a system instruction issued at a level its row does not list, or an access to a system register at a level the
register's row does not allow, traps with PERMISSION, sub-reason 2, whatever its condition; and so does a `tlbi` of a tenant at level 1. The
levels of the registers: CST, TVEC, TRAPEN and FMTTAB are read at every level, CST written above 0, TVEC, TRAPEN and FMTTAB at 1; EPC,
ECST, EMASK and FREC above 0; SVEC, WAKE and STLAUNCH at 2. That FMTTAB is read at every level is the model's choice (log 27: R358 gives the
level of its write alone). -/
def Obligations.WrongLevelTrapsWithPermission : Prop :=
  (∀ (s : State) (x : Block) (c : Caravan) (neg : Bool) (i : Instr) (pr : BitVec 3) (at_ : Nat → Prop), LevelForm i pr at_ →
    Turn s x c (negpGroup neg) → condOk pr neg → ¬ at_ c.plv → exec i s = .next (s.takeTrap s.cur (wholeTrap 0x11 2 0 0))) ∧
  (∀ (s : State) (x : Block) (c : Caravan) (neg : Bool) (i : Instr) (f : FmtDA), i = .tlbiPage f ∨ i = .tlbiSpace f ∨ i = .tlbiTenant f →
    Runs s x c f.pr neg → c.plv = 1 → (c.regs.rd c.plv f.d.toNat).extractLsb' 16 48 = 0 → (c.regs.rd c.plv f.d.toNat).extractLsb' 0 8 = 2 →
    exec i s = .next (s.takeTrap s.cur (wholeTrap 0x11 2 0 0))) ∧
  (∀ w : Bool, sysLevels 0x00 w = some (if w then [1, 2] else [0, 1, 2]) ∧
    (∀ r, r = 0x04 ∨ r = 0x05 ∨ r = 0x32 → sysLevels r w = some (if w then [1] else [0, 1, 2])) ∧
    (∀ r, (1 ≤ r ∧ r ≤ 3) ∨ (8 ≤ r ∧ r ≤ 15) → sysLevels r w = some [1, 2]) ∧
    (∀ r, r = 0x18 ∨ r = 0x19 ∨ r = 0x57 → sysLevels r w = some [2]))

namespace Sys2Proof.Claims
open Sys2Proof Sys2Proof.Machine

/-- A block is terminated (R339): every member has ended; the block counts as ended, or will once what it had begun is drained. -/
def Terminated (t : State) (b : Nat) : Prop :=
  ∃ y, t.block? b = some y ∧ (∀ d ∈ y.cars, d.status = .ended) ∧ (∀ q, y.seq = some q → q.status = .ended) ∧
    (y.ended = true ∨ y.closing.isSome ∧ t.draining y = true)

end Sys2Proof.Claims

/-- R337: a trap routed to level L, once the caravan's earlier checkpoints have committed: the record, EPC, ECST and EMASK are saved, the
level is L, every thread that has not exited is active, and the pc is the vector, where a checkpoint stands; the divergence stack and every other register stay, and so do
the other caravans and the sequencer. (In the pause of an activation a trap on a steward core waits, R435.) -/
def Obligations.TrapEntrySavesAndVectors : Prop :=
  ∀ (s : State) (b n lvl : Nat) (tr : Trap) (vector : Word) (x : Block) (c : Caravan),
    let s' := s.settleWho (.car b n)
    s.statusOf (.car b n) ≠ some .ended → s'.block? b = some x → x.car? n = some c → trapRoute s' x c tr = some (lvl, vector) →
    (isSteward x.core = true → s.fw.phase ≠ .paused) →
    (∀ l g, lvl = 1 → s'.launch? x.launch = some l → s'.vf? l.vf = some g → vector = g.tvec) ∧
    (∀ k, lvl = 2 → s'.core? x.core = some k → vector = k.svec) ∧
    ∃ t y d, exec (.trapEntry (.car b n) tr) s = .next t ∧ t.block? b = some y ∧ y.car? n = some d ∧
      d.frec = faultRecord s' (.car b n) tr ∧
      d.epc = (if tr.code = 0x40 then c.regs.pc + 4 else c.regs.pc - BitVec.ofNat 64 (4 * c.hints.length)) ∧
      d.ecst = s'.cstOf (.car b n) c ∧ d.emask = c.regs.m ∧ d.plv = lvl ∧ d.cst &&& ~~~0x38 = c.cst &&& ~~~0x38 ∧ d.regs = { c.regs with m := ~~~c.regs.e, pc := vector } ∧
      d.hints = [] ∧ d.status = .running ∧ d.epochs.map (·.snap) = [d.regs] ∧
      (∀ k, k ≠ n → y.car? k = x.car? k) ∧ y.seq = x.seq ∧ (∀ l, t.peek l = s'.peek l)

/-- R336, R339, R432, R435: no caravan trap reaches another level than 1 on a compute core, with a recoverable fault, its TRAPEN bit and a TVEC that is
not 0, and 2 on a steward core, with a recoverable fault; both only from level 0. A trap with no route, of a caravan on a compute core
or of a sequencer, terminates its block: every member has ended, and the block with them, at once or when its transfers and matrix
instructions begun are complete. One of a caravan on a steward core ends the caravan and writes its record to the next entry of SFRING; at level 2 it halts the core too, with REASON 5 and an event to the management controller, and a halted innkeeper core
leaves BUSY set. In the pause of an activation a trap on a steward core waits for its end. -/
def Obligations.TrapsHaveTwoRoutesOrTerminate : Prop :=
  (∀ (s : State) (w : Who) (tr : Trap) (x : Block),
     s.statusOf w ≠ none → s.statusOf w ≠ some .ended → (s.settleWho w).block? (blkOf w) = some x → x.ended = false →
     (isSteward x.core = true → s.fw.phase ≠ .paused) →
     (∀ b n c, w = .car b n → x.car? n = some c → isSteward x.core = false ∧ trapRoute (s.settleWho w) x c tr = none) →
     ∃ t, exec (.trapEntry w tr) s = .next t ∧ Terminated t (blkOf w)) ∧
  (∀ (s : State) (x : Block) (c : Caravan) (tr : Trap) (lvl : Nat) (vector : Word), trapRoute s x c tr = some (lvl, vector) →
     c.plv = 0 ∧ (tr.code = 0x05 ∨ (tr.code = 0x10 ∧ tr.sub = 1) ∨ tr.code = 0x40 ∨ tr.code = 0x41) ∧
     (isSteward x.core = true → lvl = 2 ∧ ∀ k, s.core? x.core = some k → vector = k.svec) ∧
     (isSteward x.core = false → lvl = 1 ∧ vector ≠ 0 ∧ ∃ l f, s.launch? x.launch = some l ∧ s.vf? l.vf = some f ∧ vector = f.tvec ∧
       f.trapen.getLsbD (if tr.code = 0x05 then 0 else if tr.code = 0x10 then 1 else if tr.code = 0x40 then 2 else 3) = true)) ∧
  (∀ (s : State) (b n : Nat) (tr : Trap) (x : Block) (c : Caravan),
     let w := Who.car b n
     let s' := s.settleWho w
     let r := faultRecord s' w tr
     s.statusOf w ≠ none → s.statusOf w ≠ some .ended → s'.block? b = some x → x.car? n = some c → isSteward x.core = true →
     (s.fw.phase = .paused → exec (.trapEntry w tr) s = .next { s with ik := { s.ik with held := s.ik.held ++ [.trapEntry w tr] } }) ∧
     (s.fw.phase ≠ .paused → trapRoute s' x c tr = none → (s'.core? x.core).isSome →
       ∃ t k, exec (.trapEntry w tr) s = .next t ∧ t.statusOf w = some .ended ∧ t.core? x.core = some k ∧
         (s'.fw.sfring ≠ 0 → t.peekN (.glob (s'.fw.sfring.toNat + 64 * s'.fw.sfNext)) 64 = recordBytes r ∧
           t.fw.sfNext = (s'.fw.sfNext + 1) % 64) ∧
         (c.plv = 2 → k.halted = true ∧ t.fw.bootwhy = (s'.fw.bootwhy &&& ~~~0xF0) ||| 0x50 ∧ t.fw.mcEvents = s'.fw.mcEvents + 1 ∧
           (x.core = 262 ∨ x.core = 263 → t.ik.busy = true)) ∧
         (c.plv ≠ 2 → t.fw.bootwhy = s'.fw.bootwhy ∧ t.ik = s'.ik)))

/-- R338: `eret` whose ECST and EMASK it accepts and whose EPC is code at the level it returns to restores the status, mask and pc, with
NOBP exempting the next group from breakpoints; with TERM, whether or not NOBP stands beside it, it terminates the block, or on a
steward core its caravan. -/
def Obligations.ReturnRestoresStatusMaskAndPc : Prop :=
  ∀ (s : State) (x : Block) (c : Caravan) (neg : Bool) (f : FmtN) (ft : FmtTm), Quiet c → c.plv ≠ 0 →
    let lvl := (c.ecst.extractLsb' 4 2).toNat
    let m := c.emask &&& ~~~c.regs.e
    lvl ≤ c.plv → ¬ (isSteward x.core = true ∧ lvl = 1) → c.ecst.extractLsb' 6 58 = 0 → m ≠ 0 →
    (Runs s x c f.pr neg → s.returnTrap s.cur lvl c.epc.toNat = none →
      ∀ i nobp, (i = .eret f ∧ nobp = false ∨ i = .eretNobp f ∧ nobp = true) →
      ∃ t d, exec i s = .next t ∧ BytesKept s t ∧ OnlyBlock s t x.id ∧ t.car? x.id c.n = some d ∧
        d.cst &&& ~~~8 = c.ecst &&& ~~~8 ∧ d.regs = { c.regs with pc := c.epc, m := m } ∧ d.nobp = nobp ∧
        d.hints = [] ∧ d.status = .running ∧ d.epc = c.epc ∧ d.ecst = c.ecst ∧ d.emask = c.emask ∧ d.frec = c.frec) ∧
    (Runs s x c ft.pr neg → isSteward x.core = false → x.ended = false → ∃ t, exec (.eretTerm ft) s = .next t ∧ Terminated t x.id) ∧
    (Runs s x c ft.pr neg → isSteward x.core = true → ∃ t, exec (.eretTerm ft) s = .next t ∧ t.statusOf s.cur = some .ended)

/-- R332, R333: `mfsr` of a register its level may read gives the value in force and changes nothing else; `mtsr` of a value the register
takes, at a level that may write it: the register holds it, and a write of a register that starts an activity puts that on the
agenda. -/
def Obligations.SystemRegisterIsReadAndWritten : Prop :=
  (∀ (s : State) (x : Block) (c : Caravan) (neg : Bool) (f : FmtDI) (ls : List Nat), Runs s x c f.pr neg →
     sysLevels f.i.toNat false = some ls → c.plv ∈ ls →
     let v := BitVec.ofNat 64 (s.sysValue s.cur c f.i.toNat)
     ∃ t, exec (.mfsr f) s = .next t ∧ BytesKept s t ∧ RegsBecome s t x c (c.regs.wr c.plv f.d.toNat v) ∧
       (f.i = 0x01 → v = c.epc) ∧ (f.i = 0x02 → v = c.ecst) ∧ (f.i = 0x03 → v = c.emask.setWidth 64) ∧
       (∀ k : Nat, k < 8 → f.i.toNat = 8 + k → v = vget c.frec k) ∧
       (f.i = 0x20 → v = s.grade.setWidth 64) ∧ (f.i = 0x52 → v = s.fw.fwstat)) ∧
  (∀ (s : State) (x : Block) (c : Caravan) (neg : Bool) (f : FmtAI) (ls : List Nat), Runs s x c f.pr neg → Quiet c →
     sysLevels f.r.toNat true = some ls → c.plv ∈ ls →
     let v := c.regs.rd c.plv f.a.toNat
     let fn := (s.spaceOf s.cur).1
     s.sysTakes s.cur f.r.toNat v.toNat = true →
     ∃ t d, exec (.mtsr f) s = .next t ∧ BytesKept s t ∧ t.car? x.id c.n = some d ∧ d.regs = past c.regs ∧ d.hints = [] ∧ d.status = .running ∧
       (f.r = 0x00 → d.cst &&& ~~~8 = ((c.cst &&& ~~~7) ||| (v &&& 7)) &&& ~~~8) ∧ (f.r ≠ 0x00 → d.cst &&& ~~~8 = c.cst &&& ~~~8) ∧
       d.epc = (if f.r = 0x01 then v else c.epc) ∧ d.ecst = (if f.r = 0x02 then v else c.ecst) ∧
       d.emask = (if f.r = 0x03 then v.setWidth 32 else c.emask) ∧ d.frec = c.frec ∧
       (∀ y, s.vf? fn = some y → ∃ z, t.vf? fn = some z ∧ z.tvec = (if f.r = 0x04 then v else y.tvec) ∧
         z.trapen = (if f.r = 0x05 then v else y.trapen) ∧
         z.bpa = (if f.r = 0x10 then vset y.bpa 0 v else if f.r = 0x11 then vset y.bpa 1 v else y.bpa)) ∧
       (∀ y, s.core? x.core = some y → ∃ z, t.core? x.core = some z ∧ z.svec = (if f.r = 0x18 then v else y.svec)) ∧
       t.fw.sfring = (if f.r = 0x56 then v else s.fw.sfring) ∧
       (f.r = 0x19 → .wake v ∈ t.agenda) ∧ (f.r = 0x53 → .pwrcap v ∈ t.agenda) ∧ (f.r = 0x57 → .stlaunch x.core v ∈ t.agenda) ∧
       (f.r = 0x51 → (if v = 1 then .fwctlReady else .fwctlActivate) ∈ t.agenda))

namespace Sys2Proof.Claims
open Sys2Proof Sys2Proof.Machine

/-- `tlbi` under its three names, and `cacheop` under its three (R343, R346): a register tells the names apart. -/
inductive TlbiForm : Instr → FmtDA → Prop
  | tlbiPage (f) : TlbiForm (.tlbiPage f) f
  | tlbiSpace (f) : TlbiForm (.tlbiSpace f) f
  | tlbiTenant (f) : TlbiForm (.tlbiTenant f) f
inductive CacheopForm : Instr → FmtDA → Prop
  | cacheopDropLine (f) : CacheopForm (.cacheopDropLine f) f
  | cacheopWriteback (f) : CacheopForm (.cacheopWriteback f) f
  | cacheopDropAll (f) : CacheopForm (.cacheopDropAll f) f

end Sys2Proof.Claims

/-- R343, R346, R361: `tlbi` of KIND 0, 1 or 2, where no store waits behind a bind and no atomic at a host, leaves no core a translation of the
page, of the space, or of the tenant; `cacheop` 0 drops the line of an address from its core's L1, 1 from every L1 and constant cache of
the package, whose caches alone leave the directory, 2 every line of its core's; no byte
of memory changes. -/
def Obligations.InvalidationLeavesNothing : Prop :=
  (∀ (s : State) (x : Block) (c : Caravan) (neg : Bool) (i : Instr) (f : FmtDA), TlbiForm i f → Runs s x c f.pr neg → Quiet c → c.plv ≠ 0 →
     let scope := c.regs.rd c.plv f.d.toNat
     let va := (c.regs.rd c.plv f.a.toNat).toNat
     let kind := (scope.extractLsb' 0 2).toNat
     scope.extractLsb' 16 48 = 0 → scope.extractLsb' 2 6 = 0 → kind ≠ 3 → (kind = 2 → c.plv = 2) → s.anyLate = false → s.atHost = false →
     ∃ t, exec i s = .next t ∧ ∀ k ∈ t.cores, ∀ e ∈ k.tlb,
       (kind = 0 → (e.vf, e.proc) = s.spaceOf s.cur → ¬ (e.va ≤ va ∧ va < e.va + e.leaf.size)) ∧
       (kind = 1 → (e.vf, e.proc) ≠ s.spaceOf s.cur) ∧
       (kind = 2 → ∀ g, t.vf? e.vf = some g → g.tenant ≠ (scope.extractLsb' 8 8).toNat)) ∧
  (∀ (s : State) (x : Block) (c : Caravan) (neg : Bool) (i : Instr) (f : FmtDA) (l : Leaf), CacheopForm i f → Runs s x c f.pr neg → Quiet c →
     c.plv ≠ 0 →
     let va := (c.regs.rd c.plv f.a.toNat).toNat
     let op := c.regs.rd c.plv f.d.toNat
     va < 0x01F0000000000000 → s.lookup x.core (s.spaceOf s.cur).1 (s.spaceOf s.cur).2 va = .leaf l →
     (op = 0 → ∃ t, exec i s = .next t ∧ BytesKept s t ∧ CarIs t x c (past c.regs) ∧
       ∀ k, t.core? x.core = some k → ∀ y ∈ k.l1, y.1 ≠ l.paOf va / 256) ∧
     (op = 1 → ∃ t, exec i s = .next t ∧ BytesKept s t ∧ 
       (∀ r ∈ t.sharers (l.paOf va / 256), cacheDie r.cache = none) ∧
       (∀ r ∈ s.sharers (l.paOf va / 256), cacheDie r.cache = none → r.valid ≠ 0 → r ∈ t.sharers (l.paOf va / 256)) ∧
       ∀ k ∈ t.cores, (∀ y ∈ k.l1, y.1 ≠ l.paOf va / 256) ∧ ∀ y ∈ k.consts, y.2.1 ≠ l.paOf va / 256) ∧
     (op = 2 → ∃ t, exec i s = .next t ∧ BytesKept s t ∧ CarIs t x c (past c.regs) ∧ ∀ k, t.core? x.core = some k → k.l1 = []))

/-- R331, R344, R347: `scrub` answers 3, 2 or 1 where it may not scrub; else the core holds nothing but the supervisor images of its
slices (the model's choice, log 49), its L1 no tracked line either, and `scrub` waits, and at its end answers 0. The order of `ovld`'s checks
is the model's choice (log 28), R344 gives none: `ovld` of a bad descriptor answers 3, of a resident overlay 1, where it makes no room 2; else it reads the words as loads and they stand
resident, newest, with status 0. -/
def Obligations.ScrubAndOverlayAnswer : Prop :=
  (∀ (s : State) (x : Block) (c : Caravan) (neg : Bool) (f : FmtDA), Runs s x c f.pr neg → Quiet c → c.plv = 2 →
     let v := c.regs.rd c.plv f.a.toNat
     let core := 64 * (v.extractLsb' 8 2).toNat + (v.extractLsb' 0 6).toNat
     let bad := v.extractLsb' 10 54 ≠ 0 ∨ v.extractLsb' 6 2 ≠ 0
     let answers := fun (n : Nat) => ∃ t, exec (.scrub f) s = .next t ∧ BytesKept s t ∧ CarIs t x c (past (c.regs.wr c.plv f.d.toNat (BitVec.ofNat 64 n)))
     let site := s.siteOn (v.extractLsb' 8 2).toNat (v.extractLsb' 0 6).toNat
     (c.io = none → bad → answers 3) ∧
     (c.io = none → ¬ bad → site = false → answers 2) ∧
     (c.io = none → ¬ bad → site = true → (∃ y ∈ s.blocks, y.core = core ∧ y.launch ≠ 0 ∧ s.holds y = true) → answers 1) ∧
     (c.io = none → ¬ bad → site = true → (∀ y ∈ s.blocks, y.core = core → y.launch ≠ 0 → s.holds y = false) →
       ∃ t d, exec (.scrub f) s = .next t ∧ t.statusOf s.cur = some (.waiting (.scrub core)) ∧ t.car? x.id c.n = some d ∧
         d.io = some { got := [(0, 0)], pending := none, dest := .u f.d.toNat } ∧
         t.trackedLines core = [] ∧ ∀ k, t.core? core = some k → k.overlays = [] ∧ k.images = s.sliceImages core ∧ k.l1 = [] ∧ k.consts = [] ∧ k.tlb = [] ∧ k.array = []) ∧
     (c.io = some { got := [(0, 0)], pending := none, dest := .u f.d.toNat } → answers 0)) ∧
  (∀ (s : State) (x : Block) (c : Caravan) (neg : Bool) (f : FmtDA) (k : CoreSt), Runs s x c f.pr neg → Quiet c → c.plv = 1 → f.a.toNat % 2 = 0 →
     s.core? x.core = some k →
     let addr := (c.regs.rd c.plv f.a.toNat).toNat
     let desc := c.regs.rd c.plv (f.a.toNat + 1)
     let n := (desc.extractLsb' 0 8).toNat
     let len := (desc.extractLsb' 32 19).toNat
     let bad := desc.extractLsb' 8 24 ≠ 0 ∨ desc.extractLsb' 51 13 ≠ 0 ∨ len = 0 ∨ 0x40000 < len ∨ len % 4 ≠ 0 ∨ addr % 256 ≠ 0
     let here := k.overlays.any (fun o => o.launch == x.launch && o.n == n)
     let room := (s.settleWho s.cur).makeRoom x.core len k.overlays.length k
     let answers := fun (st : Nat) => ∃ t, exec (.ovld f) s = .next t ∧ BytesKept s t ∧ CarIs t x c (past (c.regs.wr c.plv f.d.toNat (BitVec.ofNat 64 st)))
     (bad → answers 3) ∧ (¬ bad → here = true → answers 1) ∧ (¬ bad → here = false → room = none → answers 2) ∧
     (¬ bad → here = false → ∀ (k' : CoreSt) (bs : List Byte) (s1 : State), room = some k' →
       (s.settleWho s.cur).readUnits s.cur [] 4 addr (len / 4) = (none, bs, s1) →
       ∃ t j, exec (.ovld f) s = .next t ∧ t.core? x.core = some j ∧ j.overlays = k'.overlays ++ [⟨x.launch, n, imageWords bs⟩] ∧
         CarIs t x c (past (c.regs.wr c.plv f.d.toNat 0))))

/-- R348, R349, R397, R402: `wfe` of a watchable chunk with timeout 0 ends at once with 0; with another it waits on that chunk; a wait that a write has
ended gives 1, and one that has run out 0. `halt` makes its caravan non-speculative and stops it: it is not ready until WAKE names it.
WAKE of a caravan that has halted, from any state, lets it go on at the next word, registers and bytes as they stood, a steward kernel's
before one of the standing block (the model's choice, log 3); of any other it does nothing. A chunk that a load could not read for
poison or a lost home traps so. -/
def Obligations.WatchAndHaltWait : Prop :=
  (∀ (s : State) (x : Block) (c : Caravan) (neg : Bool) (f : FmtW), Runs s x c f.pr neg → Quiet c →
     let va := (c.regs.rd c.plv f.a.toNat).toNat
     let time := c.regs.rd c.plv f.b.toNat
     let reach := fun (g : Seg) => (s.settleWho s.cur).reachTrap s.cur [(0, [g.whole])] true true (fun _ => false)
     (∀ g tr, c.wfe = none → s.wfePlace s.cur va = .ok g → reach g = some tr → exec (.wfe f) s = .next (s.takeTrap s.cur tr)) ∧
     (∀ g, c.wfe = none → s.wfePlace s.cur va = .ok g → reach g = none → time = 0 → ∃ t, exec (.wfe f) s = .next t ∧ BytesKept s t ∧
       CarIs t x c (past (c.regs.wr c.plv f.d.toNat 0))) ∧
     (∀ g, c.wfe = none → s.wfePlace s.cur va = .ok g → reach g = none → time ≠ 0 → ∃ t d, exec (.wfe f) s = .next t ∧ BytesKept s t ∧
       t.car? x.id c.n = some d ∧ d.status = .waiting .chunk ∧ d.regs = c.regs ∧
       d.wfe = some ⟨g.loc.chunk, if time = BitVec.allOnes 64 then none else some (s.clk + time.toNat), false, false⟩) ∧
     (∀ w, c.wfe = some w → ∃ t d, exec (.wfe f) s = .next t ∧ BytesKept s t ∧ t.car? x.id c.n = some d ∧ d.wfe = none ∧
       d.regs = past (c.regs.wr c.plv f.d.toNat (if w.woken then 1 else 0)))) ∧
  (∀ (s : State) (x : Block) (c : Caravan) (neg : Bool) (f : FmtN), Runs s x c f.pr neg → c.plv = 2 →
     ∃ t d, exec (.halt f) s = .next t ∧ t.car? x.id c.n = some d ∧ d.status = .waiting .halt ∧ d.epochs.length = 1 ∧
       (∀ e ∈ d.epochs, e.acts = [] ∧ e.pend = []) ∧ d.regs.pc = c.regs.pc ∧ t.ready s.cur = false ∧
       (∀ v : Word, Quiet c → x.core = 256 + v.toNat / 32 → c.n = v.toNat % 32 → (s.blocks.map (·.id)).Nodup →
         (∀ y ∈ s.blocks, y.core = x.core → y.id ≠ x.id → ∀ d, y.car? c.n = some d → d.status = .ended ∨ (y.launch = 0 ∧ x.launch ≠ 0)) →
         ∃ u e, exec (.wake v) t = .next u ∧ u.car? x.id c.n = some e ∧ e.status = .running ∧ e.regs = { d.regs with pc := c.regs.pc + 4 })) ∧
  (∀ (s : State) (v : Word),
     let core := 256 + v.toNat / 32
     let n := v.toNat % 32
     ∃ u, exec (.wake v) s = .next u ∧
     ((∀ x ∈ s.blocks, x.core = core → ∀ d, x.car? n = some d → d.status ≠ .waiting .halt) → u = s) ∧
     (∀ (x : Block) (c : Caravan), (s.blocks.map (·.id)).Nodup → s.block? x.id = some x → x.core = core → x.car? n = some c →
       c.status = .waiting .halt → (∀ e ∈ c.epochs, e.acts = [] ∧ e.pend = []) →
       (∀ y ∈ s.blocks, y.core = core → y.id ≠ x.id → ∀ d, y.car? n = some d → d.status = .ended ∨ (y.launch = 0 ∧ x.launch ≠ 0)) →
       ∃ d, BytesKept s u ∧ OnlyBlock s u x.id ∧ u.car? x.id n = some d ∧ d.status = .running ∧ d.hints = [] ∧
         d.regs = { c.regs with pc := c.regs.pc + 4 } ∧ d.held = c.late))

namespace Sys2Proof.Claims
open Sys2Proof Sys2Proof.Machine

/-- The hint words (R163 to R167): the instruction and its word; a word of a reserved kind is one of MOD's or SCHED's opcode with KIND
not 0. -/
inductive HintForm : Instr → W32 → Prop
  | imm (f) : HintForm (.imm f) (0xF8000000 ||| encodeFmtImm f)
  | rep (f) : HintForm (.rep f) (0xFA000000 ||| encodeFmtRep f)
  | mod (f) : HintForm (.mod f) (0xFC000000 ||| encodeFmtMod f)
  | sched (f) : HintForm (.sched f) (0xFE000000 ||| encodeFmtSched f)
  | reserved (w) : (Instr.reservedHintWord w).wf = true → HintForm (.reservedHintWord w) w

/-- Hint words whose fields an instruction accepts (R163 to R167): those of a reserved kind, MOD and SCHED with no field set but YLD before any
instruction, IMM where a constant is read, and REP before a copy. -/
inductive Accepts : Instr → W32 → Prop
  | reserved (i w) : reservedHint w = true → Accepts i w
  | mod (i) : Accepts i (modWord 0 false false)
  | sched (i y) : Accepts i (0xFE000000 ||| encodeFmtSched ⟨y, 0, 0, 0⟩)
  | immLoad (i f want p) : VectorLoad i f want true → Accepts i (immWord p)
  | immStore (i f want p) : VectorStore i f want true → Accepts i (immWord p)
  | immAdd (f p) : Accepts (.addImm f) (immWord p)
  | immLoop (f p) : Accepts (.loop f) (immWord p)
  | rep (i f k r n side) : CopyForm i f k → side ≠ 3 → ∀ w ∈ repGroup (some (r, n, side)), Accepts i w

end Sys2Proof.Claims

/-- R36, R163, R169: a hint word takes its slot and joins the open group, the registers as before. Any instruction the group modifies, a
caravan's or a sequencer's, traps with ILLEGAL_INSTRUCTION, whatever its own fields say, where a word is malformed or is the second of its
opcode, reserved kinds apart: at that word where the instruction accepts those before it and they are of different opcodes, else at it or one before it. A word
that is no instruction traps so itself, its place in the hint group in the syndrome, in a sequencer too. Which
of several is reported, and a place above 15 given modulo 16, are the model's choice (log 41), as are the two cycles of every word
(log 1). -/
def Obligations.HintJoinsGroupAndBadWordTraps : Prop :=
  (∀ (s : State) (x : Block) (c : Caravan) (hs : List W32) (i : Instr) (w : W32),
     (HintForm i w ∨ i = .unassignedEncoding w ∧ 0x7C ≤ (w.extractLsb' 25 7).toNat) → Turn s x c hs →
     ∃ t d, exec i s = .next t ∧ BytesKept s t ∧ OnlyBlock s t x.id ∧ t.car? x.id c.n = some d ∧
       d.regs = past c.regs ∧ d.hints = hs ++ [w] ∧ { d with regs := c.regs, hints := c.hints, fix := c.fix } = c ∧ t.clk = s.clk + 2) ∧
  (∀ (s : State) (x : Block) (q : Sequencer) (hs : List W32) (i : Instr) (w : W32),
     (HintForm i w ∨ i = .unassignedEncoding w ∧ 0x7C ≤ (w.extractLsb' 25 7).toNat) → SeqTurn s x q hs →
     ∃ t y, exec i s = .next t ∧ BytesKept s t ∧ OnlyBlock s t x.id ∧ t.block? x.id = some y ∧
       y.seq = some { q with pc := q.pc + 4, hints := hs ++ [w] } ∧ { y with seq := x.seq } = x ∧ t.clk = s.clk + 2) ∧
  (∀ (s : State) (x : Block) (pre post : List W32) (h : W32) (i : Instr) (v : W32),
     let kinds := fun (gs : List W32) => (gs.filter fun g => !reservedHint g).map fun g => g.extractLsb' 25 7
     encode i = some v → (v.extractLsb' 25 7).toNat < 0x7C → (∀ r, i ≠ .reservedHintWord r) → 0x7C ≤ (h.extractLsb' 25 7).toNat →
     reservedHint h = false → (hintFormed h = false ∨ h.extractLsb' 25 7 ∈ kinds pre) →
     ((∃ c, Turn s x c (pre ++ h :: post)) ∨ ∃ q, SeqTurn s x q (pre ++ h :: post)) →
     ∃ k g, k ≤ pre.length ∧ (pre ++ [h])[k]? = some g ∧ reservedHint g = false ∧
       exec i s = .next (s.takeTrap s.cur (wholeTrap 0x01 0 0 (g.toNat + 2 ^ 32 * (k % 16)))) ∧
       ((∀ y ∈ pre, Accepts i y) → (kinds pre).Nodup → k = pre.length)) ∧
  (∀ (s : State) (x : Block) (hs : List W32) (w : W32), ((∃ c, Turn s x c hs) ∨ ∃ q, SeqTurn s x q hs) → (w.extractLsb' 25 7).toNat < 0x7C →
     badHint (fun _ => true) [] hs 0 = none →
     exec (.unassignedEncoding w) s = .next (s.takeTrap s.cur (wholeTrap 0x01 0 0 (w.toNat + 2 ^ 32 * (hs.length % 16)))))

/-! # Words and steps -/

/-- R149, R163, R285, R350, R438, R439: where no event comes first and a group is open or the next agent is chosen, a step fetches the word
at that agent's pc and executes the instruction it decodes to, but where the agent's slot is gated: then the turn moves on and time passes.
No slot is gated but under the cap's gating or a hot die's, and never the eighth in a row. That the agenda's events come first, in their
order, is the model's choice (log 5), as is which slots are gated (log 33). -/
def Obligations.StepRunsDecodedWord : Prop :=
  ∀ (s : State) (w : W32),
    (s.fw.phase ≠ .rom → s.midGroup = true → s.fetch = .word w → step s = exec (resolve s (decode w)) s.begun) ∧
    (∀ who turn, s.fw.phase ≠ .rom → s.midGroup = false → s.nextEvent = none → s.due = [] → s.nextAgent = some (who, turn) →
      (s.pass who turn).fetch = .word w →
      step s = if s.slotGated who then .next (s.passGated who turn) else exec (resolve (s.pass who turn) (decode w)) (s.pass who turn).begun) ∧
    (∀ who turn, let t := s.passGated who turn
      BytesKept s t ∧ t.blocks = s.blocks ∧ t.turn = turn ∧ t.clk = s.clk + 2) ∧
    (∀ who, s.gateCap = false → s.gateHot = [] → s.slotGated who = false) ∧
    (∀ core path k, s.core? core = some k → 7 ≤ vget k.gated path → s.gates core path = false) ∧
    (∀ i rest, s.fw.phase ≠ .rom → s.midGroup = false → s.nextEvent = some (i, rest) → step s = exec i { s with agenda := rest }) ∧
    ((∀ f, decode w ≠ .tlbiPage f) → (∀ f, decode w ≠ .cacheopDropLine f) → resolve s (decode w) = decode w)

/-- R163 to R167, R175, R285: sample words of the spec's tables decode to the instructions they stand for. -/
def Obligations.SampleWordsDecode : Prop :=
  decode 0xD2100003 = .brd ⟨0, 1, 3⟩ ∧ decode 0xD4700003 = .join ⟨0, 3⟩ ∧ decode 0xDE700000 = .exit ⟨0, 7⟩ ∧
  decode 0xD67C0140 = .brx ⟨0, 7, 5⟩ ∧ decode 0xD67C0FC2 = .ret ⟨0, 7, 63⟩ ∧ decode 0xDA70000A = .call ⟨0, 7, 10⟩ ∧
  decode 0xDC7140FD = .loop ⟨0, 7, 5, 0xFD⟩ ∧ decode 0xEA700100 = .setvb ⟨0, 7, 4⟩ ∧
  decode 0xFFFFFFFF = .reservedHintWord 0xFFFFFFFF ∧
  decode 0x00F83042 = .add ⟨1, 2, 7, 3, 1, 2⟩ ∧ decode 0x00A83042 = .add ⟨1, 2, 2, 3, 1, 2⟩ ∧ decode 0xFC020000 = .mod ⟨0, 0, 1, 0, 0, 0⟩ ∧
  decode 0x7271450C = .addImm ⟨0, 7, 5, 5, 0x0C⟩ ∧ decode 0x7211450C = .addImm ⟨0, 1, 5, 5, 0x0C⟩ ∧ decode 0xF8123456 = .imm ⟨0x123456⟩ ∧
  decode 0xF9FFFFFC = .imm ⟨0x1FFFFFC⟩ ∧ decode 0x91F86102 = .ld ⟨3, 2, 7, 6, 4, 2⟩ ∧ decode 0xFC010000 = .mod ⟨0, 0, 0, 0, 2, 0⟩ ∧
  decode 0xE9F10C47 = .mrowRead ⟨3, 7, 2, 3, 1, 7⟩ ∧ decode 0xE9F14C47 = .mcolRead ⟨3, 7, 2, 3, 1, 7⟩ ∧ decode 0xEA710C47 = .mrowWrite ⟨0, 7, 2, 3, 1, 7⟩ ∧
  decode 0xD07FFFFD = .bra ⟨0, 7, 0xFFFFD⟩ ∧ decode 0xFA4801C0 = .rep ⟨9, 3, 2⟩ ∧ decode 0xFC240000 = .mod ⟨4, 1, 0, 0, 0, 0⟩ ∧
  decode 0xFC204700 = .mod ⟨4, 0, 0, 1, 0, 7⟩ ∧ decode 0xFE200000 = .sched ⟨1, 0, 0, 0⟩ ∧ decode 0xFE0C0000 = .sched ⟨0, 0, 1, 2⟩

/-- R150 to R152: every well-formed instruction with a word of its own is what its word decodes to, at every value of every operand. -/
def Obligations.EveryWordDecodesBack : Prop :=
  ∀ (i : Instr) (w : W32), encode i = some w → i.wf = true → (∀ f, i ≠ .tlbiSpace f) → (∀ f, i ≠ .tlbiTenant f) →
    (∀ f, i ≠ .cacheopWriteback f) → (∀ f, i ≠ .cacheopDropAll f) → (∀ v, i ≠ .unassignedEncoding v) → decode w = i

/-- R149, R163, R169: the word of what a word decodes to is that word: no bit of an encoding is dropped. -/
def Obligations.NoBitOfAWordIsDropped : Prop := ∀ w : W32, encode (decode w) = some w

/-! # Reset -/

/-- R330, R430, R437, R438: what package reset leaves, by the model's choice the values of log 3 and the numbers of links of log 16 among it: the boot ROM about to run, the clock at 0,
BOOTWHY 0, PWRCAP 2,600, no launch but the steward's own, no tenant, every interface unlocked, no link failed, the Syzin ports down and the die crossings up; of every boot
caravan level 2, pc 0, every s register, as read at its level and as stored, every v register, predicate and condition 0, every thread active
and none exited, and nothing on its stack; every memory in its canonical form. -/
def Obligations.ResetValues : Prop :=
  (State.reset.clk = 0 ∧ State.reset.fw.phase = .rom ∧ State.reset.fw.bootwhy = 0 ∧ State.reset.fw.pwrcap = 2600 ∧ State.reset.tenants = [] ∧
   State.reset.bundles = [] ∧ State.reset.launches.map (·.id) = [0] ∧ (∀ f ∈ State.reset.vfs, f.ifstate = 0 ∧ f.queues = [] ∧ f.tvec = 0) ∧
   State.reset.links.map (·.1) = List.range 26 ∧ (∀ y ∈ State.reset.links, y.2.failed = false ∧ y.2.up = decide (16 ≤ y.1))) ∧
  (∀ x ∈ State.reset.blocks, x.seq = none ∧ ∀ c ∈ x.cars, c.plv = 2 ∧ c.regs.pc = 0 ∧ c.regs.stack = [] ∧ c.regs.m = BitVec.allOnes 32 ∧ c.regs.e = 0 ∧
    (∀ r, r < 64 → c.regs.rd c.plv r = 0 ∧ vget c.regs.s r = 0 ∧ vget c.regs.v r = VReg.zero) ∧ (∀ r, r < 8 → vget c.regs.s2 r = 0) ∧
    (∀ r, r < 7 → vget c.regs.p r = 0) ∧ ∀ r, r < 4 → vget c.regs.c r = false) ∧
  (MemoryOk State.reset)

/-! # Events of the memory system -/

/-- R14, R17, R89, R357, R386 to R388, R392, R399, R402: a tracked request performed at its home leaves the words with its requester, where its L1
has a line to spare for them and no bundle entered on another die keeps them from it, and takes them, or for a read their ownership, from every
other cache, and no byte changes; one whose core can no longer reach the home is granted nothing, one that carries an old incarnation number
does nothing, nor does one from a fenced package, or from another package for a frame its tenant does not own. A request of another package
of the pod to own words, or of a package of another pod, writes the bytes it carries and no other (their form in a request and the numbers of
packages are the model's, logs 16 and 43). An invalidation leaves its cache, a core's or an L2, none of the
words, and a caravan of a core it serves with a read mark on one of them stands again at its checkpoint with its held operations gone; no
byte changes; one that carries an old incarnation number does nothing. -/
def Obligations.HomeGrantsWordsAndReadersRollBack : Prop :=
  (∀ (s : State) (src : Requester) (line first last : Nat) (own : Bool), first ≤ last → last < 64 →
    let c := src.cache
    let m := spanMask first last
    let lost := s.homeLost (dieOf c) (s.homeOf (.glob (256 * line)))
    (c < 512 → (s.core? c).isSome → src.inc = s.incarnation c → lost = none →
      ∃ t, exec (.homeRequest src line first last own) s = .next t ∧ BytesKept s t ∧
        (s.mayHold c line = true → s.crowded c [line] = false →
          ∃ r ∈ t.sharers line, r.cache = c ∧ r.valid &&& m = m ∧ (own = true → r.owned &&& m = m)) ∧
        (∀ r ∈ t.sharers line, r.cache ≠ c → (if own then r.valid else r.owned) &&& m = 0)) ∧
    (c < 512 → (s.core? c).isSome → src.inc = s.incarnation c → lost.isSome →
      ∃ t, exec (.homeRequest src line first last own) s = .next t ∧ BytesKept s t ∧ t.dir = s.dir) ∧
    ((s.isCache c = true ∨ s.isFarPackage c = true) → src.inc ≠ s.incarnation c → exec (.homeRequest src line first last own) s = .next s) ∧
    (∀ p, (s.isFarPackage c = true ∨ p < 16 ∧ c = 512 + p) → (c < 1024 ∧ s.fenced.contains p = true ∨ s.ownerOf (256 * line) ≠ src.tenant) →
      exec (.homeRequest src line first last own) s = .next s) ∧
    (∀ p o bs, (s.isFarPackage c = true ∨ p < 16 ∧ c = 512 + p ∧ own = true ∧ s.fenced.contains p = false) → src.inc = s.incarnation c →
      inTiers (256 * line) = true → s.ownerOf (256 * line) = src.tenant → src.store = some (o, bs) → 4 * first ≤ o →
      o + bs.length ≤ 4 * (last + 1) → ∃ t, exec (.homeRequest src line first last own) s = .next t ∧
        t.peekN (.glob (256 * line + o)) bs.length = bs ∧
        ∀ a, (a < 256 * line + o ∨ 256 * line + o + bs.length ≤ a) → t.peek (.glob a) = s.peek (.glob a))) ∧
  (∀ (s : State) (cache source line : Nat) (words : Word), s.isCache cache = true →
    (∀ inc, inc ≠ s.incarnation source → exec (.invalidation ⟨cache, source, inc⟩ line words) s = .next s) ∧
    ∃ t, exec (.invalidation ⟨cache, source, s.incarnation source⟩ line words) s = .next t ∧ BytesKept s t ∧
      (∀ r ∈ t.sharers line, r.cache = cache → r.valid &&& words = 0 ∧ r.owned &&& words = 0) ∧
      (words = BitVec.allOnes 64 → ∀ k, t.core? cache = some k → ∀ y ∈ k.l1, y.1 ≠ line) ∧
      (∀ (x : Block) (c : Caravan) (e : Epoch), (s.blocks.map (·.id)).Nodup → (x.cars.map (·.n)).Nodup → x ∈ s.blocks → c ∈ x.cars →
        (x.core = cache ∨ x.core < 256 ∧ cache = 576 + x.core / 64) → c.epochs = [e] →
        (e.marks.any fun l => (maskWords line words).contains l) = true →
        ∃ d, t.car? x.id c.n = some d ∧ d.regs = e.snap ∧ d.held = c.late ∧ d.status = .running ∧ d.hints = []))

/-- R109, R159, R298, R316, R348, R395, R397, R399: what an agent waits for comes: a result is written to its register; a host
atomic's lanes are performed together with the last of its completions (the model's choice, log 52) and their old values kept, or its
failure traps with POISON_DATA; a `wfe` runs out; the bytes of a streamed access that carries its core's incarnation number join its access, and
one that carries another does nothing; escort ends; an uncorrectable error rolls back, traps, or poisons its line. -/
def Obligations.CompletionsReachTheirAgents : Prop :=
  (∀ (s : State) (x : Block) (c : Caravan), s.block? x.id = some x → x.car? c.n = some c → c.status ≠ .ended →
    (∀ (e : Epoch) (p : Pend), c.epochs = [e] → e.pend = [p] → p.val ≠ .held →
      ∃ t d, exec (.scoreboardWriteback (.car x.id c.n)) s = .next t ∧ OnlyBlock s t x.id ∧ BytesKept s t ∧ t.car? x.id c.n = some d ∧
        d.regs = c.regs.put c.plv p ∧ (∀ y ∈ d.epochs, y.pend = []) ∧ { d with regs := c.regs, epochs := c.epochs } = c) ∧
    (∀ (io : IoWait) (q : HostReq) (performed : Bool), x.closing = none → c.io = some io → io.pending = some q →
      let hosts := q.lanes.filter (·.seg.host)
      let all := amoLanes (.car x.id c.n) q.op q.bytes q.lanes s
      (q.done + 1 < hosts.length → ∃ t d, exec (.hostAtomicCompletion x.id c.n true performed) s = .next t ∧ OnlyBlock s t x.id ∧
        BytesKept s t ∧ t.car? x.id c.n = some d ∧ d = { c with io := some { io with pending := some { q with done := q.done + 1 } } }) ∧
      (hosts.length ≤ q.done + 1 → ∃ t d, exec (.hostAtomicCompletion x.id c.n true performed) s = .next t ∧ t.far = all.2.far ∧
        (∀ l, t.peek l = all.2.peek l) ∧ t.car? x.id c.n = some d ∧ d.io = some { io with got := all.1, pending := none } ∧ d.regs = c.regs) ∧
      (∀ y pa, q.lanes = [y] → y.seg.loc = .glob pa → (y.seg.leaf.bind fun l => l.secondOf y.seg.va) = none →
        let bytes := s.peekN (.glob pa) q.bytes
        let n := 2 ^ (8 * q.bytes)
        all.1 = [(y.lane, BitVec.ofNat 64 (leNat bytes))] ∧
        all.2.peekN (.glob pa) q.bytes = (match amoNew q.op (8 * q.bytes) (leNat bytes) (y.operand % n) (y.swap % n) with
          | some z => leBytes q.bytes z | none => bytes) ∧
        (∀ l, (∀ i, i < q.bytes → l ≠ .glob (pa + i)) → all.2.peek l = s.peek l)) ∧
      (∀ y, q.lanes = [y] → y.seg.host = true → q.done = 0 →
        exec (.hostAtomicCompletion x.id c.n false false) s = .next (((s.modCar x.id c.n fun z => { z with io := none }).takeTrap (.car x.id c.n)
          { wholeTrap 0x30 2 y.seg.va 0 with lanes := q.report.getD (maskOf (· == y.lane)) }).finishClosing x.id))) ∧
    (∀ (v : WfeWait), c.wfe = some v → v.deadline.isSome →
      ∃ t d, exec (.wfeTimeout x.id c.n) s = .next t ∧ OnlyBlock s t x.id ∧ BytesKept s t ∧ t.car? x.id c.n = some d ∧
        d = { c with wfe := some { v with timedOut := true } }) ∧
    (∀ (e : Epoch) (es : List Epoch), c.epochs = e :: es →
      ∃ t d, exec (.uncorrectableError (.fresh x.id c.n)) s = .next t ∧ BytesKept s t ∧ t.car? x.id c.n = some d ∧ d.regs = e.snap ∧ d.held = c.late) ∧
    (∀ array, exec (.uncorrectableError (.lasting (.car x.id c.n) array)) s =
      .next (s.takeTrap (.car x.id c.n) (wholeTrap 0x30 3 0 array)))) ∧
  (∀ (s : State) (pa len : Nat), ∃ t, exec (.uncorrectableError (.line pa len)) s = .next t ∧ BytesKept s t ∧
    (∀ i, i < len → (t.poisonAt (.glob (pa + i))).isSome) ∧
    ∀ p, p < pa ∨ pa + len ≤ p → t.poisonAt (.glob p) = s.poisonAt (.glob p)) ∧
  (∀ (s : State) (k : CoreSt), s.core? k.id = some k → k.escEnd ≤ s.clk →
    ∃ t, exec (.coreEscortEnd k.id) s = .next t ∧ BytesKept s t ∧ t.core? k.id = some { k with escEnd := 0 }) ∧
  (∀ (s : State) (r : StreamReq) (io : IoWait) (l : Nat) (g : Seg) (f : Leaf) (pa : Nat), s.streams.find? (fun y => y.id == r.id) = some r → s.nacked = [] →
    (s.currentStream r = false → exec (.streamAccess r.id) s = .next s) ∧
    (s.currentStream r = true → r.store = none → r.lanes = [(l, [g])] → g.leaf = some f → g.loc = .glob pa → f.slot ≠ 0 → (r.decode = false ∨ f.fmt = 0) →
    (∀ x, s.block? (blkOf r.who) = some x → x.closing = none) →
    let s1 : State := { s with streams := s.streams.filter fun y => y.id != r.id }
    s1.reachTrap r.who r.lanes true r.whole (fun _ => false) = none →
    let got := s1.streamAccess r.tenant f.slot pa (g.va - f.base) none g.len
    got.2.ioOf r.who = some io →
    ∃ t, exec (.streamAccess r.id) s = .next t ∧ t.tenants = got.2.dropClosed.tenants ∧ (∀ y ∈ t.streams, y.id ≠ r.id) ∧
      t.ioOf r.who = some { io with got := [(l, BitVec.ofNat 64 (leNat got.1))], pending := none }))

namespace Sys2Proof.Claims
open Sys2Proof Sys2Proof.Machine

/-- An element of a destination row of `mst.s` from the one there and the one of a source row (R276): that one, their f32 sum rounded once, or
their i32 sum, clamped under SAT. -/
def scatterInto (k : MxKind) (sat : Bool) (old new : W32) : W32 :=
  match k with
  | .mstF => BitVec.ofNat 32 (Fmt.f32.round 0 false 0 ((Fmt.f32.decode old.toNat).add false (Fmt.f32.decode new.toNat)))
  | .mstI => if sat then BitVec.ofInt 32 (max (-2147483648) (min 2147483647 (old.toInt + new.toInt))) else old + new
  | _ => new

/-- Is a kind one of the three forms of `mst.s`? -/
def scatters (k : MxKind) : Prop := k = .mst ∨ k = .mstF ∨ k = .mstI

/-- The n16 entries of the index vector at an offset. -/
def indexAt (x : Block) (off : Nat) : List Nat := (List.range 64).map fun i => leNat (x.ls.readN (off + 2 * i) 2)

end Sys2Proof.Claims

/-- R105, R266 to R268, R273, R274, R276 to R278, R438: the array, whose taking is not gated, takes the next matrix instruction, and its operand read is the next event of the agenda; that event takes the index
vector and the rows of A and B as they stand in the local store; it completes with its tiles written: `mma` the products accumulated, `mmag` with
the rows of A its index vector names and zeros for 0xFFFF, `mma.cv` the products of its member's pieces, `mst.s` and its adding forms
the rows of the source tile put, or added in ascending order of source rows, where the index vector says, `mzero` zeros, and no other
tile. -/
def Obligations.ArrayTakesReadsAndCompletes : Prop :=
  ∀ (s : State) (x : Block) (k : CoreSt) (m : MxOp), s.core? k.id = some k → s.block? m.blk = some x →
    ((∀ y ∈ k.array, y.stage ≠ 1) → s.nextMx k = some m → m.kind ≠ .mmaCv → (s.gating = true → 7 ≤ vget k.gated 4) →
      ∃ t j, exec (.matrixTake k.id) s = .next t ∧ BytesKept s t ∧ t.core? k.id = some j ∧
        { m with stage := if m.kind = .mzero then 2 else 1 } ∈ j.array ∧ j.arrayLast = x.slot ∧
        (if m.kind = .mzero then .matrixComplete k.id ∈ t.agenda else t.agenda.head? = some (.matrixOperandRead k.id))) ∧
    (k.array.find? (fun y => y.stage == 1) = some m → x.lsPoison = [] →
      let reads := fun (q : MxOp → Prop) => ∃ t j n, exec (.matrixOperandRead k.id) s = .next t ∧ BytesKept s t ∧ t.core? k.id = some j ∧ n ∈ j.array ∧
        n.stage = 2 ∧ n.d = m.d ∧ n.a = m.a ∧ n.sat = m.sat ∧ n.blk = m.blk ∧ .matrixComplete k.id ∈ t.agenda ∧ q n
      let rowA := fun (n : MxOp) (r : Nat) => (n.rowOf r).bytes = x.ls.readN (descOff m.ga + r * descStride m.ga) 384
      let colsB := fun (n : MxOp) => n.cols.map (fun y => (y.1, y.2.map (·.bytes))) =
        [(0, (List.range 64).map fun r => x.ls.readN (descOff m.gb + r * descStride m.gb) 384)]
      (m.kind = .mma → reads fun n => (∀ r, r < 64 → rowA n r) ∧ colsB n) ∧
      (m.kind = .mmag → let ix := indexAt x (m.ga1.extractLsb' 0 32).toNat
        mxCheck s x { m with index := ix } true = none → reads fun n => n.index = ix ∧ (∀ r ∈ ix, r ≠ 0xFFFF → rowA n r) ∧ colsB n) ∧
      (scatters m.kind → let ix := indexAt x (m.gb.extractLsb' 0 32).toNat
        (∀ e ∈ ix, e ≠ 0xFFFF → x.tileUsable (m.d + e / 64) = true) → reads fun n => n.index = ix)) ∧
    (∀ rest, k.array = m :: rest → s.mxReady m = true → x.closing = none →
      let completes := fun (q : Vector Tile 32 → Prop) => ∃ t j y, exec (.matrixComplete k.id) s = .next t ∧ BytesKept s t ∧ t.core? k.id = some j ∧
        j.array = rest ∧ t.block? m.blk = some y ∧ { y with tiles := x.tiles } = x ∧ q y.tiles
      let into := fun (n : Nat) (rows cols : List MxRow) => product m.aFmt m.bFmt m.sat rows cols (vget x.tiles n)
      let cols := fun (b : Nat) => ((m.cols.find? fun c => c.1 == b).map (·.2)).getD []
      (m.kind = .mma → completes fun ts => ts = vset x.tiles m.d (into m.d ((List.range 64).map m.rowOf) (cols 0))) ∧
      (m.kind = .mmag → completes fun ts => ts = vset x.tiles m.d
        (into m.d (m.index.map fun q => if q = 0xFFFF then MxRow.zero else m.rowOf q) (cols 0))) ∧
      (∀ cv, m.kind = .mmaCv → x.convoyOf (shapeSlot m.ga1) = some cv →
        let pieces := piecesOf (shapeGr m.ga1) (shapeGc m.ga1) cv.members.length cv.rank
        completes fun ts =>
          (∀ p i b, pieces[p]? = some (i, b) → m.d + p < 32 →
            vget ts (m.d + p) = into (m.d + p) ((List.range 64).map fun r => m.rowOf (64 * i + r)) (cols b)) ∧
          (∀ n, n < 32 → (n < m.d ∨ m.d + pieces.length ≤ n) → vget ts n = vget x.tiles n)) ∧
      (scatters m.kind → m.index.length = 64 → completes fun ts => ∀ n r c, n < 32 → r < 64 → c < 64 →
        tileAt (vget ts n) r c = ((List.range 64).filter fun i => decide (m.d ≤ n) && m.index[i]? == some (64 * (n - m.d) + r)).foldl
          (fun old i => scatterInto m.kind m.sat old (tileAt (vget x.tiles m.a) i c)) (tileAt (vget x.tiles n) r c)) ∧
      (m.kind = .mzero → completes fun ts => ∀ n, n < 32 → vget ts n = if m.d ≤ n ∧ n ≤ m.d + m.a then Tile.zero else vget x.tiles n))

namespace Sys2Proof.Claims
open Sys2Proof Sys2Proof.Machine

/-- Process `proc` of function `vf` is p. -/
def procIs (s : State) (vf proc : Nat) (p : Proc) : Prop := (s.vf? vf).bind (fun f => f.proc? proc) = some p

end Sys2Proof.Claims

/-- R88, R304, R305, R358, R363: a bundle request whose lines the quota takes starts its load; a load that completes makes its entry
complete and arrives on its barrier. SYNC starts on a dual-home leaf, and fails with reason 1 where there is none; each of its steps
copies the next line to the second frame and counts it; SWITCH makes that frame primary, or fails with reason 3, where no leaf is a window
even with DHSTAT 2 (the model's choice, log 40). -/
def Obligations.BundlesLoadAndWindowMoves : Prop :=
  (∀ (s : State) (r : BundleReq) (u : Bundle) (b : Nat), s.bundle? u.handle = some u → s.nextRequest r.tenant r.die = some r → r.blk = some b →
    r.handles = [u.handle] → s.fits r.tenant r.die r.handles = true →
    ∃ t, exec (.bundleRequestServe r.tenant r.die) s = .next t ∧ BytesKept s t ∧ t.bundle? u.handle = some { u with state := max u.state 1 } ∧
      t.bundleReqs = s.bundleReqs.filter (fun q => !(q.same r)) ∧ .bundleEntryComplete b u.handle ∈ t.agenda ∧ t.blocks = s.blocks) ∧
  (∀ (s : State) (u : Bundle) (x : Block) (e : Entry) (n : Nat), s.bundle? u.handle = some u → s.block? x.id = some x →
    x.entries.filter (fun y => y.handle == u.handle && y.pending.isSome) = [e] → e.pending = some n → e.leave = false →
    let a := vget x.bars n
    ∃ t y, exec (.bundleEntryComplete x.id u.handle) s = .next t ∧ BytesKept s t ∧
      t.bundle? u.handle = some { u with state := 2, entryTime := s.nextId } ∧
      t.block? x.id = some y ∧ { y with cars := x.cars } = { x with
        entries := x.entries.filter (fun y => !(y.handle == u.handle && y.pending.isSome)) ++ [{ e with pending := none }]
        bars := vset x.bars n (if a.count + 1 = a.n then ⟨a.n, 0, a.p + 1⟩ else ⟨a.n, a.count + 1, a.p⟩) }) ∧
  (∀ (s : State) (vf proc : Nat) (p : Proc), procIs s vf proc p →
    let becomes := fun (i : Instr) (n : Nat) => ∃ t, exec i s = .next t ∧ BytesKept s t ∧ procIs t vf proc { p with dhstat := BitVec.ofNat 64 n }
    let st := (p.dhstat.extractLsb' 0 2).toNat
    let n := (p.dhstat.extractLsb' 32 32).toNat
    (s.windowLeaf vf proc = none → becomes (.dhctlSync vf proc) 0x13 ∧ becomes (.dhctlSwitch vf proc) 0x33) ∧
    (st ≠ 1 → exec (.dhLineCopy vf proc) s = .next s) ∧
    (∀ (l : Leaf) (second : Nat), s.windowLeaf vf proc = some l → l.pa2 = some second →
      (s.bundles = [] → becomes (.dhctlSync vf proc) 1 ∧ ∀ t, exec (.dhctlSync vf proc) s = .next t → .dhLineCopy vf proc ∈ t.agenda) ∧
      (st ≠ 2 → becomes (.dhctlSwitch vf proc) 0x33) ∧
      (st = 2 → ∃ t, exec (.dhctlSwitch vf proc) s = .next t ∧ BytesKept s t ∧
        procIs t vf proc { p with switched := !p.switched, dhstat := 0 } ∧
        ∀ k ∈ t.cores, ∀ y ∈ k.l1, ¬ (l.pa ≤ 256 * y.1 ∧ 256 * y.1 < l.pa + l.size)) ∧
      (st = 1 → l.pa % 256 = 0 → ∃ t, exec (.dhLineCopy vf proc) s = .next t ∧ t.far = s.far ∧
        (∀ i, i < 256 → t.peek (.glob (second + 256 * n + i)) = s.peek (.glob (l.pa + 256 * n + i))) ∧
        (∀ y, (∀ i, i < 256 → y ≠ .glob (second + 256 * n + i)) → t.peek y = s.peek y) ∧
        procIs t vf proc { p with dhstat := BitVec.ofNat 64 ((if 256 * (n + 1) < l.size then 1 else 2) + 2 ^ 32 * (n + 1)) })))

/-! # Ports, queues, admission and energy -/

namespace Sys2Proof.Claims
open Sys2Proof Sys2Proof.Machine

/-- Pipe q of launch l is p. -/
def pipeIs (s : State) (l q : Nat) (p : Pipe) : Prop := ∃ y, s.launch? l = some y ∧ y.pipes[q]? = some p

/-- Queue q of function vf is x. -/
def queueIs (s : State) (vf q : Nat) (x : Queue) : Prop := ∃ f, s.vf? vf = some f ∧ f.queue? q = some x

end Sys2Proof.Claims

/-- R321, R324, R367, R377, R378, R436: a frame on an enabled port takes the next sequence number; without a pipe to go to it is dropped
and counted, and else its entry goes into the pipe: time, address, length, port, flags, number, fields; a pause frame is only
counted. A port sends the oldest entry's frame with its check sequence. A feed queue's entry goes into its pipe where there is room.
An energy sample clears the counts and gates until the average lies under the cap; a window makes every budget whole. The emit buffer before
the ring (log 31), the check sequence and what a pause frame is (log 15), and the sample's gating mark (log 33) are the model's choices. -/
def Obligations.FramesFeedsAndEnergy : Prop :=
  (∀ (s : State) (i : Nat) (bytes : List Byte), i < 2 → (vget s.ports i).enabled = true → 64 ≤ bytes.length →
    let p := vget s.ports i
    let wire := min bytes.length 9216
    let input := if 9216 < bytes.length then bytes.take 9212 else bytes.take (bytes.length - 4)
    ((isPause bytes && fcsGood bytes) = true → ∃ t, exec (.ingestFrame i bytes) s = .next t ∧ BytesKept s t ∧
      vget t.ports i = { p with paused := p.paused + 1 }) ∧
    ((isPause bytes && fcsGood bytes) = false → s.portPipe i = none → ∃ t, exec (.ingestFrame i bytes) s = .next t ∧
      vget t.ports i = { p with seqn := p.seqn + 1, drops := p.drops + 1, lost := true }) ∧
    (∀ (l : Launch) (q : Nat) (z : Pipe) (r : List Byte) (start : Nat), (isPause bytes && fcsGood bytes) = false →
      s.portPipe i = some (l, q) → s.launch? l.id = some l → l.pipes[q]? = some z → z.closed = false → s.pipeUsed l q < z.depth → p.slot = 0 →
      s.deviceRead p.vf p.proc p.ring 4 = some r → reserve p (leNat r) ((wire + 255) / 256 * 256) = some start →
      ∃ t, exec (.ingestFrame i bytes) s = .next t ∧
        pipeIs t l.id q { z with entries := z.entries ++ [s.timeBytes ++ leBytes 8 (p.ring + start) ++ leBytes 2 input.length ++ leBytes 1 i ++
          leBytes 1 ((if fcsGood bytes then 0 else 1) + (if 9216 < bytes.length then 2 else 0) + (if p.lost then 4 else 0)) ++
          leBytes 4 p.seqn.toNat ++ List.replicate 8 0] } ∧
        (vget t.ports i).seqn = p.seqn + 1 ∧ (vget t.ports i).lost = false ∧ (vget t.ports i).drops = p.drops)) ∧
  (∀ (s : State) (i : Nat) (l : Launch) (q : Nat) (z : Pipe) (e bs : List Byte) (rest : List (List Byte)), i < 2 → s.txPipe i = some (l, q) →
    s.launch? l.id = some l → l.pipes[q]? = some z → z.entries = e :: rest → s.deviceRead l.vf l.proc (fieldAt e 0 8) (fieldAt e 8 2) = some bs →
    fieldAt e 11 1 % 2 = 0 →
    ∃ t, exec (.transmitFrame i) s = .next t ∧ BytesKept s t ∧ pipeIs t l.id q { z with entries := rest } ∧
      vget t.ports i = { vget s.ports i with sent := (vget s.ports i).sent ++ [bs ++ fcsOf bs] }) ∧
  (∀ (s : State) (vf q i : Nat) (f : Vf) (x : Queue) (l : Launch) (p : Pipe), s.vf? vf = some f → f.queue? q = some x →
    s.feedPipe vf q = some (l, i) → s.launch? l.id = some l → l.pipes[i]? = some p → p.closed = false → s.pipeUsed l i < p.depth →
    (∀ e rest, x.emit = e :: rest → ∃ t, exec (.feedQueuePush vf q) s = .next t ∧ BytesKept s t ∧
      pipeIs t l.id i { p with entries := p.entries ++ [e] } ∧ queueIs t vf q { x with emit := rest }) ∧
    (∀ e, x.emit = [] → x.serves f = true → x.feeds = true → x.filled ≠ 0 → s.slotBytes x 32 = some e →
      ∃ t, exec (.feedQueuePush vf q) s = .next t ∧ BytesKept s t ∧ pipeIs t l.id i { p with entries := p.entries ++ [e] } ∧
        queueIs t vf q { x with head := BitVec.ofNat 32 ((x.head.toNat + 1) % x.size) })) ∧
  (∀ s : State, ∃ t, exec .energyMeterSample s = .next t ∧ BytesKept s t ∧ t.meters = [] ∧ t.samples = s.clk / 27000 ∧
    t.gateCap = decide (s.fw.pwrcap.toNat ≤ Config.watts s.samples)) ∧
  (∀ s : State, ∃ t, exec .energyWindowStart s = .next t ∧ BytesKept s t ∧ t.energyWin = s.clk / 2700000 ∧ .packetDispatch ∈ t.agenda ∧
    t.vfs = s.vfs.map (fun f => { f with charged := 0 }) ∧ ∀ f ∈ t.vfs, t.energyLeft f = t.budget f.id)

/-- R27, R366, R368, R369, R371, R374, R375, R441: where a queue's turn comes its packet is read: an unreadable one stops the queue with
its error; a packet that is taken moves the head past it, and a launch that passes its checks waits for admission. A semaphore that
has its value makes the packet eligible. A chunk is stolen from the die with most untouched. Admission issues the next block of a chunk,
and places one that cores take. A slice goes to the next active function. A launch whose blocks have ended writes its record and is
gone; a gang whose port or feed queue another has taken before its admission fails with GANG_UNFIT. A slice's end with no active function (log
46), a semaphore's add after an error record (log 30), the placement of `startAll` (log 32) and the look at a gang's feeds at admission (log 31)
are the model's choices, as is that a packet with `.stream` directives waits out the pause of an activation (R176, R326; log 21). -/
def Obligations.LaunchesMoveOn : Prop :=
  (∀ s : State, s.choice = none → exec .packetDispatch s = .next s) ∧
  (∀ (s : State) (vf proc q pri : Nat) (f : Vf) (x : Queue), s.choice = some (vf, proc, q, pri) →
    let s1 := (s.withProc vf proc).noteServed vf proc q pri
    (s.fw.phase = .paused → s.bindsIn vf q = false ∨
      exec .packetDispatch s = .next { s with ik := { s.ik with held := s.ik.held ++ [.packetDispatch] } }) ∧
    (s.fw.phase ≠ .paused ∨ s.bindsIn vf q = false → s1.vf? vf = some f → f.queue? q = some x →
    let s2 := s1.queueEvent .packetDispatch
    ∃ t, exec .packetDispatch s = .next t ∧ match s2.readPacket vf x with
      | .error e => BytesKept s t ∧ queueIs t vf q { x with stat := (x.stat &&& 0xFFFF00FF) ||| BitVec.ofNat 32 (8 + 256 * e) }
      | .ok k => match s2.checkLaunch f k (Config.streamBinds ((s2.slotBytes x 128).getD [])) with
        | .bad e st slot s3 => t = (s3.takePacket vf q).signalEnd k.launch 2 e st slot
        | .good l _ s3 => (∀ d, d < 4 → .blockAdmission d ∈ t.agenda) ∧
          (∀ y, queueIs s3 vf q y → queueIs t vf q
            { y with head := BitVec.ofNat 32 ((y.head.toNat + 4) % y.size), ready := false, stat := y.stat &&& ~~~2, slices := 0, eventSent := false }) ∧
          (s3.launch? l.id = some l → t.launch? l.id = some { l with
            chunks := if l.gang then [] else gridChunks l.total (max 1 f.dies.length)
            unplaced := if l.gang then [⟨0, 0, 0⟩] else [] }))) ∧
  (∀ (s : State) (vf q : Nat) (f : Vf) (x : Queue), s.vf? vf = some f → f.queue? q = some x →
    (s.headPacket f x = none → ∃ t, exec (.semaphorePoll vf q) s = .next t ∧ BytesKept s t ∧ queueIs t vf q { x with stat := x.stat &&& ~~~2 }) ∧
    (∀ p, s.headPacket f x = some p → fieldAt p 48 8 ≠ 0 →
      let place := (s.withProc vf x.proc).semPlace vf x.proc (fieldAt p 48 8)
      (place = none → ∃ t, exec (.semaphorePoll vf q) s = .next t ∧ BytesKept s t ∧
        queueIs t vf q { x with stat := (x.stat &&& 0xFFFF00FF) ||| 0x508 }) ∧
      (∀ pa, place = some pa → fieldAt p 56 8 ≤ s.memNat pa 8 → ∃ t, exec (.semaphorePoll vf q) s = .next t ∧ BytesKept s t ∧
        queueIs t vf q { x with stat := x.stat &&& ~~~2, ready := true } ∧ .packetDispatch ∈ t.agenda) ∧
      (∀ pa, place = some pa → s.memNat pa 8 < fieldAt p 56 8 → ∃ t, exec (.semaphorePoll vf q) s = .next t ∧ BytesKept s t ∧
        queueIs t vf q { x with stat := x.stat ||| 2 }))) ∧
  (∀ (s : State) (l : Launch) (dense v : Nat) (c : Chunk), s.launch? l.id = some l →
    let count := fun (d : Nat) => (l.chunks.filter fun z => z.die == d && z.untouched).length
    ((s.vf? l.vf).any fun f => s.dry f dense) = true → v < 4 → v ≠ dense → 0 < count v → (∀ d, d < 4 → d ≠ dense → count d < count v ∨ (count d = count v ∧ v ≤ d)) →
    (l.chunks.filter fun z => z.die == v && z.untouched).getLast? = some c →
    ∃ t, exec (.chunkSteal l.id dense) s = .next t ∧ BytesKept s t ∧
      t.launch? l.id = some { l with chunks := l.chunks.map fun z => if z.c = c.c then { z with die := dense } else z }) ∧
  (∀ (s : State) (die dense : Nat) (f : Vf) (fs : List Vf) (l : Launch), die < 4 → s.turnOrder = f :: fs → f.denseDie die = some dense →
    s.openLaunches f = [l] → s.launch? l.id = some l → s.saved = [] → l.gang = false → (∀ k ∈ l.kernels, k.convoys = [] ∧ k.bundles = []) →
    (∀ c, l.unplaced = [] → l.chunks.find? (fun z => z.die == dense && z.next < z.last) = some c →
      ∃ t, exec (.blockAdmission die) s = .next t ∧ BytesKept s t ∧ .blockAdmission die ∈ t.agenda ∧
        t.launch? l.id = some { l with
          chunks := l.chunks.map fun z => if z.c = c.c then { z with next := z.next + 1, issued := true } else z
          unplaced := [⟨dense, 0, c.next⟩] }) ∧
    (∀ (c : Cand) (d : Nat) (after : State), l.unplaced = [c] → c.die = dense → f.dies[dense]? = some d →
      s.startAll l.id [d] [c] = some after → s.unscrubbed after f.tenant = [] →
      ∃ t, exec (.blockAdmission die) s = .next t ∧ t.blocks = after.blocks ∧ .blockAdmission die ∈ t.agenda ∧
        ∀ y, t.launch? l.id = some y → c ∉ y.unplaced)) ∧
  (∀ (s : State) (die dense : Nat) (f : Vf) (fs : List Vf) (l : Launch) (c : Cand) (pa : Nat) (leaf : Leaf), die < 4 → s.turnOrder = f :: fs →
    f.denseDie die = some dense → s.openLaunches f = [l] → s.launch? l.id = some l → s.saved = [] → l.gang = true → l.unplaced = [c] →
    c.die = dense → s.feedError l = true → l.vf ≠ 64 → l.sigsem = 0 → l.binds = [] → s.deviceXlate l.vf l.proc l.compl true = some (pa, leaf) →
    l.compl + 32 ≤ leaf.base + leaf.size → leaf.secondOf l.compl = none →
    ∃ t, exec (.blockAdmission die) s = .next t ∧ t.launch? l.id = none ∧ t.peekN (.glob pa) 32 = completionBytes l s.clk 2 7 0 0 ∧
      .blockAdmission die ∈ t.agenda) ∧
  (∀ (s : State) (f : Vf), s.vf? s.sliceHolder = some f → f.queues = [] → s.timeShared f.id = false →
    ∃ t, exec .sliceEnd s = .next t ∧ BytesKept s t ∧ t.sliceStart = s.clk ∧ .packetDispatch ∈ t.agenda ∧
      t.sliceOn = (List.range 64).any (fun v => (s.vf? v).any fun g => s.active g) ∧
      t.sliceHolder = (((List.range 64).map fun i => (s.sliceHolder + 1 + i) % 64).find? fun v =>
        (s.vf? v).any fun g => s.active g).getD s.sliceHolder) ∧
  (∀ (s : State) (l : Launch) (pa : Nat) (leaf : Leaf), s.launch? l.id = some l → l.endedBlocks.length = l.total → l.discarded = false →
    l.vf ≠ 64 → l.sigsem = 0 → s.deviceXlate l.vf l.proc l.compl true = some (pa, leaf) → l.compl + 32 ≤ leaf.base + leaf.size →
    leaf.secondOf l.compl = none →
    ∃ t, exec (.launchCompletion l.id) s = .next t ∧ t.peekN (.glob pa) 32 = completionBytes l s.clk 1 0 0 0 ∧
      (∀ a, (a < pa ∨ pa + 32 ≤ a) → t.peek (.glob a) = s.peek (.glob a)) ∧ t.launch? l.id = none ∧
      (∀ x ∈ t.blocks, x.launch ≠ l.id) ∧ (∀ u ∈ t.bundles, u.launch ≠ l.id) ∧ .packetDispatch ∈ t.agenda)

/-! # Links, the host, interfaces, the innkeeper and firmware -/

/-- R398 to R402, R436, R437: a good flit ends a run of failures, a bad one is retried up to 8 times and then lost with its span poisoned;
a failed link turns its traffic into NACKs, each reissued once unless its home holds a response; a fenced package has no record
left, and the words it owned are poisoned; re-admission counts an incarnation; a port trains and retrains. That a flit retried several times
counts one retry, the heartbeats of `Config.heartbeatGood`, the routes and the numbers of links and caches are the model's choices (log 16). -/
def Obligations.LinksFailAndRecover : Prop :=
  (∀ (s : State) (i : Nat) (l : Link) (x : Flit), s.link? i = some l →
    let becomes := fun (e : Instr) (m : Link) => ∃ t, exec e s = .next t ∧ BytesKept s t ∧ t.link? i = some m
    (x.bad = false → becomes (.flitReceive i x) { l with run := 0, tries := 0, lastFlit := s.clk }) ∧
    (x.bad = true → l.tries < 8 →
      becomes (.flitReceive i x) { l with tries := l.tries + 1, retries := if l.tries = 0 then l.retries + 1 else l.retries }) ∧
    (x.bad = true → 8 ≤ l.tries → 1 ≤ x.cause → x.cause ≤ 3 → x.inc = s.incarnation x.source → x.first ≤ x.last → x.last < 64 →
      ∃ t, exec (.flitReceive i x) s = .next t ∧ BytesKept s t ∧ t.link? i = some { l with tries := 0, run := l.run + 1 } ∧
        (∀ a, 256 * x.line + 4 * x.first ≤ a → a < 256 * x.line + 4 * (x.last + 1) →
          t.poisonAt (.glob a) = some ⟨a, x.cause, x.first, x.last⟩) ∧
        (∀ r ∈ t.sharers x.line, r.valid &&& spanMask x.first x.last = 0) ∧
        t.cohLog = s.cohLog ++ [(256 * x.line, x.first, x.last)] ∧ (l.run = 15 → .linkFailed i ∈ t.agenda)) ∧
    (Config.heartbeatGood i s.clk = true → becomes (.linkHeartbeat i) { l with run := 0, tries := 0, lastFlit := s.clk }) ∧
    (Config.heartbeatGood i s.clk = false → l.tries < 8 →
      becomes (.linkHeartbeat i) { l with tries := l.tries + 1, retries := if l.tries = 0 then l.retries + 1 else l.retries }) ∧
    (Config.heartbeatGood i s.clk = false → 8 ≤ l.tries →
      becomes (.linkHeartbeat i) { l with tries := 0, run := l.run + 1 }) ∧
    becomes (.linkFailed i) { l with up := false, failed := true } ∧
    (∀ t, exec (.linkFailed i) s = .next t → ∀ tag ∈ s.inFlight i, tag ∈ t.nacked ∧ (tag ∉ s.nacked → .requestReissue tag ∈ t.agenda)) ∧
    (i < 16 → becomes (.trainingComplete i)
      { l with up := true, failed := false, training := false, peer := Config.syzinPeer i, run := 0, tries := 0, lastFlit := s.clk }) ∧
    (i < 16 → becomes (.syzstatRetrain i) { l with up := false, failed := false, training := true })) ∧
  (∀ (s : State) (tag : Nat),
    (tag ∉ s.nacked → exec (.requestReissue tag) s = .next s) ∧
    (tag ∈ s.nacked → ∃ t, exec (.requestReissue tag) s = .next t ∧ BytesKept s t ∧ tag ∉ t.nacked ∧
      (tag ∈ s.responses → tag ∉ t.responses ∧ t.agenda = s.agenda) ∧
      (tag ∉ s.responses → t.agenda = s.agenda ++ [if s.streams.any (fun r => r.id == tag) then .streamAccess tag else .copyTransfer tag]))) ∧
  (∀ (s : State) (pkg : Nat), pkg < 16 →
    (pkg = s.mypkg → exec (.packageFenced pkg) s = .next s) ∧
    (pkg ≠ s.mypkg → ∃ t, exec (.packageFenced pkg) s = .next t ∧ BytesKept s t ∧ pkg ∈ t.fenced ∧
      (∀ d ∈ t.dir, ∀ r ∈ d.sharers, r.cache ≠ 512 + pkg) ∧
      (∀ d ∈ s.dir, ∀ r, d.sharers.find? (fun y => y.cache == 512 + pkg) = some r →
        ¬ (0x1000000000000 + pkg * 2 ^ 44 ≤ 256 * d.line ∧ 256 * d.line < 0x1000000000000 + (pkg + 1) * 2 ^ 44) →
        ∀ w, w < 64 → r.owned.getLsbD w = true → ∃ p, t.poisonAt (.glob (256 * d.line + 4 * w)) = some p ∧ p.cause = 3))) ∧
  (∀ (s : State) (source : Nat), ∃ t, exec (.reAdmission source) s = .next t ∧ BytesKept s t ∧
    t.incarnation source = s.incarnation source + 1 ∧ (512 ≤ source → source - 512 ∉ t.fenced)) ∧
  (∀ (s : State) (a : Nat), exec (.hostSnoop a) s = .next s ∧
    exec (.globalObservationResponse a) s = .next { s with globalWrites := s.globalWrites.erase a })

namespace Sys2Proof.Claims
open Sys2Proof Sys2Proof.Machine

/-- The innkeeper answers messages: it neither pauses nor has halted. -/
def Answers (s : State) : Prop := s.fw.phase ≠ .paused ∧ s.fw.phase ≠ .minimal ∧ s.innkeeperHalted = false

/-- A message is answered with some bytes, and nothing else of the machine changes but the innkeeper's own state. -/
def Replies (s : State) (i : Instr) (bs : List Byte) : Prop :=
  ∃ t, exec i s = .next t ∧ t.ik.reply = bs ∧ { t with ik := s.ik } = s

/-- The TDISP requests that command an interface, with the event that does it. -/
inductive TdispForm : (TdispMsg → Instr) → (Nat → Instr) → Prop
  | lock : TdispForm .lockInterface .ifcmdLock
  | start : TdispForm .startInterface .ifcmdStart
  | stop : TdispForm .stopInterface .ifcmdStop

/-- All TDISP requests. -/
inductive TdispAny : (TdispMsg → Instr) → Prop
  | command (i e) : TdispForm i e → TdispAny i
  | report : TdispAny .getDeviceInterfaceReport
  | state : TdispAny .getDeviceInterfaceState
  | version : TdispAny .tdispGetVersion
  | capabilities : TdispAny .tdispGetCapabilities

end Sys2Proof.Claims

/-- R420, R421, R424 to R428: LOCK freezes an interface whose tenant has a policy, unmaps its queues and writes its report; START runs a
locked interface with keys; STOP resets its tenant; a failed stream, a reset, or a write to a frozen register moves a locked or running
interface to ERROR with its cause and ends its launches. Each transition is counted. A TDISP request outside its session is an error;
inside it commands or reads the interface. That a reset or a stream failure moves no unlocked interface (log 36), when a stream's keys end, the
error answer 0x7F, and a report only where locked or running and within its 128 bytes (log 37) are the model's choices. -/
def Obligations.InterfaceMovesBetweenStates : Prop :=
  (∀ (s : State) (vf : Nat) (f : Vf), s.vf? vf = some f → f.ifnote = 0 →
    (f.ifstate = 0 → f.sliceshape ≠ 0 → (∃ t, s.tenant? f.tenant = some t ∧ t.policy.isSome) → f.ifrep.toNat % 64 = 0 →
      inTiers f.ifrep.toNat = true → s.ownerOf f.ifrep.toNat = 0 →
      ∃ t, exec (.ifcmdLock vf) s = .next t ∧ t.peekN (.glob f.ifrep.toNat) (s.report f).length = s.report f ∧
        t.vf? vf = some { f with queues := f.queues.map fun q => { q with stat := q.stat &&& ~~~1 }
                                 ifstate := 1, tcount := f.tcount + 1, ifres := 0 }) ∧
    (f.ifstate ≠ 0 → ∃ t, exec (.ifcmdLock vf) s = .next t ∧ BytesKept s t ∧ t.vf? vf = some { f with ifres := 1 }) ∧
    (∃ t, exec (.ifcmdStart vf) s = .next t ∧ BytesKept s t ∧
      t.vf? vf = some (if f.ifstate = 1 ∧ f.ideKeyed = true then { f with ifstate := 2, tcount := f.tcount + 1, ifres := 0 } else { f with ifres := 1 })) ∧
    (f.ifstate = 0 → ∃ t, exec (.ifcmdStop vf) s = .next t ∧ BytesKept s t ∧ t.vf? vf = some { f with ifres := 1 }) ∧
    (f.ifstate ≠ 0 → f.tenant ≠ 0 → ∃ t g, exec (.ifcmdStop vf) s = .next t ∧ t.vf? vf = some g ∧ g.ifstate = 0 ∧ g.ifres = 0 ∧ g.ideKeyed = false ∧
      g.tcount = f.tcount + 1 ∧ (∀ l ∈ t.launches, l.vf ≠ vf) ∧ (∀ y, t.tenant? f.tenant = some y → y.graphs = [] ∧ y.reserved = [])) ∧
    (∀ (i : Instr) (cause : Nat) (lk : W32),
      (i = .ideStreamFailure vf ∧ cause = 2 ∧ lk = f.iflkaddr ∨ i = .functionLevelReset vf ∧ cause = 3 ∧ lk = f.iflkaddr ∨
        ∃ r v ide, i = .hostLkWrite ⟨vf, ide⟩ r v ∧ lkReg f r = true ∧ s.reaches f (ide || configReg r) = true ∧ cause = 1 ∧ lk = lkAddr r) →
      (f.ifstate = 1 ∨ f.ifstate = 2 → ∃ t g, exec i s = .next t ∧ t.vf? vf = some g ∧ g.ifstate = 3 ∧ g.cause = cause ∧ g.iflkaddr = lk ∧
        g.ideKeyed = false ∧ g.tcount = f.tcount + 1 ∧ ∀ l ∈ t.launches, l.vf ≠ vf)) ∧
    (f.ifstate = 0 → exec (.functionLevelReset vf) s = .next s ∧ exec (.ideStreamFailure vf) s = .next (s.dropStream vf))) ∧
  (∀ (s : State) (m : TdispMsg) (f : Vf), Answers s → s.vf? m.vf = some f →
    (∀ i, TdispAny i → s.tdispOk m = false → Replies s (i m) [0x7F]) ∧
    (s.tdispOk m = true →
      (∀ i e, TdispForm i e → ∃ t u g, exec (i m) s = .next t ∧ exec (e m.vf) s = .next u ∧ u.vf? m.vf = some g ∧
        t = { u with ik := t.ik } ∧ t.ik.reply = if g.ifres = 0 then [] else [0x7F]) ∧
      Replies s (.getDeviceInterfaceState m) [BitVec.ofNat 8 f.ifstate] ∧
      Replies s (.tdispGetVersion m) (Config.answer 0x40 0 []) ∧ Replies s (.tdispGetCapabilities m) (Config.answer 0x41 0 []) ∧
      (f.ifstate = 1 ∨ f.ifstate = 2 → m.offset + m.len ≤ 128 →
        Replies s (.getDeviceInterfaceReport m) (s.peekN (.glob (f.ifrep.toNat + m.offset)) m.len)) ∧
      (f.ifstate = 0 ∨ f.ifstate = 3 ∨ 128 < m.offset + m.len → Replies s (.getDeviceInterfaceReport m) [0x7F]))) ∧
  (∀ (s : State) (m : TdispMsg) i, TdispAny i → s.fw.phase = .paused →
    exec (i m) s = .next { s with ik := { s.ik with held := s.ik.held ++ [i m] } })

/-- R8, R365, R366, R370, R407, R412, R421: the host's accesses and writes: a register read gives its value, IKDOOR zeros, and QSTAT an
abort in ERROR; an admitted write takes its place and an admitted read gives the bytes; one refused is logged or answered as
unsupported; an interface in ERROR aborts it, its refused writes logged all the same. A register takes what its access code
lets it; QTAIL holds what is written, and at or above the slot count that is error 1, else it rings the queue; a new event head lets events that wait be written. A
request to the registers of an interface in RUN off its stream, or of a function in minimal mode, does nothing. QBASE and QCTL without their
reserved bits, and what a request that does not reach its function does are the model's choices (log 36). -/
def Obligations.HostReachesMemoryAndRegisters : Prop :=
  (∀ (s : State) (f : Vf) (ide : Bool), s.hostRead f ide .ikdoor = .data (leBytes 8 0) ∧
    s.hostRead f ide (.reg .ikcmd) = .data (leBytes 8 s.ik.cmd.toNat) ∧
    (s.reaches f ide = false → ∀ q, s.hostRead f ide (.reg (.qstat q)) = .unsupported) ∧
    (s.reaches f ide = true → f.ifstate = 3 → ∀ q, s.hostRead f ide (.reg (.qstat q)) = .abort) ∧
    (s.reaches f ide = true → f.ifstate ≠ 3 → ∀ q x, f.queue? q = some x →
      s.hostRead f ide (.reg (.qstat q)) = .data (leBytes 8 x.stat.toNat))) ∧
  (∀ (s : State) (a : HostAccess) (f : Vf), s.vf? a.vf = some f →
    (f.ifstate = 3 → exec (.hostAccess a) s = .next (if a.store.isSome then
      { s with hostReply := .abort, ik := { s.ik with log := s.ik.log ++ [(a.pa, a.vf)] } } else { s with hostReply := .abort })) ∧
    (f.ifstate ≠ 3 → s.hostAdmits a = true → a.store = none →
      exec (.hostAccess a) s = .next { s with hostReply := .data (s.peekN (.glob a.pa) a.len) }) ∧
    (∀ bs, f.ifstate ≠ 3 → s.hostAdmits a = true → a.store = some bs → bs.length = a.len →
      ∃ t, exec (.hostAccess a) s = .next t ∧ t.peekN (.glob a.pa) a.len = bs ∧
        ∀ l, (∀ i, i < a.len → l ≠ .glob (a.pa + i)) → t.peek l = s.peek l) ∧
    (f.ifstate ≠ 3 → s.hostAdmits a = false → exec (.hostAccess a) s = .next
      (if a.store.isSome then { s with ik := { s.ik with log := s.ik.log ++ [(a.pa, a.vf)] } } else { s with hostReply := .unsupported }))) ∧
  (∀ (s : State) (vf : Nat) (ide : Bool) (f : Vf) (v : Word), s.vf? vf = some f → f.ifstate = 0 → s.reaches f ide = true →
    (∀ r, r = .sliceshape ∨ r = .evtail ∨ (∃ q, r = .qhead q) → exec (.registerWrite ⟨vf, ide⟩ r v) s = .next s) ∧
    (∀ q x, f.queue? q = some x → ∃ t, exec (.registerWrite ⟨vf, ide⟩ (.qbase q) v) s = .next t ∧ BytesKept s t ∧
      queueIs t vf q { x with base := v &&& ~~~0xFFF }) ∧
    (∀ q x, f.queue? q = some x → ∃ t, exec (.registerWrite ⟨vf, ide⟩ (.qctl q) v) s = .next t ∧ BytesKept s t ∧
      queueIs t vf q { x with ctl := v &&& 0x1FFFF }) ∧
    (∃ t, exec (.registerWrite ⟨vf, ide⟩ .atomicEnable v) s = .next t ∧ BytesKept s t ∧ t.vf? vf = some { f with atomicEnable := v.getLsbD 0 }) ∧
    (∃ t, exec (.registerWrite ⟨vf, ide⟩ .ikcmd v) s = .next t ∧ BytesKept s t ∧ t.ik = { s.ik with cmd := v })) ∧
  (∀ (s : State) (h : HostFrom) (f : Vf), s.vf? h.vf = some f → s.reaches f h.onIde = false →
    (∀ q v, exec (.qtailDoorbell h q v) s = .next s) ∧ (∀ v, exec (.evheadWrite h v) s = .next s) ∧
    (∀ r v, ownReg r = true → configReg r = false → exec (.registerWrite h r v) s = .next s)) ∧
  (∀ (s : State) (vf q : Nat) (ide : Bool) (f : Vf) (x : Queue) (v : W32), s.vf? vf = some f → s.reaches f ide = true → f.ifstate ≠ 3 →
    f.queue? q = some x →
    (x.size ≤ v.toNat → ∃ t, exec (.qtailDoorbell ⟨vf, ide⟩ q v) s = .next t ∧ BytesKept s t ∧
      queueIs t vf q { x with tail := v, stat := (x.stat &&& 0xFFFF00FF) ||| 0x108 }) ∧
    (v.toNat < x.size → ∃ t, exec (.qtailDoorbell ⟨vf, ide⟩ q v) s = .next t ∧ BytesKept s t ∧ queueIs t vf q { x with tail := v } ∧
      .semaphorePoll vf q ∈ t.agenda ∧ .packetDispatch ∈ t.agenda ∧ .feedQueuePush vf q ∈ t.agenda)) ∧
  (∀ (s : State) (vf : Nat) (ide : Bool) (f : Vf) (v : W32), s.vf? vf = some f → s.reaches f ide = true → f.ifstate ≠ 3 →
    (f.events = [] → ∃ t, exec (.evheadWrite ⟨vf, ide⟩ v) s = .next t ∧ BytesKept s t ∧ t.vf? vf = some { f with evhead := v }) ∧
    (∀ e, f.events = [e] → (f.evtail.toNat + 1) % 128 ≠ v.toNat % 128 → ∃ t, exec (.evheadWrite ⟨vf, ide⟩ v) s = .next t ∧
      t.vf? vf = some { f with evhead := v, evtail := BitVec.ofNat 32 ((f.evtail.toNat + 1) % 128), events := [], lost := 0, msix := f.msix ++ [0] }))

namespace Sys2Proof.Claims
open Sys2Proof Sys2Proof.Machine

/-- A command is answered (R407, R408): BUSY clear, DONE set, an interrupt raised, and STATUS, SEQ and result in the command buffer. -/
def Responds (s t : State) (c : Command) (status result : Nat) : Prop :=
  t.ik.done = true ∧ t.ik.busy = false ∧ t.pf.msix = s.pf.msix ++ [0] ∧
  (s.ik.cmd.toNat + 80 ≤ 2 ^ 48 → t.peekN (.glob (0x2000000000000 + s.ik.cmd.toNat + 64)) 16 =
    leBytes 4 status ++ leBytes 4 c.seq.toNat ++ leBytes 8 result)

/-- A command that ends with status 0: the state after is answered and has a property. -/
def Succeeds (s : State) (i : Instr) (c : Command) (result : Nat) (P : State → Prop) : Prop :=
  ∃ t, exec i s = .next t ∧ Responds s t c 0 result ∧ P t

/-- The commands with the OP of R408. -/
inductive CommandForm : (Command → Instr) → Nat → Prop
  | mapQueue : CommandForm .mapQueue 0x01
  | unmapQueue : CommandForm .unmapQueue 0x02
  | pause : CommandForm .pause 0x03
  | resume : CommandForm .resume 0x04
  | evict : CommandForm .evict 0x05
  | importContext : CommandForm .importContext 0x06
  | setSlice : CommandForm .setSlice 0x07
  | reassignCores : CommandForm .reassignCores 0x08
  | migrate : CommandForm .migrate 0x09
  | setWeight : CommandForm .setWeight 0x0A
  | endGang : CommandForm .endGang 0x0B
  | discardLaunch : CommandForm .discardLaunch 0x0C
  | resetQueue : CommandForm .resetQueue 0x0D
  | attachPort : CommandForm .attachPort 0x0E
  | resetTenant : CommandForm .resetTenant 0x0F
  | assignMemory : CommandForm .assignMemory 0x11
  | releaseMemory : CommandForm .releaseMemory 0x12
  | setPodWindow : CommandForm .setPodWindow 0x13

/-- A process of a function has a weight. -/
def weightIs (s : State) (vf proc n : Nat) : Prop := ∃ f p, s.vf? vf = some f ∧ f.proc? proc = some p ∧ p.weight = n

end Sys2Proof.Claims

/-- R352, R365, R366, R372, R380, R385, R405 to R417, R420 to R422: a command its policy does not allow is answered with status 1, or
whatever status the first check gives, and changes nothing; one whose checks pass has its effect and is answered with status 0. The
doorbell is ignored while BUSY, latched in a pause, and else submits the command. A retired core stands in no slice; where
its blocks cannot be saved the retirement waits. The arguments of REASSIGN_CORES, the order of checks and the statuses 3 and 8 of commands
(log 34), the blobs of EVICT and status 2 of IMPORT (log 35) and the retirement that waits (log 39) are the model's choices. -/
def Obligations.InnkeeperPerformsCommands : Prop :=
  (∀ (s : State) (i : Command → Instr) (op : Nat) (c : Command) (e : Nat), CommandForm i op → s.innkeeperHalted = false → s.permit op c.vf = .error e →
    ∃ t, exec (i c) s = .next t ∧ Responds s t c e 0 ∧ t.vfs = s.vfs ∧ t.tenants = s.tenants ∧ t.launches = s.launches ∧ t.saved = s.saved) ∧
  (∀ (s : State) (c : Command) (f : Vf) (t : Tenant), s.innkeeperHalted = false →
    let a := argOf c
    let may := fun (op : Nat) => s.permit op c.vf = .ok (f, t)
    let queueOk := a 0 < t.policyField 48 2 ∧ a 0 < f.qcount.toNat
    (∀ x, may 0x01 → queueOk → (f.ifstate = 0 ∨ f.ifstate = 2) → f.queue? (a 0) = some x →
      Succeeds s (.mapQueue c) c 0 fun u => queueIs u c.vf (a 0) { x with stat := x.stat ||| 1, slices := 0 } ∧ .packetDispatch ∈ u.agenda) ∧
    (∀ x, may 0x02 → queueOk → f.queue? (a 0) = some x →
      Succeeds s (.unmapQueue c) c 0 fun u => queueIs u c.vf (a 0) { x with stat := x.stat &&& ~~~1 }) ∧
    (∀ x, may 0x0D → queueOk → f.queue? (a 0) = some x → Succeeds s (.resetQueue c) c 0 fun u => queueIs u c.vf (a 0)
      { x with stat := x.stat &&& 0xFFFF00F5, head := 0, tail := 0, ready := false, slices := 0, eventSent := false }) ∧
    (∀ ls u, may 0x03 → s.named f.id (a 0) = .ok ls → s.pauseAll ls = some u → Succeeds s (.pause c) c 0 fun v =>
      v.launches = u.launches ∧ v.saved = u.saved ∧ ∀ l ∈ ls, ∀ y, v.launch? l = some y → y.paused = true) ∧
    (∀ ls, may 0x04 → s.named f.id (a 0) = .ok ls → s.areasFit ls = true → Succeeds s (.resume c) c 0 fun v =>
      (∀ l ∈ ls, ∀ y, v.launch? l = some y → y.paused = false) ∧ ∀ d, d < 4 → .blockAdmission d ∈ v.agenda) ∧
    (∀ l u, may 0x05 → s.namedLaunch f.id (a 0) = .ok l → s.pauseAll [l.id] = some u →
      let mine := u.saved.filter fun v => v.launch == l.id && v.len != 0
      let blobs := mine.zipIdx.flatMap fun v =>
        let h := u.blobHeader t.id f.id (t.exportCount + v.2 + 1) v.1.len
        h ++ Config.gcmSeal t.sealKey h (u.peekN (.glob v.1.area) v.1.len)
      if blobs.length ≤ a 2 ∧ a 1 + blobs.length ≤ 2 ^ 48 then Succeeds s (.evict c) c u.ik.nextHandle fun v =>
        v.ik.nextHandle = u.ik.nextHandle + 1 ∧ v.saved = u.saved.map fun y => if mine.contains y then { y with area := 0, len := 0 } else y
      else ∃ v, exec (.evict c) s = .next v ∧ Responds s v c (if blobs.length ≤ a 2 then 3 else 8) 0) ∧
    (∀ h, may 0x06 → (s.tenants.flatMap (·.handles)).find? (fun y => y.1 == a 0) = some h →
      (h.2.1 ≠ f.id → ∃ v, exec (.importContext c) s = .next v ∧ Responds s v c 2 0 ∧ v.saved = s.saved ∧ v.tenants = s.tenants) ∧
      (h.2.1 = f.id → h ∈ t.handles →
        (∀ u, s.importBlobs f t.id (a 1) h.2.2.1 h.2.2.2 = .ok u →
          Succeeds s (.importContext c) c 0 fun v => v.saved = u.saved ∧ v.tenants = u.tenants) ∧
        (∀ e, s.importBlobs f t.id (a 1) h.2.2.1 h.2.2.2 = .error e →
          ∃ v, exec (.importContext c) s = .next v ∧ Responds s v c e 0 ∧ v.saved = s.saved ∧ v.tenants = s.tenants))) ∧
    (∀ img, may 0x07 → f.ifstate = 0 → s.coresOk f t c.cores = .ok () → a 1 % 4 = 0 → a 1 ≤ 0x8000 → a 2 % 4096 = 0 → a 2 ≤ a 3 → a 3 ≤ 0x8000000000 →
      (∀ i, a 2 + 0x80000 * i < a 3 → s.ownerOf (a 2 + 0x80000 * i) = t.id) → s.hostBytes (a 0) (a 1) = some img →
      s.launchesOf f.id = [] → s.imageFits f.id c.cores (imageWords img) = true →
      if Config.sha512 img ≠ ((t.policy.getD []).drop 64).take 64 then ∃ v, exec (.setSlice c) s = .next v ∧ Responds s v c 1 0 ∧ v.vfs = s.vfs
      else Succeeds s (.setSlice c) c 0 fun v => (∃ g, v.vf? c.vf = some g ∧ g.remap = remapOf c.cores ∧ g.sliceshape = shapeOf c.cores ∧
          g.context = (a 2, a 3) ∧ g.suphash = Config.sha512 img) ∧
        ∀ n ∈ c.cores, ∀ k, v.core? n = some k → (c.vf, imageWords img) ∈ k.images) ∧
    (∀ x y g u p, may 0x08 → (c.vf = a 0 ∨ c.vf = a 1) → s.permit 0x08 (a 0) = .ok (x, y) → s.permit 0x08 (a 1) = .ok (g, u) →
      x.ifstate = 0 → g.ifstate = 0 → a 0 ≠ a 1 → c.cores ≠ [] → c.cores.Nodup →
      let src := x.dense.map (·.2)
      let dst := g.dense.map (·.2)
      (∀ k ∈ c.cores, k ∈ src ∧ k ∉ dst) → (dst ++ c.cores).length ≤ u.policyField 20 2 →
      (∀ k ∈ dst ++ c.cores, u.policyField 22 1 / 2 ^ dieOf k % 2 = 1) →
      s.shareable g c.cores x.id = true → s.preempt (s.blocksUsing c.cores) = some p →
      (p.setCores x.id (src.filter fun k => !c.cores.contains k) (p.imageOf x.id)).imageFits g.id (dst ++ c.cores) (s.imageOf g.id) = true → Succeeds s (.reassignCores c) c 0 fun v =>
        (∃ z, v.vf? (a 0) = some z ∧ z.remap = remapOf (src.filter fun k => !c.cores.contains k)) ∧
        (∃ z, v.vf? (a 1) = some z ∧ z.remap = remapOf (dst ++ c.cores)) ∧
        (x.tenant ≠ g.tenant → ∀ k ∈ v.cores, k.id ∈ c.cores → k.l1 = [] ∧ k.tlb = [] ∧ k.consts = [] ∧ k.array = [])) ∧
    (∀ p, may 0x09 → s.coresOk f t c.cores = .ok () → shapeOf c.cores = f.sliceshape →
      s.preempt ((s.launchesOf c.vf).flatMap s.residentOf) = some p → p.imageFits c.vf c.cores (s.imageOf c.vf) = true →
      Succeeds s (.migrate c) c 0 fun v => ∃ y, v.vf? c.vf = some y ∧ y.remap = remapOf c.cores ∧ y.sliceshape = f.sliceshape) ∧
    (may 0x0A → 1 ≤ a 0 → a 0 ≤ 255 → 1 ≤ a 1 → a 1 ≤ 255 → Succeeds s (.setWeight c) c 0 fun v => weightIs v c.vf (a 0) (a 1)) ∧
    (∀ l, may 0x0B → s.namedLaunch f.id (a 0) = .ok l → l.gang = true → Succeeds s (.endGang c) c 0 fun v =>
      v.launch? l.id = some { l with pipes := l.pipes.map fun p => { p with closed := true } }) ∧
    (∀ l, may 0x0C → s.namedLaunch f.id (a 0) = .ok l → (s.blocks.map (·.id)).Nodup → Succeeds s (.discardLaunch c) c 0 fun v =>
      (∃ y, v.launch? l.id = some y ∧ y.discarded = true ∧ y.chunks = [] ∧ y.unplaced = []) ∧ .launchCompletion l.id ∈ v.agenda ∧
      (∀ x ∈ v.blocks, x.launch = l.id → x.ended = true ∨ (x.closing.isSome = true ∧ ∀ k ∈ x.cars, k.status = .ended)) ∧ ∀ y ∈ v.saved, y.launch ≠ l.id) ∧
    (may 0x0E → a 0 < 2 → a 1 = 0 → 1 ≤ a 2 → a 2 ≤ 255 → a 3 % 0x4000000 = 0 → t.policyField 50 1 / 2 ^ a 0 % 2 = 1 →
      Succeeds s (.attachPort c) c 0 fun v => vget v.ports (a 0) = { Port.reset with
        enabled := true, vf := c.vf, proc := a 2, slot := 0, ring := a 3, ringLen := 0x4000000, wrpos := 0x100, sent := (vget s.ports (a 0)).sent }) ∧
    (may 0x0F → s.ik.keyHalt = false → Succeeds s (.resetTenant c) c 0 fun v => v.ik.drawn = s.ik.drawn + 1 ∧
      (∀ l ∈ v.launches, l.vf ≠ c.vf) ∧ (∀ u ∈ v.bundles, u.tenant ≠ t.id) ∧ ∀ y, v.tenant? t.id = some y → y.graphs = []) ∧
    (∀ fs, may 0x11 → frameRange (a 0) (a 1) = some fs → (∀ o ∈ s.ik.owners, o.1 ∉ fs) → Succeeds s (.assignMemory c) c 0 fun v =>
      ∀ n ∈ fs, v.ownerOf (n * 0x80000) = t.id) ∧
    (∀ fs, may 0x12 → frameRange (a 0) (a 1) = some fs → (∀ n ∈ fs, s.ownerOf (n * 0x80000) = t.id) → Succeeds s (.releaseMemory c) c 0 fun v =>
      (∀ n ∈ fs, v.ownerOf (n * 0x80000) = 0) ∧ ∀ p, a 0 ≤ p → p < a 1 → v.peek (.glob p) = 0) ∧
    (may 0x13 → a 0 < 64 → a 1 = 1 → a 2 < 256 → a 2 ≠ s.mypod → a 3 < 16 → a 4 < 256 → Succeeds s (.setPodWindow c) c 0 fun v =>
      ∃ y, v.tenant? t.id = some y ∧ y.windows = t.windows.filter (fun w => w.1 != a 0) ++ [(a 0, a 2, a 3, a 4)])) ∧
  (∀ (s : State) (c : Command) (t : Tenant) (p : List Byte), s.innkeeperHalted = false → argOf c 1 = 2048 → s.hostBytes (argOf c 0) 2048 = some p →
    s.tenant? (fieldAt p 4 1) = some t →
    let modulus := (p.drop 1024).take 512
    (t.keyHash ≠ some (Config.sha512 modulus) → ∃ u, exec (.installPolicy c) s = .next u ∧ Responds s u c 5 0 ∧ u.tenants = s.tenants) ∧
    (t.keyHash = some (Config.sha512 modulus) → (t.policy = none ∨ t.policyField 0 4 < fieldAt p 0 4) → s.policyValid p c.vf = true → s.ik.keyHalt = false →
      if Config.rsaPssOk modulus (p.take 1536) (p.drop 1536) = true then
        Succeeds s (.installPolicy c) c 0 fun u => (∃ y, u.tenant? t.id = some y ∧ y.policy = some p) ∧
          ∀ g, u.vf? c.vf = some g → c.vf < 64 → g.tenant = t.id
      else ∃ u, exec (.installPolicy c) s = .next u ∧ Responds s u c 5 0 ∧ u.tenants = s.tenants)) ∧
  (∀ (s : State) (v : Word), s.innkeeperHalted = false → s.fw.phase ≠ .minimal →
    (s.ik.busy = true → exec (.ikdoor v) s = .next s) ∧
    (s.ik.busy = false → s.fw.phase = .paused → exec (.ikdoor v) s = .next { s with ik := { s.ik with latched := true } }) ∧
    (∀ bs, s.ik.busy = false → s.fw.phase ≠ .paused → s.ik.cmd.toNat % 64 = 0 → s.hostBytes s.ik.cmd.toNat 64 = some bs →
      let c : Command := { vf := fieldAt bs 2 2, seq := BitVec.ofNat 32 (fieldAt bs 4 4), args := Config.commandArgs (fieldAt bs 0 1) (bs.drop 8),
                           cores := Config.commandCores (fieldAt bs 0 1) (bs.drop 8) }
      (∀ i, commandEvent (fieldAt bs 0 1) c = some i → fieldAt bs 1 1 = 0 → c.vf < 64 →
        exec (.ikdoor v) s = .next ({ s with ik := { s.ik with busy := true } }.queueEvent i)) ∧
      (commandEvent (fieldAt bs 0 1) c = none → ∃ t, exec (.ikdoor v) s = .next t ∧ Responds s t c 3 0))) ∧
  (∀ (s u : State) (k : CoreSt), k.id < 256 → s.core? k.id = some k → s.preempt (s.blocksUsing [k.id]) = some u →
    ∃ t, exec (.coreRetirement k.id) s = .next t ∧ (∀ f ∈ t.vfs, ∀ x ∈ f.dense, x.2 ≠ k.id) ∧
      ∀ j, t.core? k.id = some j → j.retired = true ∧ j.images = []) ∧
  (∀ (s : State) (k : CoreSt), k.id < 256 → s.core? k.id = some k → s.preempt (s.blocksUsing [k.id]) = none →
    exec (.coreRetirement k.id) s = .next { s with retiring := insertNew k.id s.retiring })

namespace Sys2Proof.Claims
open Sys2Proof Sys2Proof.Machine

/-- The SPDM requests that open a connection: the code of the answer, the stage each needs, and the stage each leaves (R418). -/
inductive ConnectionForm : (SpdmMsg → Instr) → Nat → Nat → Nat → Prop
  | version : ConnectionForm .spdmGetVersion 0x04 0 1
  | capabilities : ConnectionForm .spdmGetCapabilities 0x61 1 2

/-- The requests that need a negotiated connection and change nothing. -/
inductive QueryForm : (SpdmMsg → Instr) → Nat → Prop
  | digests : QueryForm .getDigests 0x01
  | certificate : QueryForm .getCertificate 0x02
  | challenge : QueryForm .challenge 0x03

/-- The requests inside a session. -/
inductive SessionForm : (SpdmMsg → Instr) → Prop
  | heartbeat : SessionForm .spdmHeartbeat
  | update : SessionForm .keyUpdate
  | finish : SessionForm .endSession
  | register : SessionForm .policyKeyRegistration
  | ide : SessionForm .ideKmKeyProgramming

end Sys2Proof.Claims

/-- R409, R413, R418, R419, R435: SPDM requests come in the order version, capabilities, algorithms, and only then the others; a session
opens by KEY_EXCHANGE and stands after FINISH; inside it keys are updated, registered and programmed, and END_SESSION closes it. A message
in a pause waits for its end. A health test failure halts keys. Only the four algorithms of R418 are agreed on. The order of the requests, the
one-byte error answer 0x7F, the numbers of the algorithms' bits and selector 64 are the model's choices (log 37). -/
def Obligations.ResponderKeepsSessions : Prop :=
  (∀ (s : State) (m : SpdmMsg), Answers s →
    (∀ i code need leave, ConnectionForm i code need leave →
      (s.ik.stage < need → Replies s (i m) [0x7F]) ∧
      (need ≤ s.ik.stage → exec (i m) s = .next { s with ik := { s.ik with stage := leave, reply := Config.answer code 0 m.body } })) ∧
    (s.ik.stage < 2 → Replies s (.negotiateAlgorithms m) [0x7F]) ∧
    (2 ≤ s.ik.stage → if (∀ a ∈ algorithms, Config.offersAlgorithm m.body a.1 a.2 = true) then
        exec (.negotiateAlgorithms m) s = .next { s with ik := { s.ik with
          stage := 3, reply := Config.answer 0x63 0 (algorithms.flatMap fun a => leBytes 4 (2 ^ a.2)) } }
      else Replies s (.negotiateAlgorithms m) [0x7F]) ∧
    (∀ i code, QueryForm i code → (s.ik.stage < 3 → Replies s (i m) [0x7F]) ∧
      (3 ≤ s.ik.stage → m.sel = 0 → Replies s (i m) (Config.answer code 0 m.body))) ∧
    (∀ x, 3 ≤ s.ik.stage → s.measured m = some x → Replies s (.getMeasurements m) (Config.answer 0x60 m.sel (x ++ m.body))) ∧
    (3 ≤ s.ik.stage → s.ik.sessions.length < 64 → s.ik.keyHalt = false → ∃ t, exec (.keyExchange m) s = .next t ∧
      let n := Config.messageTenant m.body
      if 0 < n ∧ n ≤ 255 ∧ ∀ x ∈ s.ik.sessions, x.tenant ≠ n ∧ x.id ≠ m.session then t.ik.sessions = s.ik.sessions ++ [⟨m.session, n, false, 0⟩]
      else t.ik.sessions = s.ik.sessions ∧ t.ik.reply = [0x7F]) ∧
    (∀ x, 3 ≤ s.ik.stage → s.session? m.session = some x → x.established = false → ∃ t, exec (.finish m) s = .next t ∧
      t.session? m.session = some { x with established := Config.messageOk 0x65 x.phase m.body }) ∧
    (∀ i, SessionForm i → (∀ x, s.session? m.session = some x → x.established = false) → Replies s (i m) [0x7F]) ∧
    (∀ x, s.session? m.session = some x → x.established = true →
      Replies s (.spdmHeartbeat m) (Config.answer 0x68 0 m.body) ∧
      (∃ t, exec (.keyUpdate m) s = .next t ∧ t.session? m.session = some { x with phase := x.phase + 1 }) ∧
      (∃ t, exec (.endSession m) s = .next t ∧ t.session? m.session = none) ∧
      (m.sel = 0 → ∃ t y, exec (.policyKeyRegistration m) s = .next t ∧ t.tenant? x.tenant = some y ∧ y.keyHash = some (m.body.take 64)) ∧
      (∀ f, s.vf? m.sel = some f → m.sel < 64 → f.tenant = x.tenant → s.ik.keyHalt = false →
        ∃ t, exec (.ideKmKeyProgramming m) s = .next t ∧ t.vf? m.sel = some { f with ideKeyed := true }) ∧
      (m.sel = 64 → s.ik.keyHalt = false → ∃ t, exec (.ideKmKeyProgramming m) s = .next t ∧ t.pf = { s.pf with ideKeyed := true } ∧ t.vfs = s.vfs))) ∧
  (∀ (s : State) (m : SpdmMsg), s.fw.phase = .paused →
    exec (.keyExchange m) s = .next { s with ik := { s.ik with held := s.ik.held ++ [.keyExchange m] } }) ∧
  (∀ s : State, exec .healthTestFailure s = .next { s with ik := { s.ik with keyHalt := true } })

/-- R2, R349, R430, R431, R433 to R435, R438, R439: a reset leaves fuses, slots and rollback counter, and a core at each enabled site; the
watchdog fails a start, READY ends it and clears FAILS; an activation verifies the spare slot, pauses and installs its image; STLAUNCH
starts one block or reads 3; the power cap is clamped; a hot die gates issue, as the cap does, until it cools; a trip resets with REASON 7. Each image that let its
10 s pass without READY counts as a failed start of its slot at the next reset. That a reset other than power-on, and a trip, keep ACTIVE and
FAILS and what else of BOOTWHY they do not set, that a trip counts such images too, that a READY after the 2 s of a start fails it, that
one after the 10 s of an image does nothing, a slot that takes no write while its image is verified and installed, and which boot
caravans an image sends to its entry are the model's choices (log 38). -/
def Obligations.FirmwareStartsActivatesAndTrips : Prop :=
  (∀ (s : State) (why : Nat), ∃ t, exec (.packageReset why) s = .next t ∧ (why = 0 → t.fw.bootwhy = 0 ∧ t.fw.phase = .rom) ∧
    (why ≠ 0 → s.lateSlots = [] → t.fw.bootwhy = s.fw.bootwhy &&& ~~~0x301 ∧ t.fw.phase = .rom) ∧
    (why ≠ 0 → s.lateSlots ≠ [] → (t.fw.bootwhy.extractLsb' 2 2).toNat = min 3 ((s.fw.bootwhy.extractLsb' 2 2).toNat + s.lateSlots.length) ∧
      t.fw.bootwhy.extractLsb' 4 4 = 4 ∧
      ∀ p, s.lateSlots.getLast? = some p → p < 2 → (t.fw.bootwhy.extractLsb' 1 1).toNat = 1 - p) ∧ t.fw.slots = s.fw.slots ∧ t.fw.rollback = s.fw.rollback ∧ t.grade = s.grade ∧ t.dieen = s.dieen ∧ t.uppers = s.uppers ∧ t.clk = 0 ∧ t.tenants = [] ∧ t.agenda = [] ∧
    ∀ die site, die < 4 → site < 48 → (t.core? (64 * die + site)).isSome = (vget s.dieen die).getLsbD site) ∧
  (∀ (s : State), s.fw.watchdog = false → exec .firmwareWatchdog s = .next s) ∧
  (∀ (s : State), s.fw.watchdog = true → ∃ t, exec .firmwareWatchdog s = .next t ∧
    let fails := min 3 ((s.fw.bootwhy.extractLsb' 2 2).toNat + 1)
    (t.fw.bootwhy.extractLsb' 2 2).toNat = fails ∧ t.fw.bootwhy.extractLsb' 4 4 = 4 ∧ t.fw.bootwhy.extractLsb' 1 1 = ~~~(s.fw.bootwhy.extractLsb' 1 1) ∧
    t.fw.phase = (if fails = 3 then .minimal else .rom) ∧ t.fw.slots = s.fw.slots) ∧
  (∀ (s : State), s.fw.watchdog = true → 5400000000 < s.clk → ∃ t, exec .fwctlReady s = .next t ∧ t.fw.bootwhy.extractLsb' 4 4 = 4 ∧
    (t.fw.bootwhy.extractLsb' 2 2).toNat = min 3 ((s.fw.bootwhy.extractLsb' 2 2).toNat + 1)) ∧
  (∀ (s : State), (s.fw.watchdog = true → s.clk ≤ 5400000000) → s.lateImage = true → exec .fwctlReady s = .next s) ∧
  (∀ (s : State), (s.fw.watchdog = true → s.clk ≤ 5400000000) → s.lateImage = false → ∃ t, exec .fwctlReady s = .next t ∧ BytesKept s t ∧ t.fw.watchdog = false ∧
    t.fw.bootwhy = s.fw.bootwhy &&& ~~~0xC ∧ t.fw.phase = if s.fw.phase = .entered then .running else s.fw.phase) ∧
  (∀ (s : State), let st := (s.fw.fwstat.extractLsb' 0 2).toNat
    (st = 1 ∨ st = 2 → exec .fwctlActivate s = .next s) ∧
    (st = 0 ∨ st = 3 → ∃ t, exec .fwctlActivate s = .next t ∧ BytesKept s t ∧ (t.fw.fwstat.extractLsb' 0 2) = 1 ∧
      t.fw.fwstat.extractLsb' 32 32 = s.fw.fwstat.extractLsb' 32 32 ∧ .activationVerified ∈ t.agenda)) ∧
  (∀ (s : State), s.fw.fwstat.extractLsb' 0 2 = 1 → s.fw.activating = false →
    let img := vget s.fw.slots s.fw.spare
    (img.bytes ≠ [] → ∃ t, exec .activationVerified s = .next t ∧ BytesKept s t ∧
      if Config.rsaPssOk Config.bootKey img.bytes [] = false then t.fw.fwstat.extractLsb' 0 2 = 3 ∧ (t.fw.fwstat.extractLsb' 4 4).toNat = 1 + s.fw.spare
      else if img.version < s.fw.rollback then t.fw.fwstat.extractLsb' 0 2 = 3 ∧ t.fw.fwstat.extractLsb' 4 4 = 3
      else t.fw.activating = true ∧ .activationPause ∈ t.agenda) ∧
    (img.bytes = [] → ∃ t, exec .activationVerified s = .next t ∧ BytesKept s t ∧ t.fw.fwstat.extractLsb' 0 2 = 3)) ∧
  (∀ (s : State), s.fw.activating = true →
    (s.fw.phase ≠ .paused → s.ik.busy = true → exec .activationPause s = .next s) ∧
    (s.fw.phase ≠ .paused → s.ik.busy = false → ∃ t, exec .activationPause s = .next t ∧ BytesKept s t ∧ t.fw.phase = .paused ∧
      t.fw.fwstat.extractLsb' 0 2 = 2 ∧ s.clk ≤ t.fw.pauseEnd ∧ t.fw.pauseEnd ≤ s.clk + 405000) ∧
    (s.fw.phase = .paused → s.fw.pauseEnd ≤ s.clk → ∃ t, exec .activationPause s = .next t ∧ t.fw.phase = .running ∧ t.fw.activating = false ∧
      t.fw.fwstat.extractLsb' 0 2 = 0 ∧ t.fw.fwstat.extractLsb' 32 32 = s.fw.fwstat.extractLsb' 32 32 + 1 ∧
      (t.fw.bootwhy.extractLsb' 1 1).toNat = s.fw.spare ∧ t.ik.held = [] ∧ t.ik.latched = false ∧ (∀ i ∈ s.ik.held, i ∈ t.agenda) ∧
      ∀ x ∈ t.blocks, x.launch = 0 → ∀ c ∈ x.cars, c.runs = true → c.plv = 2 ∧
        c.regs.pc = Config.imageField (vget s.fw.slots s.fw.spare).bytes 2)) ∧
  (∀ (s : State) (bytes : List Byte), let st := (s.fw.fwstat.extractLsb' 0 2).toNat
    (st = 1 ∨ st = 2 → exec (.firmwareImageWrite bytes) s = .next s) ∧
    (st = 0 ∨ st = 3 → ∃ t, exec (.firmwareImageWrite bytes) s = .next t ∧ BytesKept s t ∧
      (vget t.fw.slots s.fw.spare).bytes = bytes ∧ vget t.fw.slots (1 - s.fw.spare) = vget s.fw.slots (1 - s.fw.spare))) ∧
  (∀ (s : State) (k : CoreSt) (v : Word), 256 ≤ k.id → s.core? k.id = some k →
    (s.startRecord v.toNat = none → ∃ t, exec (.stlaunch k.id v) s = .next t ∧ BytesKept s t ∧ t.core? k.id = some { k with stlaunch := 3 }) ∧
    (∀ p plv f l words u kn, s.startRecord v.toNat = some (p, plv) → s.vf? 64 = some f → (∀ x ∈ s.blocks, x.core = k.id → x.launch = 0 ∨ x.ended = true) →
      s.checkLaunch f p [] = .good l words u → l.kernels[0]? = some kn → u.roomOn k.id kn = true → (u.withCode k.id l).isSome →
      ∃ t, exec (.stlaunch k.id v) s = .next t ∧ (∀ j, t.core? k.id = some j → j.stlaunch = 1) ∧
        ∃ x ∈ t.blocks, x.core = k.id ∧ x.launch = l.id ∧ x.ended = false)) ∧
  (∀ (s : State) (v : Word), exec (.pwrcap v) s =
    .next { s with fw := { s.fw with pwrcap := BitVec.ofNat 32 (max 800 (min 2600 (v.extractLsb' 0 32).toNat)) } }) ∧
  (∀ (s : State) (die : Nat), die < 9 →
    (∃ t, exec (.junctionHot die) s = .next t ∧ die ∈ t.gateHot ∧ t.gating = true ∧ { t with gateHot := s.gateHot } = s) ∧
    (∃ t, exec (.junctionCool die) s = .next t ∧ die ∉ t.gateHot ∧ { t with gateHot := s.gateHot } = s)) ∧
  (∀ (s : State), ∃ t, exec .thermalTrip s = .next t ∧ t.fw.bootwhy.extractLsb' 4 4 = 7 ∧
    (s.lateSlots = [] → t.fw.bootwhy.extractLsb' 1 3 = s.fw.bootwhy.extractLsb' 1 3 ∧ t.fw.phase = .rom) ∧
    (s.lateSlots ≠ [] → (t.fw.bootwhy.extractLsb' 2 2).toNat = min 3 ((s.fw.bootwhy.extractLsb' 2 2).toNat + s.lateSlots.length)))

/-- Whatever a step does, it keeps memory, that of other pods, and every block's local store in its canonical form (the model's own form
of memory, log 2): addresses strictly rising, no cell equal to what an unlisted address reads as. -/
def Obligations.StepKeepsMemoryCanonical : Prop := ∀ s t : State, MemoryOk s → step s = .next t → MemoryOk t
end

