-- ==== Sys2Proof/Laws/Exec.lean ====
section
/-! SUPPORT. One line for each instruction: the meaning `exec` calls. -/
namespace Sys2Proof.Laws
open Sys2Proof Sys2Proof.Machine

@[simp] theorem exec_add (f : FmtR) (s : State) : exec (.add f) s = execAdd f s := rfl
@[simp] theorem exec_sub (f : FmtR) (s : State) : exec (.sub f) s = execSub f s := rfl
@[simp] theorem exec_mul (f : FmtR) (s : State) : exec (.mul f) s = execMul f s := rfl
@[simp] theorem exec_mulhI (f : FmtR) (s : State) : exec (.mulhI f) s = execMulhI f s := rfl
@[simp] theorem exec_mulhN (f : FmtR) (s : State) : exec (.mulhN f) s = execMulhN f s := rfl
@[simp] theorem exec_mad (f : FmtR) (s : State) : exec (.mad f) s = execMad f s := rfl
@[simp] theorem exec_sad (f : FmtR) (s : State) : exec (.sad f) s = execSad f s := rfl
@[simp] theorem exec_minI (f : FmtR) (s : State) : exec (.minI f) s = execMinI f s := rfl
@[simp] theorem exec_minN (f : FmtR) (s : State) : exec (.minN f) s = execMinN f s := rfl
@[simp] theorem exec_maxI (f : FmtR) (s : State) : exec (.maxI f) s = execMaxI f s := rfl
@[simp] theorem exec_maxN (f : FmtR) (s : State) : exec (.maxN f) s = execMaxN f s := rfl
@[simp] theorem exec_and (f : FmtW) (s : State) : exec (.and f) s = execAnd f s := rfl
@[simp] theorem exec_or (f : FmtW) (s : State) : exec (.or f) s = execOr f s := rfl
@[simp] theorem exec_xor (f : FmtW) (s : State) : exec (.xor f) s = execXor f s := rfl
@[simp] theorem exec_shl (f : FmtR) (s : State) : exec (.shl f) s = execShl f s := rfl
@[simp] theorem exec_shrN (f : FmtR) (s : State) : exec (.shrN f) s = execShrN f s := rfl
@[simp] theorem exec_shrI (f : FmtR) (s : State) : exec (.shrI f) s = execShrI f s := rfl
@[simp] theorem exec_rotl (f : FmtR) (s : State) : exec (.rotl f) s = execRotl f s := rfl
@[simp] theorem exec_bfx (f : FmtZ1) (s : State) : exec (.bfx f) s = execBfx f s := rfl
@[simp] theorem exec_bfi (f : FmtZ1) (s : State) : exec (.bfi f) s = execBfi f s := rfl
@[simp] theorem exec_setp (f : FmtCmp) (s : State) : exec (.setp f) s = execSetp f s := rfl
@[simp] theorem exec_sel (f : FmtW) (s : State) : exec (.sel f) s = execSel f s := rfl
@[simp] theorem exec_lea (f : FmtR) (s : State) : exec (.lea f) s = execLea f s := rfl
@[simp] theorem exec_mov (f : FmtDA) (s : State) : exec (.mov f) s = execMov f s := rfl
@[simp] theorem exec_not (f : FmtDA) (s : State) : exec (.not f) s = execNot f s := rfl
@[simp] theorem exec_neg (f : FmtZDA) (s : State) : exec (.neg f) s = execNeg f s := rfl
@[simp] theorem exec_abs (f : FmtZDA) (s : State) : exec (.abs f) s = execAbs f s := rfl
@[simp] theorem exec_popc (f : FmtZDA) (s : State) : exec (.popc f) s = execPopc f s := rfl
@[simp] theorem exec_clz (f : FmtZDA) (s : State) : exec (.clz f) s = execClz f s := rfl
@[simp] theorem exec_ctz (f : FmtZDA) (s : State) : exec (.ctz f) s = execCtz f s := rfl
@[simp] theorem exec_brev (f : FmtZDA) (s : State) : exec (.brev f) s = execBrev f s := rfl
@[simp] theorem exec_packlI (f : FmtZDA) (s : State) : exec (.packlI f) s = execPacklI f s := rfl
@[simp] theorem exec_packhI (f : FmtZDA) (s : State) : exec (.packhI f) s = execPackhI f s := rfl
@[simp] theorem exec_packlN (f : FmtZDA) (s : State) : exec (.packlN f) s = execPacklN f s := rfl
@[simp] theorem exec_packhN (f : FmtZDA) (s : State) : exec (.packhN f) s = execPackhN f s := rfl
@[simp] theorem exec_unpklI (f : FmtZDA) (s : State) : exec (.unpklI f) s = execUnpklI f s := rfl
@[simp] theorem exec_unpkhI (f : FmtZDA) (s : State) : exec (.unpkhI f) s = execUnpkhI f s := rfl
@[simp] theorem exec_unpklN (f : FmtZDA) (s : State) : exec (.unpklN f) s = execUnpklN f s := rfl
@[simp] theorem exec_unpkhN (f : FmtZDA) (s : State) : exec (.unpkhN f) s = execUnpkhN f s := rfl
@[simp] theorem exec_bcast (f : FmtDA) (s : State) : exec (.bcast f) s = execBcast f s := rfl
@[simp] theorem exec_pmask (f : FmtDA) (s : State) : exec (.pmask f) s = execPmask f s := rfl
@[simp] theorem exec_rdtid (f : FmtD) (s : State) : exec (.rdtid f) s = execRdtid f s := rfl
@[simp] theorem exec_pnot (f : FmtDA) (s : State) : exec (.pnot f) s = execPnot f s := rfl
@[simp] theorem exec_addU (f : FmtZDA) (s : State) : exec (.addU f) s = execAddU f s := rfl
@[simp] theorem exec_subU (f : FmtZDA) (s : State) : exec (.subU f) s = execSubU f s := rfl
@[simp] theorem exec_mulU (f : FmtZDA) (s : State) : exec (.mulU f) s = execMulU f s := rfl
@[simp] theorem exec_mulhIU (f : FmtZDA) (s : State) : exec (.mulhIU f) s = execMulhIU f s := rfl
@[simp] theorem exec_mulhNU (f : FmtZDA) (s : State) : exec (.mulhNU f) s = execMulhNU f s := rfl
@[simp] theorem exec_madU (f : FmtZDA) (s : State) : exec (.madU f) s = execMadU f s := rfl
@[simp] theorem exec_sadU (f : FmtZDA) (s : State) : exec (.sadU f) s = execSadU f s := rfl
@[simp] theorem exec_minIU (f : FmtZDA) (s : State) : exec (.minIU f) s = execMinIU f s := rfl
@[simp] theorem exec_minNU (f : FmtZDA) (s : State) : exec (.minNU f) s = execMinNU f s := rfl
@[simp] theorem exec_maxIU (f : FmtZDA) (s : State) : exec (.maxIU f) s = execMaxIU f s := rfl
@[simp] theorem exec_maxNU (f : FmtZDA) (s : State) : exec (.maxNU f) s = execMaxNU f s := rfl
@[simp] theorem exec_andU (f : FmtDA) (s : State) : exec (.andU f) s = execAndU f s := rfl
@[simp] theorem exec_orU (f : FmtDA) (s : State) : exec (.orU f) s = execOrU f s := rfl
@[simp] theorem exec_xorU (f : FmtDA) (s : State) : exec (.xorU f) s = execXorU f s := rfl
@[simp] theorem exec_shlU (f : FmtZDA) (s : State) : exec (.shlU f) s = execShlU f s := rfl
@[simp] theorem exec_shrNU (f : FmtZDA) (s : State) : exec (.shrNU f) s = execShrNU f s := rfl
@[simp] theorem exec_shrIU (f : FmtZDA) (s : State) : exec (.shrIU f) s = execShrIU f s := rfl
@[simp] theorem exec_rotlU (f : FmtZDA) (s : State) : exec (.rotlU f) s = execRotlU f s := rfl
@[simp] theorem exec_bfxU (f : FmtZ1DA) (s : State) : exec (.bfxU f) s = execBfxU f s := rfl
@[simp] theorem exec_leaU (f : FmtZDA) (s : State) : exec (.leaU f) s = execLeaU f s := rfl
@[simp] theorem exec_addImm (f : FmtI) (s : State) : exec (.addImm f) s = execAddImm f s := rfl
@[simp] theorem exec_shlImm (f : FmtI) (s : State) : exec (.shlImm f) s = execShlImm f s := rfl
@[simp] theorem exec_shrNImm (f : FmtI) (s : State) : exec (.shrNImm f) s = execShrNImm f s := rfl
@[simp] theorem exec_shrIImm (f : FmtI) (s : State) : exec (.shrIImm f) s = execShrIImm f s := rfl
@[simp] theorem exec_andImm (f : FmtI) (s : State) : exec (.andImm f) s = execAndImm f s := rfl
@[simp] theorem exec_orImm (f : FmtI) (s : State) : exec (.orImm f) s = execOrImm f s := rfl
@[simp] theorem exec_xorImm (f : FmtI) (s : State) : exec (.xorImm f) s = execXorImm f s := rfl
@[simp] theorem exec_mulImm (f : FmtI) (s : State) : exec (.mulImm f) s = execMulImm f s := rfl
@[simp] theorem exec_movU (f : FmtDA) (s : State) : exec (.movU f) s = execMovU f s := rfl
@[simp] theorem exec_notU (f : FmtDA) (s : State) : exec (.notU f) s = execNotU f s := rfl
@[simp] theorem exec_negU (f : FmtZDA) (s : State) : exec (.negU f) s = execNegU f s := rfl
@[simp] theorem exec_absU (f : FmtZDA) (s : State) : exec (.absU f) s = execAbsU f s := rfl
@[simp] theorem exec_popcU (f : FmtZDA) (s : State) : exec (.popcU f) s = execPopcU f s := rfl
@[simp] theorem exec_clzU (f : FmtZDA) (s : State) : exec (.clzU f) s = execClzU f s := rfl
@[simp] theorem exec_ctzU (f : FmtZDA) (s : State) : exec (.ctzU f) s = execCtzU f s := rfl
@[simp] theorem exec_brevU (f : FmtZDA) (s : State) : exec (.brevU f) s = execBrevU f s := rfl
@[simp] theorem exec_packlIU (f : FmtZDA) (s : State) : exec (.packlIU f) s = execPacklIU f s := rfl
@[simp] theorem exec_packhIU (f : FmtZDA) (s : State) : exec (.packhIU f) s = execPackhIU f s := rfl
@[simp] theorem exec_packlNU (f : FmtZDA) (s : State) : exec (.packlNU f) s = execPacklNU f s := rfl
@[simp] theorem exec_packhNU (f : FmtZDA) (s : State) : exec (.packhNU f) s = execPackhNU f s := rfl
@[simp] theorem exec_unpklIU (f : FmtZDA) (s : State) : exec (.unpklIU f) s = execUnpklIU f s := rfl
@[simp] theorem exec_unpkhIU (f : FmtZDA) (s : State) : exec (.unpkhIU f) s = execUnpkhIU f s := rfl
@[simp] theorem exec_unpklNU (f : FmtZDA) (s : State) : exec (.unpklNU f) s = execUnpklNU f s := rfl
@[simp] theorem exec_unpkhNU (f : FmtZDA) (s : State) : exec (.unpkhNU f) s = execUnpkhNU f s := rfl
@[simp] theorem exec_cnot (f : FmtDA) (s : State) : exec (.cnot f) s = execCnot f s := rfl
@[simp] theorem exec_csetp (f : FmtCs) (s : State) : exec (.csetp f) s = execCsetp f s := rfl
@[simp] theorem exec_csetpImm (f : FmtCsI) (s : State) : exec (.csetpImm f) s = execCsetpImm f s := rfl
@[simp] theorem exec_madUniform (f : FmtR) (s : State) : exec (.madUniform f) s = execMadUniform f s := rfl
@[simp] theorem exec_rdid (f : FmtDI) (s : State) : exec (.rdid f) s = execRdid f s := rfl
@[simp] theorem exec_bfiU (f : FmtZ1) (s : State) : exec (.bfiU f) s = execBfiU f s := rfl
@[simp] theorem exec_selU (f : FmtW) (s : State) : exec (.selU f) s = execSelU f s := rfl
@[simp] theorem exec_fadd (f : FmtR) (s : State) : exec (.fadd f) s = execFadd f s := rfl
@[simp] theorem exec_fsub (f : FmtR) (s : State) : exec (.fsub f) s = execFsub f s := rfl
@[simp] theorem exec_fmul (f : FmtR) (s : State) : exec (.fmul f) s = execFmul f s := rfl
@[simp] theorem exec_fma (f : FmtR) (s : State) : exec (.fma f) s = execFma f s := rfl
@[simp] theorem exec_fmin (f : FmtR) (s : State) : exec (.fmin f) s = execFmin f s := rfl
@[simp] theorem exec_fmax (f : FmtR) (s : State) : exec (.fmax f) s = execFmax f s := rfl
@[simp] theorem exec_fsetp (f : FmtCmp) (s : State) : exec (.fsetp f) s = execFsetp f s := rfl
@[simp] theorem exec_fneg (f : FmtZDA) (s : State) : exec (.fneg f) s = execFneg f s := rfl
@[simp] theorem exec_fabs (f : FmtZDA) (s : State) : exec (.fabs f) s = execFabs f s := rfl
@[simp] theorem exec_fclass (f : FmtZDA) (s : State) : exec (.fclass f) s = execFclass f s := rfl
@[simp] theorem exec_faddBf16 (f : FmtW) (s : State) : exec (.faddBf16 f) s = execFaddBf16 f s := rfl
@[simp] theorem exec_fsubBf16 (f : FmtW) (s : State) : exec (.fsubBf16 f) s = execFsubBf16 f s := rfl
@[simp] theorem exec_fmulBf16 (f : FmtW) (s : State) : exec (.fmulBf16 f) s = execFmulBf16 f s := rfl
@[simp] theorem exec_fmaBf16 (f : FmtW) (s : State) : exec (.fmaBf16 f) s = execFmaBf16 f s := rfl
@[simp] theorem exec_fminBf16 (f : FmtW) (s : State) : exec (.fminBf16 f) s = execFminBf16 f s := rfl
@[simp] theorem exec_fmaxBf16 (f : FmtW) (s : State) : exec (.fmaxBf16 f) s = execFmaxBf16 f s := rfl
@[simp] theorem exec_fsetpBf16 (f : FmtCmpB) (s : State) : exec (.fsetpBf16 f) s = execFsetpBf16 f s := rfl
@[simp] theorem exec_fnegBf16 (f : FmtDA) (s : State) : exec (.fnegBf16 f) s = execFnegBf16 f s := rfl
@[simp] theorem exec_fabsBf16 (f : FmtDA) (s : State) : exec (.fabsBf16 f) s = execFabsBf16 f s := rfl
@[simp] theorem exec_fclassBf16 (f : FmtDA) (s : State) : exec (.fclassBf16 f) s = execFclassBf16 f s := rfl
@[simp] theorem exec_rcp (f : FmtDA) (s : State) : exec (.rcp f) s = execRcp f s := rfl
@[simp] theorem exec_rsq (f : FmtDA) (s : State) : exec (.rsq f) s = execRsq f s := rfl
@[simp] theorem exec_sqrt (f : FmtDA) (s : State) : exec (.sqrt f) s = execSqrt f s := rfl
@[simp] theorem exec_ex2 (f : FmtDA) (s : State) : exec (.ex2 f) s = execEx2 f s := rfl
@[simp] theorem exec_lg2 (f : FmtDA) (s : State) : exec (.lg2 f) s = execLg2 f s := rfl
@[simp] theorem exec_sinpi (f : FmtDA) (s : State) : exec (.sinpi f) s = execSinpi f s := rfl
@[simp] theorem exec_cospi (f : FmtDA) (s : State) : exec (.cospi f) s = execCospi f s := rfl
@[simp] theorem exec_tanh (f : FmtDA) (s : State) : exec (.tanh f) s = execTanh f s := rfl
@[simp] theorem exec_cvtFloat (f : FmtCvtF) (s : State) : exec (.cvtFloat f) s = execCvtFloat f s := rfl
@[simp] theorem exec_cvtInt (f : FmtCvtI) (s : State) : exec (.cvtInt f) s = execCvtInt f s := rfl
@[simp] theorem exec_cvtXF32 (f : FmtW) (s : State) : exec (.cvtXF32 f) s = execCvtXF32 f s := rfl
@[simp] theorem exec_cvtF32X (f : FmtW) (s : State) : exec (.cvtF32X f) s = execCvtF32X f s := rfl
@[simp] theorem exec_qblk (f : FmtW) (s : State) : exec (.qblk f) s = execQblk f s := rfl
@[simp] theorem exec_dqblk (f : FmtW) (s : State) : exec (.dqblk f) s = execDqblk f s := rfl
@[simp] theorem exec_swz (f : FmtW) (s : State) : exec (.swz f) s = execSwz f s := rfl
@[simp] theorem exec_lxch (f : FmtR) (s : State) : exec (.lxch f) s = execLxch f s := rfl
@[simp] theorem exec_lbcast (f : FmtR) (s : State) : exec (.lbcast f) s = execLbcast f s := rfl
@[simp] theorem exec_lredAdd (f : FmtZDA) (s : State) : exec (.lredAdd f) s = execLredAdd f s := rfl
@[simp] theorem exec_lredMinI (f : FmtZDA) (s : State) : exec (.lredMinI f) s = execLredMinI f s := rfl
@[simp] theorem exec_lredMinN (f : FmtZDA) (s : State) : exec (.lredMinN f) s = execLredMinN f s := rfl
@[simp] theorem exec_lredMaxI (f : FmtZDA) (s : State) : exec (.lredMaxI f) s = execLredMaxI f s := rfl
@[simp] theorem exec_lredMaxN (f : FmtZDA) (s : State) : exec (.lredMaxN f) s = execLredMaxN f s := rfl
@[simp] theorem exec_lredAnd (f : FmtZDA) (s : State) : exec (.lredAnd f) s = execLredAnd f s := rfl
@[simp] theorem exec_lredOr (f : FmtZDA) (s : State) : exec (.lredOr f) s = execLredOr f s := rfl
@[simp] theorem exec_lredXor (f : FmtZDA) (s : State) : exec (.lredXor f) s = execLredXor f s := rfl
@[simp] theorem exec_lredMinIdxI (f : FmtZDA) (s : State) : exec (.lredMinIdxI f) s = execLredMinIdxI f s := rfl
@[simp] theorem exec_lredMinIdxN (f : FmtZDA) (s : State) : exec (.lredMinIdxN f) s = execLredMinIdxN f s := rfl
@[simp] theorem exec_lredMaxIdxI (f : FmtZDA) (s : State) : exec (.lredMaxIdxI f) s = execLredMaxIdxI f s := rfl
@[simp] theorem exec_lredMaxIdxN (f : FmtZDA) (s : State) : exec (.lredMaxIdxN f) s = execLredMaxIdxN f s := rfl
@[simp] theorem exec_lredFadd (f : FmtZDA) (s : State) : exec (.lredFadd f) s = execLredFadd f s := rfl
@[simp] theorem exec_lredFmin (f : FmtZDA) (s : State) : exec (.lredFmin f) s = execLredFmin f s := rfl
@[simp] theorem exec_lredFmax (f : FmtZDA) (s : State) : exec (.lredFmax f) s = execLredFmax f s := rfl
@[simp] theorem exec_lredFminIdx (f : FmtZDA) (s : State) : exec (.lredFminIdx f) s = execLredFminIdx f s := rfl
@[simp] theorem exec_lredFmaxIdx (f : FmtZDA) (s : State) : exec (.lredFmaxIdx f) s = execLredFmaxIdx f s := rfl
@[simp] theorem exec_lredFaddBf16 (f : FmtDA) (s : State) : exec (.lredFaddBf16 f) s = execLredFaddBf16 f s := rfl
@[simp] theorem exec_lredFminBf16 (f : FmtDA) (s : State) : exec (.lredFminBf16 f) s = execLredFminBf16 f s := rfl
@[simp] theorem exec_lredFmaxBf16 (f : FmtDA) (s : State) : exec (.lredFmaxBf16 f) s = execLredFmaxBf16 f s := rfl
@[simp] theorem exec_lredFminIdxBf16 (f : FmtDA) (s : State) : exec (.lredFminIdxBf16 f) s = execLredFminIdxBf16 f s := rfl
@[simp] theorem exec_lredFmaxIdxBf16 (f : FmtDA) (s : State) : exec (.lredFmaxIdxBf16 f) s = execLredFmaxIdxBf16 f s := rfl
@[simp] theorem exec_lscanAdd (f : FmtScan) (s : State) : exec (.lscanAdd f) s = execLscanAdd f s := rfl
@[simp] theorem exec_lscanMinI (f : FmtScan) (s : State) : exec (.lscanMinI f) s = execLscanMinI f s := rfl
@[simp] theorem exec_lscanMinN (f : FmtScan) (s : State) : exec (.lscanMinN f) s = execLscanMinN f s := rfl
@[simp] theorem exec_lscanMaxI (f : FmtScan) (s : State) : exec (.lscanMaxI f) s = execLscanMaxI f s := rfl
@[simp] theorem exec_lscanMaxN (f : FmtScan) (s : State) : exec (.lscanMaxN f) s = execLscanMaxN f s := rfl
@[simp] theorem exec_lscanAnd (f : FmtScan) (s : State) : exec (.lscanAnd f) s = execLscanAnd f s := rfl
@[simp] theorem exec_lscanOr (f : FmtScan) (s : State) : exec (.lscanOr f) s = execLscanOr f s := rfl
@[simp] theorem exec_lscanXor (f : FmtScan) (s : State) : exec (.lscanXor f) s = execLscanXor f s := rfl
@[simp] theorem exec_lscanFadd (f : FmtScan) (s : State) : exec (.lscanFadd f) s = execLscanFadd f s := rfl
@[simp] theorem exec_lscanFmin (f : FmtScan) (s : State) : exec (.lscanFmin f) s = execLscanFmin f s := rfl
@[simp] theorem exec_lscanFmax (f : FmtScan) (s : State) : exec (.lscanFmax f) s = execLscanFmax f s := rfl
@[simp] theorem exec_lscanFaddBf16 (f : FmtScanB) (s : State) : exec (.lscanFaddBf16 f) s = execLscanFaddBf16 f s := rfl
@[simp] theorem exec_lscanFminBf16 (f : FmtScanB) (s : State) : exec (.lscanFminBf16 f) s = execLscanFminBf16 f s := rfl
@[simp] theorem exec_lscanFmaxBf16 (f : FmtScanB) (s : State) : exec (.lscanFmaxBf16 f) s = execLscanFmaxBf16 f s := rfl
@[simp] theorem exec_lballot (f : FmtDA) (s : State) : exec (.lballot f) s = execLballot f s := rfl
@[simp] theorem exec_lmatch (f : FmtZDA) (s : State) : exec (.lmatch f) s = execLmatch f s := rfl
@[simp] theorem exec_lmatchF (f : FmtZDA) (s : State) : exec (.lmatchF f) s = execLmatchF f s := rfl
@[simp] theorem exec_lmatchBf16 (f : FmtDA) (s : State) : exec (.lmatchBf16 f) s = execLmatchBf16 f s := rfl
@[simp] theorem exec_lcount (f : FmtDA) (s : State) : exec (.lcount f) s = execLcount f s := rfl
@[simp] theorem exec_ld (f : FmtR) (s : State) : exec (.ld f) s = execLd f s := rfl
@[simp] theorem exec_ldOffset (f : FmtR) (s : State) : exec (.ldOffset f) s = execLdOffset f s := rfl
@[simp] theorem exec_st (f : FmtR) (s : State) : exec (.st f) s = execSt f s := rfl
@[simp] theorem exec_stOffset (f : FmtR) (s : State) : exec (.stOffset f) s = execStOffset f s := rfl
@[simp] theorem exec_ldu (f : FmtR) (s : State) : exec (.ldu f) s = execLdu f s := rfl
@[simp] theorem exec_stu (f : FmtR) (s : State) : exec (.stu f) s = execStu f s := rfl
@[simp] theorem exec_ldl (f : FmtR) (s : State) : exec (.ldl f) s = execLdl f s := rfl
@[simp] theorem exec_ldlOffset (f : FmtR) (s : State) : exec (.ldlOffset f) s = execLdlOffset f s := rfl
@[simp] theorem exec_stl (f : FmtR) (s : State) : exec (.stl f) s = execStl f s := rfl
@[simp] theorem exec_stlOffset (f : FmtR) (s : State) : exec (.stlOffset f) s = execStlOffset f s := rfl
@[simp] theorem exec_ldc (f : FmtR) (s : State) : exec (.ldc f) s = execLdc f s := rfl
@[simp] theorem exec_ldcU (f : FmtR) (s : State) : exec (.ldcU f) s = execLdcU f s := rfl
@[simp] theorem exec_amoAdd (f : FmtZ1DA) (s : State) : exec (.amoAdd f) s = execAmoAdd f s := rfl
@[simp] theorem exec_amoMinI (f : FmtZ1DA) (s : State) : exec (.amoMinI f) s = execAmoMinI f s := rfl
@[simp] theorem exec_amoMinN (f : FmtZ1DA) (s : State) : exec (.amoMinN f) s = execAmoMinN f s := rfl
@[simp] theorem exec_amoMaxI (f : FmtZ1DA) (s : State) : exec (.amoMaxI f) s = execAmoMaxI f s := rfl
@[simp] theorem exec_amoMaxN (f : FmtZ1DA) (s : State) : exec (.amoMaxN f) s = execAmoMaxN f s := rfl
@[simp] theorem exec_amoAnd (f : FmtZ1DA) (s : State) : exec (.amoAnd f) s = execAmoAnd f s := rfl
@[simp] theorem exec_amoOr (f : FmtZ1DA) (s : State) : exec (.amoOr f) s = execAmoOr f s := rfl
@[simp] theorem exec_amoXor (f : FmtZ1DA) (s : State) : exec (.amoXor f) s = execAmoXor f s := rfl
@[simp] theorem exec_amoExch (f : FmtZ1DA) (s : State) : exec (.amoExch f) s = execAmoExch f s := rfl
@[simp] theorem exec_amoCas (f : FmtZ1DA) (s : State) : exec (.amoCas f) s = execAmoCas f s := rfl
@[simp] theorem exec_amouAdd (f : FmtZ1DA) (s : State) : exec (.amouAdd f) s = execAmouAdd f s := rfl
@[simp] theorem exec_amouMinI (f : FmtZ1DA) (s : State) : exec (.amouMinI f) s = execAmouMinI f s := rfl
@[simp] theorem exec_amouMinN (f : FmtZ1DA) (s : State) : exec (.amouMinN f) s = execAmouMinN f s := rfl
@[simp] theorem exec_amouMaxI (f : FmtZ1DA) (s : State) : exec (.amouMaxI f) s = execAmouMaxI f s := rfl
@[simp] theorem exec_amouMaxN (f : FmtZ1DA) (s : State) : exec (.amouMaxN f) s = execAmouMaxN f s := rfl
@[simp] theorem exec_amouAnd (f : FmtZ1DA) (s : State) : exec (.amouAnd f) s = execAmouAnd f s := rfl
@[simp] theorem exec_amouOr (f : FmtZ1DA) (s : State) : exec (.amouOr f) s = execAmouOr f s := rfl
@[simp] theorem exec_amouXor (f : FmtZ1DA) (s : State) : exec (.amouXor f) s = execAmouXor f s := rfl
@[simp] theorem exec_amouExch (f : FmtZ1DA) (s : State) : exec (.amouExch f) s = execAmouExch f s := rfl
@[simp] theorem exec_amouCas (f : FmtZ1DA) (s : State) : exec (.amouCas f) s = execAmouCas f s := rfl
@[simp] theorem exec_aappend (f : FmtZ1) (s : State) : exec (.aappend f) s = execAappend f s := rfl
@[simp] theorem exec_cpyG2l (f : FmtR) (s : State) : exec (.cpyG2l f) s = execCpyG2l f s := rfl
@[simp] theorem exec_cpyL2g (f : FmtR) (s : State) : exec (.cpyL2g f) s = execCpyL2g f s := rfl
@[simp] theorem exec_cpyL2l (f : FmtR) (s : State) : exec (.cpyL2l f) s = execCpyL2l f s := rfl
@[simp] theorem exec_cpyG2g (f : FmtR) (s : State) : exec (.cpyG2g f) s = execCpyG2g f s := rfl
@[simp] theorem exec_ringInit (f : FmtDA) (s : State) : exec (.ringInit f) s = execRingInit f s := rfl
@[simp] theorem exec_ringAcq (f : FmtDA) (s : State) : exec (.ringAcq f) s = execRingAcq f s := rfl
@[simp] theorem exec_ringPub (f : FmtDA) (s : State) : exec (.ringPub f) s = execRingPub f s := rfl
@[simp] theorem exec_ringTake (f : FmtDA) (s : State) : exec (.ringTake f) s = execRingTake f s := rfl
@[simp] theorem exec_ringRel (f : FmtDA) (s : State) : exec (.ringRel f) s = execRingRel f s := rfl
@[simp] theorem exec_barInit (f : FmtDA) (s : State) : exec (.barInit f) s = execBarInit f s := rfl
@[simp] theorem exec_barArv (f : FmtDA) (s : State) : exec (.barArv f) s = execBarArv f s := rfl
@[simp] theorem exec_barWait (f : FmtDA) (s : State) : exec (.barWait f) s = execBarWait f s := rfl
@[simp] theorem exec_barArw (f : FmtDA) (s : State) : exec (.barArw f) s = execBarArw f s := rfl
@[simp] theorem exec_barInval (f : FmtA) (s : State) : exec (.barInval f) s = execBarInval f s := rfl
@[simp] theorem exec_bbar (f : FmtD) (s : State) : exec (.bbar f) s = execBbar f s := rfl
@[simp] theorem exec_dbar (f : FmtD) (s : State) : exec (.dbar f) s = execDbar f s := rfl
@[simp] theorem exec_cbar (f : FmtCb) (s : State) : exec (.cbar f) s = execCbar f s := rfl
@[simp] theorem exec_fenceIo (f : FmtN) (s : State) : exec (.fenceIo f) s = execFenceIo f s := rfl
@[simp] theorem exec_bdecl (f : FmtDA) (s : State) : exec (.bdecl f) s = execBdecl f s := rfl
@[simp] theorem exec_bentr (f : FmtDA) (s : State) : exec (.bentr f) s = execBentr f s := rfl
@[simp] theorem exec_bleav (f : FmtA) (s : State) : exec (.bleav f) s = execBleav f s := rfl
@[simp] theorem exec_bstat (f : FmtDA) (s : State) : exec (.bstat f) s = execBstat f s := rfl
@[simp] theorem exec_qpop (f : FmtQ) (s : State) : exec (.qpop f) s = execQpop f s := rfl
@[simp] theorem exec_qpopTry (f : FmtQ) (s : State) : exec (.qpopTry f) s = execQpopTry f s := rfl
@[simp] theorem exec_qpush (f : FmtDA) (s : State) : exec (.qpush f) s = execQpush f s := rfl
@[simp] theorem exec_sgbind (f : FmtDA) (s : State) : exec (.sgbind f) s = execSgbind f s := rfl
@[simp] theorem exec_sgstat (f : FmtDA) (s : State) : exec (.sgstat f) s = execSgstat f s := rfl
@[simp] theorem exec_rdclk (f : FmtD) (s : State) : exec (.rdclk f) s = execRdclk f s := rfl
@[simp] theorem exec_rdptp (f : FmtD) (s : State) : exec (.rdptp f) s = execRdptp f s := rfl
@[simp] theorem exec_rdenergy (f : FmtD) (s : State) : exec (.rdenergy f) s = execRdenergy f s := rfl
@[simp] theorem exec_bra (f : FmtB) (s : State) : exec (.bra f) s = execBra f s := rfl
@[simp] theorem exec_brd (f : FmtB) (s : State) : exec (.brd f) s = execBrd f s := rfl
@[simp] theorem exec_join (f : FmtBn) (s : State) : exec (.join f) s = execJoin f s := rfl
@[simp] theorem exec_brx (f : FmtA) (s : State) : exec (.brx f) s = execBrx f s := rfl
@[simp] theorem exec_brxU (f : FmtA) (s : State) : exec (.brxU f) s = execBrxU f s := rfl
@[simp] theorem exec_ret (f : FmtA) (s : State) : exec (.ret f) s = execRet f s := rfl
@[simp] theorem exec_land (f : FmtBn) (s : State) : exec (.land f) s = execLand f s := rfl
@[simp] theorem exec_call (f : FmtB) (s : State) : exec (.call f) s = execCall f s := rfl
@[simp] theorem exec_loop (f : FmtDI) (s : State) : exec (.loop f) s = execLoop f s := rfl
@[simp] theorem exec_exit (f : FmtN) (s : State) : exec (.exit f) s = execExit f s := rfl
@[simp] theorem exec_mma (f : FmtW) (s : State) : exec (.mma f) s = execMma f s := rfl
@[simp] theorem exec_mzero (f : FmtDA) (s : State) : exec (.mzero f) s = execMzero f s := rfl
@[simp] theorem exec_mmag (f : FmtW) (s : State) : exec (.mmag f) s = execMmag f s := rfl
@[simp] theorem exec_mstS (f : FmtW) (s : State) : exec (.mstS f) s = execMstS f s := rfl
@[simp] theorem exec_mstSAddF32 (f : FmtW) (s : State) : exec (.mstSAddF32 f) s = execMstSAddF32 f s := rfl
@[simp] theorem exec_mstSAddI32 (f : FmtW) (s : State) : exec (.mstSAddI32 f) s = execMstSAddI32 f s := rfl
@[simp] theorem exec_mmaCv (f : FmtW) (s : State) : exec (.mmaCv f) s = execMmaCv f s := rfl
@[simp] theorem exec_mrowRead (f : FmtT) (s : State) : exec (.mrowRead f) s = execMrowRead f s := rfl
@[simp] theorem exec_mcolRead (f : FmtT) (s : State) : exec (.mcolRead f) s = execMcolRead f s := rfl
@[simp] theorem exec_mrowWrite (f : FmtT) (s : State) : exec (.mrowWrite f) s = execMrowWrite f s := rfl
@[simp] theorem exec_mcolWrite (f : FmtT) (s : State) : exec (.mcolWrite f) s = execMcolWrite f s := rfl
@[simp] theorem exec_setvb (f : FmtVb) (s : State) : exec (.setvb f) s = execSetvb f s := rfl
@[simp] theorem exec_svc (f : FmtS) (s : State) : exec (.svc f) s = execSvc f s := rfl
@[simp] theorem exec_eret (f : FmtN) (s : State) : exec (.eret f) s = execEret f s := rfl
@[simp] theorem exec_eretNobp (f : FmtN) (s : State) : exec (.eretNobp f) s = execEretNobp f s := rfl
@[simp] theorem exec_eretTerm (f : FmtTm) (s : State) : exec (.eretTerm f) s = execEretTerm f s := rfl
@[simp] theorem exec_mfsr (f : FmtDI) (s : State) : exec (.mfsr f) s = execMfsr f s := rfl
@[simp] theorem exec_mtsr (f : FmtAI) (s : State) : exec (.mtsr f) s = execMtsr f s := rfl
@[simp] theorem exec_tlbiPage (f : FmtDA) (s : State) : exec (.tlbiPage f) s = execTlbiPage f s := rfl
@[simp] theorem exec_tlbiSpace (f : FmtDA) (s : State) : exec (.tlbiSpace f) s = execTlbiSpace f s := rfl
@[simp] theorem exec_tlbiTenant (f : FmtDA) (s : State) : exec (.tlbiTenant f) s = execTlbiTenant f s := rfl
@[simp] theorem exec_scrub (f : FmtDA) (s : State) : exec (.scrub f) s = execScrub f s := rfl
@[simp] theorem exec_ovld (f : FmtDA) (s : State) : exec (.ovld f) s = execOvld f s := rfl
@[simp] theorem exec_cacheopDropLine (f : FmtDA) (s : State) : exec (.cacheopDropLine f) s = execCacheopDropLine f s := rfl
@[simp] theorem exec_cacheopWriteback (f : FmtDA) (s : State) : exec (.cacheopWriteback f) s = execCacheopWriteback f s := rfl
@[simp] theorem exec_cacheopDropAll (f : FmtDA) (s : State) : exec (.cacheopDropAll f) s = execCacheopDropAll f s := rfl
@[simp] theorem exec_wfe (f : FmtW) (s : State) : exec (.wfe f) s = execWfe f s := rfl
@[simp] theorem exec_halt (f : FmtN) (s : State) : exec (.halt f) s = execHalt f s := rfl
@[simp] theorem exec_imm (f : FmtImm) (s : State) : exec (.imm f) s = execImm f s := rfl
@[simp] theorem exec_rep (f : FmtRep) (s : State) : exec (.rep f) s = execRep f s := rfl
@[simp] theorem exec_mod (f : FmtMod) (s : State) : exec (.mod f) s = execMod f s := rfl
@[simp] theorem exec_sched (f : FmtSched) (s : State) : exec (.sched f) s = execSched f s := rfl
@[simp] theorem exec_scoreboardWriteback (who : Who) (s : State) : exec (.scoreboardWriteback who) s = execScoreboardWriteback who s := rfl
@[simp] theorem exec_hostAtomicCompletion (blk car : Nat) (ok performed : Bool) (s : State) : exec (.hostAtomicCompletion blk car ok performed) s = execHostAtomicCompletion blk car ok performed s := rfl
@[simp] theorem exec_homeRequest (src : Requester) (line first last : Nat) (own : Bool) (s : State) : exec (.homeRequest src line first last own) s = execHomeRequest src line first last own s := rfl
@[simp] theorem exec_invalidation (cache : Inval) (line : Nat) (words : BitVec 64) (s : State) : exec (.invalidation cache line words) s = execInvalidation cache line words s := rfl
@[simp] theorem exec_epochCommit (blk car : Nat) (s : State) : exec (.epochCommit blk car) s = execEpochCommit blk car s := rfl
@[simp] theorem exec_coreEscortEnd (core : Nat) (s : State) : exec (.coreEscortEnd core) s = execCoreEscortEnd core s := rfl
@[simp] theorem exec_uncorrectableError (e : EccError) (s : State) : exec (.uncorrectableError e) s = execUncorrectableError e s := rfl
@[simp] theorem exec_copyTransfer (id : Nat) (s : State) : exec (.copyTransfer id) s = execCopyTransfer id s := rfl
@[simp] theorem exec_matrixTake (core : Nat) (s : State) : exec (.matrixTake core) s = execMatrixTake core s := rfl
@[simp] theorem exec_matrixOperandRead (core : Nat) (s : State) : exec (.matrixOperandRead core) s = execMatrixOperandRead core s := rfl
@[simp] theorem exec_matrixComplete (core : Nat) (s : State) : exec (.matrixComplete core) s = execMatrixComplete core s := rfl
@[simp] theorem exec_trapEntry (who : Who) (t : Trap) (s : State) : exec (.trapEntry who t) s = execTrapEntry who t s := rfl
@[simp] theorem exec_wfeTimeout (blk car : Nat) (s : State) : exec (.wfeTimeout blk car) s = execWfeTimeout blk car s := rfl
@[simp] theorem exec_bundleRequestServe (tenant die : Nat) (s : State) : exec (.bundleRequestServe tenant die) s = execBundleRequestServe tenant die s := rfl
@[simp] theorem exec_bundleEntryComplete (blk handle : Nat) (s : State) : exec (.bundleEntryComplete blk handle) s = execBundleEntryComplete blk handle s := rfl
@[simp] theorem exec_streamAccess (id : Nat) (s : State) : exec (.streamAccess id) s = execStreamAccess id s := rfl
@[simp] theorem exec_dhLineCopy (vf proc : Nat) (s : State) : exec (.dhLineCopy vf proc) s = execDhLineCopy vf proc s := rfl
@[simp] theorem exec_ingestFrame (port : Nat) (bytes : List (BitVec 8)) (s : State) : exec (.ingestFrame port bytes) s = execIngestFrame port bytes s := rfl
@[simp] theorem exec_transmitFrame (port : Nat) (s : State) : exec (.transmitFrame port) s = execTransmitFrame port s := rfl
@[simp] theorem exec_packetDispatch (s : State) : exec (.packetDispatch) s = execPacketDispatch s := rfl
@[simp] theorem exec_semaphorePoll (vf q : Nat) (s : State) : exec (.semaphorePoll vf q) s = execSemaphorePoll vf q s := rfl
@[simp] theorem exec_sliceEnd (s : State) : exec (.sliceEnd) s = execSliceEnd s := rfl
@[simp] theorem exec_feedQueuePush (vf q : Nat) (s : State) : exec (.feedQueuePush vf q) s = execFeedQueuePush vf q s := rfl
@[simp] theorem exec_launchCompletion (launch : Nat) (s : State) : exec (.launchCompletion launch) s = execLaunchCompletion launch s := rfl
@[simp] theorem exec_chunkSteal (launch die : Nat) (s : State) : exec (.chunkSteal launch die) s = execChunkSteal launch die s := rfl
@[simp] theorem exec_blockAdmission (die : Nat) (s : State) : exec (.blockAdmission die) s = execBlockAdmission die s := rfl
@[simp] theorem exec_energyMeterSample (s : State) : exec (.energyMeterSample) s = execEnergyMeterSample s := rfl
@[simp] theorem exec_energyWindowStart (s : State) : exec (.energyWindowStart) s = execEnergyWindowStart s := rfl
@[simp] theorem exec_flitReceive (link : Nat) (x : Flit) (s : State) : exec (.flitReceive link x) s = execFlitReceive link x s := rfl
@[simp] theorem exec_linkHeartbeat (link : Nat) (s : State) : exec (.linkHeartbeat link) s = execLinkHeartbeat link s := rfl
@[simp] theorem exec_linkFailed (link : Nat) (s : State) : exec (.linkFailed link) s = execLinkFailed link s := rfl
@[simp] theorem exec_requestReissue (tag : Nat) (s : State) : exec (.requestReissue tag) s = execRequestReissue tag s := rfl
@[simp] theorem exec_packageFenced (pkg : Nat) (s : State) : exec (.packageFenced pkg) s = execPackageFenced pkg s := rfl
@[simp] theorem exec_hostAccess (a : HostAccess) (s : State) : exec (.hostAccess a) s = execHostAccess a s := rfl
@[simp] theorem exec_hostLkWrite (vf : HostFrom) (reg : HostReg) (value : BitVec 64) (s : State) : exec (.hostLkWrite vf reg value) s = execHostLkWrite vf reg value s := rfl
@[simp] theorem exec_ideStreamFailure (vf : Nat) (s : State) : exec (.ideStreamFailure vf) s = execIdeStreamFailure vf s := rfl
@[simp] theorem exec_functionLevelReset (vf : Nat) (s : State) : exec (.functionLevelReset vf) s = execFunctionLevelReset vf s := rfl
@[simp] theorem exec_qtailDoorbell (vf : HostFrom) (q : Nat) (value : BitVec 32) (s : State) : exec (.qtailDoorbell vf q value) s = execQtailDoorbell vf q value s := rfl
@[simp] theorem exec_evheadWrite (vf : HostFrom) (value : BitVec 32) (s : State) : exec (.evheadWrite vf value) s = execEvheadWrite vf value s := rfl
@[simp] theorem exec_registerWrite (vf : HostFrom) (reg : HostReg) (value : BitVec 64) (s : State) : exec (.registerWrite vf reg value) s = execRegisterWrite vf reg value s := rfl
@[simp] theorem exec_mapQueue (c : Command) (s : State) : exec (.mapQueue c) s = execMapQueue c s := rfl
@[simp] theorem exec_unmapQueue (c : Command) (s : State) : exec (.unmapQueue c) s = execUnmapQueue c s := rfl
@[simp] theorem exec_pause (c : Command) (s : State) : exec (.pause c) s = execPause c s := rfl
@[simp] theorem exec_resume (c : Command) (s : State) : exec (.resume c) s = execResume c s := rfl
@[simp] theorem exec_evict (c : Command) (s : State) : exec (.evict c) s = execEvict c s := rfl
@[simp] theorem exec_importContext (c : Command) (s : State) : exec (.importContext c) s = execImportContext c s := rfl
@[simp] theorem exec_setSlice (c : Command) (s : State) : exec (.setSlice c) s = execSetSlice c s := rfl
@[simp] theorem exec_reassignCores (c : Command) (s : State) : exec (.reassignCores c) s = execReassignCores c s := rfl
@[simp] theorem exec_migrate (c : Command) (s : State) : exec (.migrate c) s = execMigrate c s := rfl
@[simp] theorem exec_setWeight (c : Command) (s : State) : exec (.setWeight c) s = execSetWeight c s := rfl
@[simp] theorem exec_endGang (c : Command) (s : State) : exec (.endGang c) s = execEndGang c s := rfl
@[simp] theorem exec_discardLaunch (c : Command) (s : State) : exec (.discardLaunch c) s = execDiscardLaunch c s := rfl
@[simp] theorem exec_resetQueue (c : Command) (s : State) : exec (.resetQueue c) s = execResetQueue c s := rfl
@[simp] theorem exec_attachPort (c : Command) (s : State) : exec (.attachPort c) s = execAttachPort c s := rfl
@[simp] theorem exec_resetTenant (c : Command) (s : State) : exec (.resetTenant c) s = execResetTenant c s := rfl
@[simp] theorem exec_installPolicy (c : Command) (s : State) : exec (.installPolicy c) s = execInstallPolicy c s := rfl
@[simp] theorem exec_assignMemory (c : Command) (s : State) : exec (.assignMemory c) s = execAssignMemory c s := rfl
@[simp] theorem exec_releaseMemory (c : Command) (s : State) : exec (.releaseMemory c) s = execReleaseMemory c s := rfl
@[simp] theorem exec_setPodWindow (c : Command) (s : State) : exec (.setPodWindow c) s = execSetPodWindow c s := rfl
@[simp] theorem exec_lockInterface (m : TdispMsg) (s : State) : exec (.lockInterface m) s = execLockInterface m s := rfl
@[simp] theorem exec_startInterface (m : TdispMsg) (s : State) : exec (.startInterface m) s = execStartInterface m s := rfl
@[simp] theorem exec_stopInterface (m : TdispMsg) (s : State) : exec (.stopInterface m) s = execStopInterface m s := rfl
@[simp] theorem exec_getDeviceInterfaceReport (m : TdispMsg) (s : State) : exec (.getDeviceInterfaceReport m) s = execGetDeviceInterfaceReport m s := rfl
@[simp] theorem exec_getDeviceInterfaceState (m : TdispMsg) (s : State) : exec (.getDeviceInterfaceState m) s = execGetDeviceInterfaceState m s := rfl
@[simp] theorem exec_tdispGetVersion (m : TdispMsg) (s : State) : exec (.tdispGetVersion m) s = execTdispGetVersion m s := rfl
@[simp] theorem exec_tdispGetCapabilities (m : TdispMsg) (s : State) : exec (.tdispGetCapabilities m) s = execTdispGetCapabilities m s := rfl
@[simp] theorem exec_ifcmdLock (vf : Nat) (s : State) : exec (.ifcmdLock vf) s = execIfcmdLock vf s := rfl
@[simp] theorem exec_ifcmdStart (vf : Nat) (s : State) : exec (.ifcmdStart vf) s = execIfcmdStart vf s := rfl
@[simp] theorem exec_ifcmdStop (vf : Nat) (s : State) : exec (.ifcmdStop vf) s = execIfcmdStop vf s := rfl
@[simp] theorem exec_spdmGetVersion (m : SpdmMsg) (s : State) : exec (.spdmGetVersion m) s = execSpdmGetVersion m s := rfl
@[simp] theorem exec_spdmGetCapabilities (m : SpdmMsg) (s : State) : exec (.spdmGetCapabilities m) s = execSpdmGetCapabilities m s := rfl
@[simp] theorem exec_negotiateAlgorithms (m : SpdmMsg) (s : State) : exec (.negotiateAlgorithms m) s = execNegotiateAlgorithms m s := rfl
@[simp] theorem exec_getDigests (m : SpdmMsg) (s : State) : exec (.getDigests m) s = execGetDigests m s := rfl
@[simp] theorem exec_getCertificate (m : SpdmMsg) (s : State) : exec (.getCertificate m) s = execGetCertificate m s := rfl
@[simp] theorem exec_challenge (m : SpdmMsg) (s : State) : exec (.challenge m) s = execChallenge m s := rfl
@[simp] theorem exec_getMeasurements (m : SpdmMsg) (s : State) : exec (.getMeasurements m) s = execGetMeasurements m s := rfl
@[simp] theorem exec_keyExchange (m : SpdmMsg) (s : State) : exec (.keyExchange m) s = execKeyExchange m s := rfl
@[simp] theorem exec_finish (m : SpdmMsg) (s : State) : exec (.finish m) s = execFinish m s := rfl
@[simp] theorem exec_spdmHeartbeat (m : SpdmMsg) (s : State) : exec (.spdmHeartbeat m) s = execSpdmHeartbeat m s := rfl
@[simp] theorem exec_keyUpdate (m : SpdmMsg) (s : State) : exec (.keyUpdate m) s = execKeyUpdate m s := rfl
@[simp] theorem exec_endSession (m : SpdmMsg) (s : State) : exec (.endSession m) s = execEndSession m s := rfl
@[simp] theorem exec_policyKeyRegistration (m : SpdmMsg) (s : State) : exec (.policyKeyRegistration m) s = execPolicyKeyRegistration m s := rfl
@[simp] theorem exec_packageReset (why : Nat) (s : State) : exec (.packageReset why) s = execPackageReset why s := rfl
@[simp] theorem exec_firmwareWatchdog (s : State) : exec (.firmwareWatchdog) s = execFirmwareWatchdog s := rfl
@[simp] theorem exec_fwctlReady (s : State) : exec (.fwctlReady) s = execFwctlReady s := rfl
@[simp] theorem exec_fwctlActivate (s : State) : exec (.fwctlActivate) s = execFwctlActivate s := rfl
@[simp] theorem exec_activationVerified (s : State) : exec (.activationVerified) s = execActivationVerified s := rfl
@[simp] theorem exec_activationPause (s : State) : exec (.activationPause) s = execActivationPause s := rfl
@[simp] theorem exec_firmwareImageWrite (bytes : List (BitVec 8)) (s : State) : exec (.firmwareImageWrite bytes) s = execFirmwareImageWrite bytes s := rfl
@[simp] theorem exec_wake (value : BitVec 64) (s : State) : exec (.wake value) s = execWake value s := rfl
@[simp] theorem exec_stlaunch (core : Nat) (value : BitVec 64) (s : State) : exec (.stlaunch core value) s = execStlaunch core value s := rfl
@[simp] theorem exec_dhctlSync (vf proc : Nat) (s : State) : exec (.dhctlSync vf proc) s = execDhctlSync vf proc s := rfl
@[simp] theorem exec_dhctlSwitch (vf proc : Nat) (s : State) : exec (.dhctlSwitch vf proc) s = execDhctlSwitch vf proc s := rfl
@[simp] theorem exec_syzstatRetrain (port : Nat) (s : State) : exec (.syzstatRetrain port) s = execSyzstatRetrain port s := rfl
@[simp] theorem exec_pwrcap (value : BitVec 64) (s : State) : exec (.pwrcap value) s = execPwrcap value s := rfl
@[simp] theorem exec_junctionHot (die : Nat) (s : State) : exec (.junctionHot die) s = execJunctionHot die s := rfl
@[simp] theorem exec_junctionCool (die : Nat) (s : State) : exec (.junctionCool die) s = execJunctionCool die s := rfl
@[simp] theorem exec_thermalTrip (s : State) : exec (.thermalTrip) s = execThermalTrip s := rfl
@[simp] theorem exec_coreRetirement (core : Nat) (s : State) : exec (.coreRetirement core) s = execCoreRetirement core s := rfl
@[simp] theorem exec_unassignedEncoding (w : BitVec 32) (s : State) : exec (.unassignedEncoding w) s = execUnassignedEncoding w s := rfl
@[simp] theorem exec_reservedHintWord (w : BitVec 32) (s : State) : exec (.reservedHintWord w) s = execReservedHintWord w s := rfl
@[simp] theorem exec_ikdoor (_value : BitVec 64) (s : State) : exec (.ikdoor _value) s = execIkdoor _value s := rfl
@[simp] theorem exec_ideKmKeyProgramming (m : SpdmMsg) (s : State) : exec (.ideKmKeyProgramming m) s = execIdeKmKeyProgramming m s := rfl
@[simp] theorem exec_healthTestFailure (s : State) : exec (.healthTestFailure) s = execHealthTestFailure s := rfl
@[simp] theorem exec_hostSnoop (_addr : Nat) (s : State) : exec (.hostSnoop _addr) s = execHostSnoop _addr s := rfl
@[simp] theorem exec_globalObservationResponse (addr : Nat) (s : State) : exec (.globalObservationResponse addr) s = execGlobalObservationResponse addr s := rfl
@[simp] theorem exec_reAdmission (source : Nat) (s : State) : exec (.reAdmission source) s = execReAdmission source s := rfl
@[simp] theorem exec_trainingComplete (port : Nat) (s : State) : exec (.trainingComplete port) s = execTrainingComplete port s := rfl

end Sys2Proof.Laws
end

