-- ==== Sys2Proof/Laws/Issue.lean ====
section
/-! SUPPORT. What the shared operations over blocks, caravans and the issue of one word do, said once. -/
namespace Sys2Proof.Laws
open Sys2Proof Sys2Proof.Machine

/-- Changing the items a test holds of, in a way that keeps the test, changes what the search finds. -/
theorem find?_map_update {α : Type} (l : List α) (p : α → Bool) (f : α → α) (h : ∀ x, p x = true → p (f x) = true) :
    (l.map (fun x => if p x then f x else x)).find? p = (l.find? p).map f := by
  induction l with
  | nil => rfl
  | cons a l ih =>
    by_cases hp : p a
    · simp [hp, h a hp]
    · simp [hp, ih]

/-- Changing items of another key leaves a search as it was. -/
theorem find?_map_other {α : Type} (l : List α) (p q : α → Bool) (f : α → α) (h : ∀ x, p x = true → q x = false ∧ q (f x) = false) :
    (l.map (fun x => if p x then f x else x)).find? q = l.find? q := by
  induction l with
  | nil => rfl
  | cons a l ih =>
    by_cases hp : p a
    · simp [hp, h a hp, ih]
    · simp only [List.map_cons, hp, List.find?_cons, ih]; rfl

theorem block?_modBlock (s : State) (b : Nat) (f : Block → Block) (h : ∀ x, (f x).id = x.id) :
    (s.modBlock b f).block? b = (s.block? b).map f :=
  find?_map_update _ _ _ (by intro x hx; simpa [h] using hx)

theorem block?_modBlock_other (s : State) (b k : Nat) (f : Block → Block) (h : ∀ x, (f x).id = x.id) (hk : k ≠ b) :
    (s.modBlock b f).block? k = s.block? k :=
  find?_map_other _ _ _ _ (by intro x hx; simp only [beq_iff_eq] at hx; subst hx; simp [h, Ne.symm hk])

theorem car?_modCar (x : Block) (n : Nat) (f : Caravan → Caravan) (h : ∀ c, (f c).n = c.n) :
    (x.modCar n f).car? n = (x.car? n).map f :=
  find?_map_update _ _ _ (by intro c hc; simpa [h] using hc)

theorem car?_modCar_other (x : Block) (n k : Nat) (f : Caravan → Caravan) (h : ∀ c, (f c).n = c.n) (hk : k ≠ n) :
    (x.modCar n f).car? k = x.car? k :=
  find?_map_other _ _ _ _ (by intro c hc; simp only [beq_iff_eq] at hc; subst hc; simp [h, Ne.symm hk])

theorem car?_state_modCar (s : State) (b n : Nat) (f : Caravan → Caravan) (h : ∀ c, (f c).n = c.n) :
    (s.modCar b n f).car? b n = (s.car? b n).map f := by
  simp only [State.car?, State.modCar]
  rw [block?_modBlock s b (fun x => x.modCar n f) (fun _ => rfl)]
  cases s.block? b with
  | none => rfl
  | some x => exact car?_modCar x n f h

/-- Two changes of one caravan are one. -/
theorem modCar_modCar (s : State) (b n : Nat) (f g : Caravan → Caravan) (h : ∀ c, (f c).n = c.n) :
    (s.modCar b n f).modCar b n g = s.modCar b n (fun c => g (f c)) := by
  simp only [State.modCar, State.modBlock, List.map_map]
  congr 1
  apply List.map_congr_left
  intro x _
  by_cases hx : x.id = b
  · simp only [Function.comp, hx, beq_self_eq_true, ite_true, Block.modCar, List.map_map]
    congr 1
    apply List.map_congr_left
    intro c _
    by_cases hc : c.n = n
    · simp [Function.comp, hc, h]
    · simp [Function.comp, hc]
  · simp [Function.comp, hx]

/-- A change of the clock or the agenda and a change of a caravan commute. -/
theorem modCar_clk (s : State) (b n k : Nat) (f : Caravan → Caravan) :
    ({ s with clk := k } : State).modCar b n f = { s.modCar b n f with clk := k } := rfl

/-- The caravan of a state changed by `modCar`. -/
theorem car?_of_modCar {s : State} {x : Block} {c : Caravan} (hb : s.block? x.id = some x) (hc : x.car? c.n = some c)
    (g : Caravan → Caravan) (h : ∀ d, (g d).n = d.n) : (s.modCar x.id c.n g).car? x.id c.n = some (g c) := by
  rw [car?_state_modCar s x.id c.n g h]
  simp [State.car?, hb, hc]

/-- Pending results of an epoch list with its last item's counts changed. -/
theorem pend_last (es : List Epoch) (f : Epoch → Epoch) (hf : ∀ e, (f e).pend = e.pend) (h : ∀ e ∈ es, e.pend = []) :
    ∀ e ∈ es.dropLast ++ (es.getLast?.map f).toList, e.pend = [] := by
  intro e he
  rcases List.mem_append.mp he with h1 | h1
  · exact h e (List.mem_of_mem_dropLast h1)
  · cases hl : es.getLast? with
    | none => simp [hl] at h1
    | some l =>
      simp [hl] at h1
      subst h1
      rw [hf]
      exact h l (List.mem_of_getLast? hl)

/-- Where nothing is on its way, no result has to land. -/
theorem settleRegs_none (s : State) (b n : Nat) (c : Caravan) (named : List Reg) (hc : s.car? b n = some c)
    (hp : ∀ e ∈ c.epochs, e.pend = []) : s.settleRegs (.car b n) named = s := by
  have h0 : (c.epochs.flatMap fun e => e.pend.filter fun p => named.contains p.reg) = [] := by
    simp only [List.flatMap_eq_nil_iff]
    intro e he
    simp [hp e he]
  simp only [State.settleRegs, hc, h0, List.any_nil, Bool.false_eq_true, if_false, List.isEmpty_nil, if_true]

/-- A hint group that says nothing of scheduling. -/
theorem hintCkp_none {hs : List W32} (h : hintOf hs 0x7F = none) : hintCkp hs = false := by simp [hintCkp, h]
theorem hintYield_none {hs : List W32} (h : hintOf hs 0x7F = none) : hintYield hs = false := by simp [hintYield, h]
theorem cstAfter_none {hs : List W32} (h : hintOf hs 0x7F = none) (x : Word) : cstAfter hs x = x := by simp [cstAfter, h]

/-- Pending results where there are none: no held operation owes one. -/
theorem owesResult_none (s : State) (b n : Nat) (o : Op) (c : Caravan) (hc : s.car? b n = some c) (hp : ∀ e ∈ c.epochs, e.pend = []) :
    s.owesResult b n o = false := by
  have : (c.epochs.any fun e => e.pend.any fun p => o.dst.contains p.reg && p.val == .held) = false := by
    rw [List.any_eq_false]
    intro e he
    simp [hp e he]
  simp only [State.owesResult, hc, this, Bool.and_false]

/-- Closing an epoch changes its caravan's epoch list and the agenda, nothing else. -/
theorem closeEpoch_eq (s : State) (b n : Nat) :
    ∃ (g : Caravan → Caravan) (ag : List Instr), s.closeEpoch b n = { s.modCar b n g with agenda := ag } ∧
      ∀ d, ∃ ep, g d = { d with epochs := ep } := by
  have hid : s.modCar b n id = s := by
    have : ∀ x : Block, x.modCar n id = x := by intro x; simp [Block.modCar]
    simp [State.modCar, State.modBlock, this]
  unfold State.closeEpoch
  split
  · split
    · exact ⟨Caravan.newEpoch, _, rfl, fun d => ⟨_, rfl⟩⟩
    · exact ⟨id, s.agenda, by rw [hid], fun d => ⟨d.epochs, rfl⟩⟩
  · exact ⟨id, s.agenda, by rw [hid], fun d => ⟨d.epochs, rfl⟩⟩

theorem modCar_with (s : State) (b n k : Nat) (ag : List Instr) (f : Caravan → Caravan) :
    ({ s with clk := k, agenda := ag } : State).modCar b n f = { s.modCar b n f with clk := k, agenda := ag } := rfl

/-- A word that asks for no checkpoint, with nothing on its way to a register, retires by changing its caravan alone: the pc
moves, the group is spent, and spacing, the next issue and the epochs are brought up to date. -/
theorem retire_plain (s before : State) (b n : Nat) (c : Caravan) (o : Op) (hs : List W32) (pc : Nat)
    (hc : s.car? b n = some c) (hsched : hintOf hs 0x7F = none) (hp : ∀ e ∈ c.epochs, e.pend = []) :
    ∃ (g : Caravan → Caravan) (ag : List Instr),
      s.retire (.car b n) o hs pc before false = { s.modCar b n g with clk := s.clk + 2, agenda := ag } ∧
      (∀ d, (g d).n = d.n) ∧
      ∃ fx ni ep mu, g c = { c with regs := { c.regs with pc := BitVec.ofNat 64 pc }, hints := [], fix := fx, nextIssue := ni, epochs := ep,
                                    multi := mu } := by
  let p : Caravan → Caravan := fun d => { d.past hs pc (s.fixAfter before (.car b n) o)
    (s.clk + 2 + (if o.st = 3 then 0 else 2 * o.st))
    (vRegs o.dst) with multi := before.multiMark b n o, yieldTo := if hintYield hs then s.clk + 18 else d.yieldTo }
  have hpn : ∀ d, (p d).n = d.n := fun _ => rfl
  let s' := s.slotPast.modCar b n p
  have hc' : s'.car? b n = some (p c) := by
    show (s.slotPast.modCar b n p).car? b n = _
    rw [car?_state_modCar _ _ _ _ hpn]
    show Option.map p (s.car? b n) = _
    rw [hc]; rfl
  have hp' : ∀ e ∈ (p c).epochs, e.pend = [] := pend_last c.epochs _ (fun _ => rfl) hp
  have h1 : s'.owesResult b n o = false := owesResult_none s' b n o (p c) hc' hp'
  have h2 : (if o.st = 3 && !o.multi then s'.settleRegs (.car b n) o.dst else s') = s' := by
    split
    · exact settleRegs_none s' b n (p c) o.dst hc' hp'
    · rfl
  obtain ⟨g, ag, hg, hge⟩ := closeEpoch_eq s' b n
  refine ⟨fun d => g (p d), ag, ?_, ?_, ?_⟩
  · have : s.retire (.car b n) o hs pc before false = s'.closeEpoch b n := by
      have hu : (if (false || s'.owesResult b n o) = true then s'.commitAll b n else s') = s' := by
        rw [h1, Bool.or_false, if_neg Bool.false_ne_true]
      have h3 : s.retire (.car b n) o hs pc before false =
          (fun u : State => (if o.st = 3 && !o.multi then u.settleRegs (.car b n) o.dst else u).closeEpoch b n)
            (if (false || s'.owesResult b n o) = true then s'.commitAll b n else s') := rfl
      rw [h3, hu]
      show (if o.st = 3 && !o.multi then s'.settleRegs (.car b n) o.dst else s').closeEpoch b n = _
      rw [h2]
    rw [this, hg]
    show { (s.slotPast.modCar b n p).modCar b n g with agenda := ag } = _
    rw [modCar_modCar _ _ _ _ _ hpn]
    rfl
  · intro d
    obtain ⟨ep, he⟩ := hge (p d)
    show (g (p d)).n = d.n
    rw [he]
    exact hpn d
  · obtain ⟨ep, he⟩ := hge (p c)
    refine ⟨(p c).fix, (p c).nextIssue, ep, (p c).multi, ?_⟩
    show g (p c) = _
    rw [he]
    simp only [p, Caravan.past, cstAfter_none hsched, hintYield_none hsched, Bool.false_eq_true, if_false]

/-- Adding one item to a list of distinct items adds at most one. -/
theorem addAll_length_le (vs l : List Nat) : (addAll vs l).length ≤ vs.length + l.length := by
  unfold addAll
  induction vs generalizing l with
  | nil => simp
  | cons a vs ih =>
    simp only [List.foldl_cons, List.length_cons]
    refine le_trans (ih _) ?_
    unfold insertNew
    split
    · omega
    · simp only [List.length_cons]; omega

/-- The v registers among an instruction's destinations. -/
theorem checkpointFor_none (s : State) (b n : Nat) (c : Caravan) (o : Op) (hs : List W32) (hc : s.car? b n = some c)
    (hsched : hintOf hs 0x7F = none) (hd : o.dst.length ≤ 1) (hroom : c.shadowed.length < 16) : s.checkpointFor b n o hs = s := by
  unfold State.checkpointFor
  simp only [hc, hintCkp_none hsched, Bool.false_or, decide_eq_true_eq]
  rw [if_neg]
  refine Nat.not_lt.mpr (le_trans (addAll_length_le _ _) ?_)
  have : (vRegs o.dst).length ≤ o.dst.length := List.length_filterMap_le _ _
  omega

/-- Before a word with nothing in its way, nothing is done. -/
theorem prepare_plain {s : State} {x : Block} {c : Caravan} {hs : List W32} (ht : Turn s x c hs) (o : Op)
    (hsched : hintOf hs 0x7F = none) (hd : o.dst.length ≤ 1) : s.prepare s.cur o hs = s := by
  have hc : s.car? x.id c.n = some c := by simp [State.car?, ht.block, ht.car]
  unfold State.prepare
  rw [ht.cur, settleRegs_none s x.id c.n c _ hc ht.settled]
  simp only [checkpointFor_none s x.id c.n c o hs hc hsched hd ht.room]

/-- A group without MOD SV seeds nothing. -/
theorem seeded_none (s : State) (w : Who) {hs : List W32} (h : hintSeed hs = none) : s.seeded w hs = s := by
  cases w <;> simp [State.seeded, h]

/-- With no old value read and nothing seeded, no snapshot is mended. -/
theorem mendSnap_nil (s before : State) (w : Who) {hs : List W32} (h : hintSeed hs = none) : s.mendSnap w [] hs before = s := by
  cases w <;> simp only [State.mendSnap, h, List.isEmpty_nil, Option.isNone_none, Bool.and_self, if_true]
  split <;> rfl

/-- A word whose checks before its operands fail traps, whatever its effect (R36). -/
theorem issue_traps {s : State} {o : Op} {eff : Who → List W32 → State → Res} {t : Trap} (h : (s.statusOf s.cur).isSome)
    (ht : checkIssue s s.cur o = some t) : issue o eff s = .next (s.takeTrap s.cur t) := by
  obtain ⟨x, hx⟩ := Option.isSome_iff_exists.mp h
  simp [issue, hx, ht]

/-- A word of the group that breaks a rule is found before anything else of the word it modifies (R36, R163). -/
theorem checkIssue_badHint (s : State) (w : Who) (o : Op) (i : Nat)
    (h : badHint (hintAccepted o (match w with | .seq _ => true | .car _ _ => false)) [] (s.hintsOf w) 0 = some i) :
    checkIssue s w o = some (illegal 0 ((s.hintsOf w).getD i 0) i) := by
  cases w <;> (simp only at h; simp only [checkIssue, h])

/-- A group's first bad word stands no later than a word that is malformed or of an opcode already seen, and is of no reserved kind. -/
theorem badHint_le (acc : W32 → Bool) (h : W32) (post : List W32) (hr : reservedHint h = false) :
    ∀ (pre : List W32) (seen : List Nat) (i : Nat), (hintFormed h = false ∨ hintOp h ∈ seen ∨ ∃ g ∈ pre, reservedHint g = false ∧ hintOp g = hintOp h) →
      ∃ k g, k ≤ pre.length ∧ (pre ++ [h])[k]? = some g ∧ reservedHint g = false ∧ badHint acc seen (pre ++ h :: post) i = some (i + k)
  | [], seen, i, hb => by
    refine ⟨0, h, Nat.le_refl _, rfl, hr, ?_⟩
    have : (seen.contains (hintOp h) || !(hintFormed h) || !(acc h)) = true := by
      rcases hb with hb | hb | ⟨g, hg, -⟩
      · simp [hb]
      · simp [hb]
      · cases hg
    simp only [List.nil_append, badHint, hr, this, Bool.false_eq_true, if_false, if_true, Nat.add_zero]
  | p :: pre, seen, i, hb => by
    have next : ∀ seen', (hintFormed h = false ∨ hintOp h ∈ seen' ∨ ∃ g ∈ pre, reservedHint g = false ∧ hintOp g = hintOp h) →
        ∃ k g, k ≤ (p :: pre).length ∧ ((p :: pre) ++ [h])[k]? = some g ∧ reservedHint g = false ∧
          badHint acc seen' (pre ++ h :: post) (i + 1) = some (i + k) := by
      intro seen' hb'
      obtain ⟨k, g, hk, hg, hgr, hres⟩ := badHint_le acc h post hr pre seen' (i + 1) hb'
      exact ⟨k + 1, g, Nat.succ_le_succ hk, by simpa using hg, hgr, by rw [hres]; congr 1; omega⟩
    show ∃ k g, _ ∧ _ ∧ _ ∧ (if reservedHint p then badHint acc seen (pre ++ h :: post) (i + 1)
      else if seen.contains (hintOp p) || !(hintFormed p) || !(acc p) then some i
      else badHint acc (hintOp p :: seen) (pre ++ h :: post) (i + 1)) = _
    by_cases hp : reservedHint p = true
    · simp only [hp, if_true]
      refine next seen ?_
      rcases hb with hb | hb | ⟨g, hg, hgr, he⟩
      · exact .inl hb
      · exact .inr (.inl hb)
      · rcases List.mem_cons.mp hg with rfl | hg
        · rw [hp] at hgr; cases hgr
        · exact .inr (.inr ⟨g, hg, hgr, he⟩)
    · have hpf : reservedHint p = false := by simpa using hp
      simp only [hpf, Bool.false_eq_true, if_false]
      by_cases hbad : (seen.contains (hintOp p) || !(hintFormed p) || !(acc p)) = true
      · exact ⟨0, p, Nat.zero_le _, rfl, hpf, by simp only [hbad, if_true, Nat.add_zero]⟩
      · simp only [hbad]
        refine next (hintOp p :: seen) ?_
        rcases hb with hb | hb | ⟨g, hg, hgr, he⟩
        · exact .inl hb
        · exact .inr (.inl (List.mem_cons_of_mem _ hb))
        · rcases List.mem_cons.mp hg with rfl | hg
          · exact .inr (.inl (by rw [he]; exact List.mem_cons_self ..))
          · exact .inr (.inr ⟨g, hg, hgr, he⟩)

/-- The issue of a word where every check passes, nothing stands unsafely spaced and the group seeds nothing: its effect, then its
retirement, with what it has written. It is none that goes on with a wait it has begun. -/
theorem issue_plain {s s3 : State} {hs : List W32} {st : Status} {o : Op} {eff : Who → List W32 → State → Res} {npc : Option Nat} {ck : Bool}
    (hst : s.statusOf s.cur = some st) (hhs : s.hintsOf s.cur = hs) (hfo : s.fixOf s.cur = []) (hseed : hintSeed hs = none)
    (hprep : s.prepare s.cur o hs = s) (hchk : checkIssue s s.cur o = none) (hag : (o.again && (s.phaseOf s.cur).isSome) = false)
    (heff : (if o.perThread || s.condTrue s.cur o.pr (hintNegp hs) then eff s.cur hs s else .ok s none false) = .ok s3 npc ck) :
    ∃ o', issue o eff s = .next ((s3.setStatus s.cur (statusAfter (s3.statusOf s.cur))).retire s.cur o' hs
      (npc.getD (s.pcOf s.cur + 4)) s ck) := by
  have hfree : ({ s with free := s.free + ([] : List Fix).length } : State) = s := rfl
  refine ⟨{ o with
    dst := if (o.perThread || s.condTrue s.cur o.pr (hintNegp hs)) && (!o.perThread || s.lanesWritten s.cur o hs != 0) then o.dst else []
    lanes := s.lanesWritten s.cur o hs }, ?_⟩
  unfold issue
  simp only [hst, hhs, hchk, hprep, hfo, List.filter_nil, chosen, List.zipIdx_nil, List.map_nil, hfree, State.withOld, List.foldr_nil, hag, Bool.or_false,
    State.restoreNew, List.foldl_nil, seeded_none _ _ hseed, mendSnap_nil _ _ _ hseed, heff]

/-- A change of one caravan of a block changes no byte of memory. -/
theorem peek_modCar (s : State) (b n k : Nat) (ag : List Instr) (g : Caravan → Caravan) (l : Loc) :
    ({ s.modCar b n g with clk := k, agenda := ag } : State).peek l = s.peek l := by
  cases l with
  | glob pa => rfl
  | ls b' o =>
    have : ({ s.modCar b n g with clk := k, agenda := ag } : State).block? b' = (s.modBlock b (fun x => x.modCar n g)).block? b' := rfl
    simp only [State.peek, this]
    by_cases h : b' = b
    · subst h
      rw [block?_modBlock s _ (fun y => y.modCar n g) (fun _ => rfl)]
      cases s.block? b' <;> rfl
    · rw [block?_modBlock_other s _ _ (fun y => y.modCar n g) (fun _ => rfl) h]

/-- A state changed in one caravan, its clock and its agenda, as claims describe it. -/
theorem regsBecome_modCar {s : State} {x : Block} {c : Caravan} (hb : s.block? x.id = some x) (hc : x.car? c.n = some c)
    (g : Caravan → Caravan) (hgn : ∀ d, (g d).n = d.n) (k : Nat) (ag : List Instr) (r : CRegs) (fx : List Fix) (ni : Nat) (ep : List Epoch) (mu : Option Multi)
    (hg : g c = { c with regs := { r with pc := c.regs.pc + 4 }, hints := [], fix := fx, nextIssue := ni, epochs := ep, status := .running,
                         multi := mu }) :
    RegsBecome s { s.modCar x.id c.n g with clk := k, agenda := ag } x c r ∧ BytesKept s { s.modCar x.id c.n g with clk := k, agenda := ag } := by
  refine ⟨⟨⟨rfl, ?_⟩, x.modCar c.n g, g c, ?_, ?_, rfl, ?_, ?_, ?_, ?_, ?_⟩, rfl, peek_modCar _ _ _ _ _ _⟩
  · intro b hne
    exact block?_modBlock_other s x.id b _ (fun _ => rfl) hne
  · show (s.modBlock x.id (fun y => y.modCar c.n g)).block? x.id = _
    rw [block?_modBlock s _ (fun y => y.modCar c.n g) (fun _ => rfl), hb]; rfl
  · rw [car?_modCar _ _ _ hgn, hc]; rfl
  · intro n hne
    exact car?_modCar_other x c.n n g hgn hne
  all_goals rw [hg]

/-- The issue of a word of a caravan where every check passes and what it does, if its condition lets it act, is a change of the
caravan's registers: they become `r`, and nothing else changes. -/
theorem issue_car {s : State} {x : Block} {c : Caravan} {hs : List W32} (ht : Turn s x c hs) (o : Op)
    (eff : Who → List W32 → State → Res) (g : Caravan → Caravan) (r : CRegs)
    (hsched : hintOf hs 0x7F = none) (hseed : hintSeed hs = none) (hd : o.dst.length ≤ 1) (hchk : checkIssue s s.cur o = none)
    (hag : o.again = false)
    (heff : (if o.perThread || s.condTrue s.cur o.pr (hintNegp hs) then eff s.cur hs s else .ok s none false) =
      .ok (s.modCar x.id c.n g) none false)
    (hgn : ∀ d, (g d).n = d.n) (hg : g c = { c with regs := r }) :
    ∃ t, issue o eff s = .next t ∧ RegsBecome s t x c r ∧ BytesKept s t := by
  have hc : s.car? x.id c.n = some c := by simp [State.car?, ht.block, ht.car]
  have hso : s.statusOf s.cur = some c.status := by rw [ht.cur]; simp [State.statusOf, hc]
  have hho : s.hintsOf s.cur = hs := by rw [ht.cur]; simp [State.hintsOf, hc, ht.group]
  have hpo : s.pcOf s.cur = c.regs.pc.toNat := by rw [ht.cur]; simp [State.pcOf, hc]
  have hfo : s.fixOf s.cur = [] := by rw [ht.cur]; simp [State.fixOf, hc, ht.spaced]
  obtain ⟨o2, hiss⟩ := issue_plain hso hho hfo hseed (prepare_plain ht o hsched hd) hchk (by rw [hag, Bool.false_and]) heff
  simp only [hpo, Option.getD_none] at hiss
  have hst : statusAfter ((s.modCar x.id c.n g).statusOf s.cur) = .running := by
    rw [ht.cur]
    have : (s.modCar x.id c.n g).statusOf (.car x.id c.n) = some c.status := by
      simp only [State.statusOf]
      rw [car?_state_modCar _ _ _ _ hgn, hc]
      simp [hg]
    rw [this]
    have hl := ht.live
    cases h : c.status with
    | ended => exact absurd h hl
    | running => rfl
    | waiting => rfl
  rw [hst, ht.cur] at hiss
  have h1 : (s.modCar x.id c.n g).setStatus (.car x.id c.n) .running = s.modCar x.id c.n (fun d => { g d with status := .running }) := by
    simp only [State.setStatus]
    rw [modCar_modCar _ _ _ _ _ hgn]
  rw [h1] at hiss
  have hgn' : ∀ d : Caravan, ({ g d with status := .running } : Caravan).n = d.n := hgn
  have hc1 := car?_of_modCar ht.block ht.car (fun d => { g d with status := .running }) hgn'
  obtain ⟨g2, ag, hr, hg2n, fx, ni, ep, mu, hg2⟩ := retire_plain (s.modCar x.id c.n (fun d => { g d with status := .running })) s x.id c.n _
    o2 hs
    (c.regs.pc.toNat + 4) hc1 hsched (by rw [hg]; exact ht.settled)
  rw [hr, modCar_modCar _ _ _ _ _ hgn'] at hiss
  refine ⟨_, hiss, ?_⟩
  refine regsBecome_modCar ht.block ht.car (fun d => g2 { g d with status := .running }) ?_ _ ag r fx ni ep mu ?_
  · intro d
    exact (hg2n _).trans (hgn d)
  · show g2 { g c with status := .running } = _
    rw [hg2, hg]
    have : (BitVec.ofNat 64 (c.regs.pc.toNat + 4) : Word) = c.regs.pc + 4 := by
      apply BitVec.eq_of_toNat_eq; simp
    rw [this]

/-- When the checks before the operand checks pass for a caravan (R36, R147, R152 to R154, R171). -/
theorem checkIssue_car {s : State} {x : Block} {c : Caravan} {hs : List W32} (ht : Turn s x c hs) (o : Op)
    (hh : badHint (hintAccepted o false) [] hs 0 = none) (hok : o.ok = true) (hn : s.namesOk s.cur o = true)
    (hr : o.regs.all (regOk false) = true) (hpr : o.perThread = true ∨ o.pr < 4 ∨ 6 < o.pr) (hrole : o.roleTrap = false)
    (hrole' : (if c.vector then o.vector else o.porter) = true) (hl : o.levels.contains c.plv = true)
    (hv : ∀ k, Reg.v k ∈ o.regs → k < c.vb) : checkIssue s s.cur o = none := by
  have hc : s.car? x.id c.n = some c := by simp [State.car?, ht.block, ht.car]
  have hho : s.hintsOf s.cur = hs := by rw [ht.cur]; simp [State.hintsOf, hc, ht.group]
  have h2 : (!o.perThread && decide (4 ≤ o.pr) && decide (o.pr ≤ 6)) = false := by
    rcases hpr with h | h | h
    · simp [h]
    · have : ¬ 4 ≤ o.pr := by omega
      simp [this]
    · have : ¬ o.pr ≤ 6 := by omega
      simp [this]
  have h3 : (vRegs o.regs).filter (c.vb ≤ ·) = [] := by
    rw [List.filter_eq_nil_iff]
    intro k hm
    have : Reg.v k ∈ o.regs := by
      simp only [vRegs, List.mem_filterMap] at hm
      obtain ⟨r, hr, hk⟩ := hm
      cases r <;> simp at hk
      subst hk; exact hr
    simpa using hv k this
  unfold checkIssue
  rw [hho]
  rw [ht.cur] at hn ⊢
  simp only [hh, hok, hn, hr, h2, hc, hrole, hrole', hl, h3, ht.spaced, Bool.not_true, Bool.or_self,
    Bool.false_and, Bool.false_eq_true, if_false, List.min?_nil, List.find?_nil, Option.map_none, ite_self]

/-! ## Becoming non-speculative -/

/-- The oldest epoch of a caravan that holds nothing commits by changing that caravan alone. -/
theorem commitOldest_quiet (s : State) (b n : Nat) (c : Caravan) (e : Epoch) (es : List Epoch) (hc : s.car? b n = some c)
    (he : c.epochs = e :: es) (ha : e.acts = []) : s.commitOldest b n = s.modCar b n (fun d => d.committed e) := by
  simp only [State.commitOldest, hc, Option.bind_some, he, List.head?_cons, ha, List.foldl_nil]

/-- What commits of epochs without results and held operations leave: registers as they were. -/
theorem committed_quiet (c : Caravan) (e : Epoch) (es : List Epoch) (he : c.epochs = e :: es) (hp : e.pend = []) :
    ∃ rb esc k, c.committed e =
      { c with epochs := if es = [] then [Epoch.start c.regs] else es, rbCur := rb, rbEsc := esc, cst := k } ∧ k &&& ~~~8 = c.cst &&& ~~~8 := by
  refine ⟨if e.target then 0 else c.rbCur, c.rbEsc && !(32 ≤ e.count && es.all (fun x => !x.target)),
    if c.rbEsc && !(32 ≤ e.count && es.all (fun x => !x.target)) then c.cst else c.cst &&& ~~~8, ?_, ?_⟩
  · simp only [Caravan.committed, hp, he, List.filter_nil, List.foldl_nil, List.map_nil, List.tail_cons]
    have : es.map (fun x => ({ x with snap := x.snap } : Epoch)) = es := by simp
    rw [this]
    cases es <;> rfl
  · split
    · rfl
    · rw [BitVec.and_assoc, BitVec.and_self]

/-- To become non-speculative, for a caravan that holds nothing and awaits nothing, changes that caravan alone: one epoch opens, and
its rollback counters and ESC may change (R104, R390, R394). -/
theorem commitAll_quiet (s : State) (b n : Nat) (c : Caravan) (hc : s.car? b n = some c) (hp : ∀ e ∈ c.epochs, e.pend = [])
    (hq : Quiet c) :
    ∃ g : Caravan → Caravan, s.commitAll b n = s.modCar b n g ∧ (∀ d, (g d).n = d.n) ∧
      ∃ rb esc k, g c = { c with epochs := [{ Epoch.start c.snapshot with nobp := c.freshEpoch.nobp }], rbCur := rb, rbEsc := esc, cst := k } ∧ k &&& ~~~8 = c.cst &&& ~~~8 := by
  have key : ∀ (m : Nat) (g : Caravan → Caravan) (rb : Nat) (esc : Bool) (k : Word) (ep : List Epoch),
      (∀ d, (g d).n = d.n) → g c = { c with epochs := ep, rbCur := rb, rbEsc := esc, cst := k } → k &&& ~~~8 = c.cst &&& ~~~8 →
      (∀ e ∈ ep, e.pend = [] ∧ e.acts = []) →
      ∃ g' : Caravan → Caravan, (List.range m).foldl (fun st _ => st.commitOldest b n) (s.modCar b n g) = s.modCar b n g' ∧
        (∀ d, (g' d).n = d.n) ∧ ∃ rb esc k ep, g' c = { c with epochs := ep, rbCur := rb, rbEsc := esc, cst := k } ∧
          k &&& ~~~8 = c.cst &&& ~~~8 := by
    intro m
    induction m with
    | zero => intro g rb esc k ep hn hg hk _; exact ⟨g, rfl, hn, rb, esc, k, ep, hg, hk⟩
    | succ m ih =>
      intro g rb esc k ep hn hg hk hep
      rw [List.range_succ_eq_map, List.foldl_cons, List.foldl_map]
      have hc' : (s.modCar b n g).car? b n = some (g c) := by rw [car?_state_modCar _ _ _ _ hn, hc]; rfl
      cases ep with
      | nil =>
        have : (s.modCar b n g).commitOldest b n = s.modCar b n g := by
          simp only [State.commitOldest, hc', hg, Option.bind_some, List.head?_nil]
        rw [this]
        exact ih g rb esc k [] hn hg hk (by simp)
      | cons e es =>
        have he : (g c).epochs = e :: es := by rw [hg]
        rw [commitOldest_quiet _ b n (g c) e es hc' he (hep e (by simp)).2, modCar_modCar _ _ _ _ _ hn]
        obtain ⟨rb', esc', k', h1, h2⟩ := committed_quiet (g c) e es he (hep e (by simp)).1
        refine ih (fun d => (g d).committed e) rb' esc' k' (if es = [] then [Epoch.start (g c).regs] else es) ?_ ?_ ?_ ?_
        · intro d; exact hn d
        · show (g c).committed e = _
          rw [h1, hg]
        · rw [h2, hg]; exact hk
        · split
          · intro x hx
            simp only [List.mem_singleton] at hx
            subst hx
            exact ⟨rfl, rfl⟩
          · intro x hx; exact hep x (by simp [hx])
  have hid : s.modCar b n id = s := by
    have : ∀ x : Block, x.modCar n id = x := by intro x; simp [Block.modCar]
    simp [State.modCar, State.modBlock, this]
  obtain ⟨g, h1, hn, rb, esc, k, ep, hg, hk⟩ := key c.epochs.length id c.rbCur c.rbEsc c.cst c.epochs (fun _ => rfl) rfl rfl
    (fun e he => ⟨hp e he, hq e he⟩)
  rw [hid] at h1
  refine ⟨fun d => { g d with epochs := [{ Epoch.start (g d).snapshot with nobp := c.freshEpoch.nobp }] }, ?_, hn, rb, esc, k, ?_, hk⟩
  · simp only [State.commitAll, hc]
    rw [h1, modCar_modCar _ _ _ _ _ hn]
  · simp only [hg]
    rfl

/-- A word of a caravan that holds nothing and awaits nothing retires, with a checkpoint after it or not, by changing its caravan
alone. -/
theorem retire_quiet (s before : State) (b n : Nat) (c : Caravan) (o : Op) (hs : List W32) (pc : Nat) (ck : Bool)
    (hc : s.car? b n = some c) (hsched : hintOf hs 0x7F = none) (hp : ∀ e ∈ c.epochs, e.pend = []) (hq : Quiet c) :
    ∃ (g : Caravan → Caravan) (ag : List Instr),
      s.retire (.car b n) o hs pc before ck = { s.modCar b n g with clk := s.clk + 2, agenda := ag } ∧ (∀ d, (g d).n = d.n) ∧
      ∃ fx ni ep rb esc k mu, g c = { c with regs := { c.regs with pc := BitVec.ofNat 64 pc }, hints := [], fix := fx, nextIssue := ni,
                                             epochs := ep, rbCur := rb, rbEsc := esc, cst := k, multi := mu } ∧ k &&& ~~~8 = c.cst &&& ~~~8 := by
  let p : Caravan → Caravan := fun d => { d.past hs pc (s.fixAfter before (.car b n) o)
    (s.clk + 2 + (if o.st = 3 then 0 else 2 * o.st)) (vRegs o.dst) with
    multi := before.multiMark b n o, yieldTo := if hintYield hs then s.clk + 18 else d.yieldTo }
  have hpn : ∀ d, (p d).n = d.n := fun _ => rfl
  let s' := s.slotPast.modCar b n p
  have hc' : s'.car? b n = some (p c) := by
    show (s.slotPast.modCar b n p).car? b n = _
    rw [car?_state_modCar _ _ _ _ hpn]
    show Option.map p (s.car? b n) = _
    rw [hc]; rfl
  have hp' : ∀ e ∈ (p c).epochs, e.pend = [] := pend_last c.epochs _ (fun _ => rfl) hp
  have hq' : Quiet (p c) := by
    intro e he
    rcases List.mem_append.mp he with h1 | h1
    · exact hq e (List.mem_of_mem_dropLast h1)
    · cases hl : c.epochs.getLast? with
      | none => simp [hl] at h1
      | some l =>
        simp [hl] at h1
        subst h1
        exact hq l (List.mem_of_getLast? hl)
  have h1 : s'.owesResult b n o = false := owesResult_none s' b n o (p c) hc' hp'
  have hpc : p c = { c with regs := { c.regs with pc := BitVec.ofNat 64 pc }, hints := [], fix := (p c).fix, nextIssue := (p c).nextIssue, epochs := (p c).epochs, multi := (p c).multi } := by
    show ({ c.past hs pc _ _ _ with multi := before.multiMark b n o, yieldTo := if hintYield hs then s.clk + 18 else c.yieldTo } : Caravan) = _
    simp only [Caravan.past, cstAfter_none hsched, hintYield_none hsched, Bool.false_eq_true, if_false]
    rfl
  have hu : ∃ g : Caravan → Caravan, (if (ck || s'.owesResult b n o) = true then s'.commitAll b n else s') = s'.modCar b n g ∧
      (∀ d, (g d).n = d.n) ∧ (∃ rb esc k ep, g (p c) = { p c with epochs := ep, rbCur := rb, rbEsc := esc, cst := k } ∧
        k &&& ~~~8 = c.cst &&& ~~~8 ∧ ∀ e ∈ ep, e.pend = []) := by
    rw [h1, Bool.or_false]
    have hcst : (p c).cst = c.cst := by rw [hpc]
    cases ck with
    | true =>
      obtain ⟨g, hg, hgn, rb, esc, k, h2, h3⟩ := commitAll_quiet s' b n (p c) hc' hp' hq'
      refine ⟨g, by simpa using hg, hgn, rb, esc, k, _, h2, by rw [h3, hcst], ?_⟩
      intro e he
      simp only [List.mem_singleton] at he
      subst he
      rfl
    | false =>
      have hid : s'.modCar b n id = s' := by
        have : ∀ x : Block, x.modCar n id = x := by intro x; simp [Block.modCar]
        simp [State.modCar, State.modBlock, this]
      exact ⟨id, by rw [hid]; rfl, fun _ => rfl, (p c).rbCur, (p c).rbEsc, (p c).cst, (p c).epochs, rfl, by rw [hcst], hp'⟩
  obtain ⟨g1, hg1, hg1n, rb, esc, k, ep, hg1c, hk, hep⟩ := hu
  have hc2 : (s'.modCar b n g1).car? b n = some (g1 (p c)) := by rw [car?_state_modCar _ _ _ _ hg1n, hc']; rfl
  have h2 : (if o.st = 3 && !o.multi then (s'.modCar b n g1).settleRegs (.car b n) o.dst else s'.modCar b n g1) = s'.modCar b n g1 := by
    split
    · exact settleRegs_none _ b n _ o.dst hc2 (by rw [hg1c]; exact hep)
    · rfl
  obtain ⟨g, ag, hg, hge⟩ := closeEpoch_eq (s'.modCar b n g1) b n
  refine ⟨fun d => g (g1 (p d)), ag, ?_, ?_, ?_⟩
  · have h3 : s.retire (.car b n) o hs pc before ck =
        (fun u : State => (if o.st = 3 && !o.multi then u.settleRegs (.car b n) o.dst else u).closeEpoch b n)
          (if (ck || s'.owesResult b n o) = true then s'.commitAll b n else s') := rfl
    rw [h3, hg1]
    show (if o.st = 3 && !o.multi then (s'.modCar b n g1).settleRegs (.car b n) o.dst else s'.modCar b n g1).closeEpoch b n = _
    rw [h2, hg]
    show { ((s.slotPast.modCar b n p).modCar b n g1).modCar b n g with agenda := ag } = _
    rw [modCar_modCar _ _ _ _ _ hpn, modCar_modCar _ _ _ _ _ (fun d => (hg1n _).trans (hpn d))]
    rfl
  · intro d
    obtain ⟨ep, he⟩ := hge (g1 (p d))
    show (g (g1 (p d))).n = d.n
    rw [he]
    exact (hg1n _).trans (hpn d)
  · obtain ⟨ep', he⟩ := hge (g1 (p c))
    refine ⟨(p c).fix, (p c).nextIssue, ep', rb, esc, k, (p c).multi, ?_, hk⟩
    show g (g1 (p c)) = _
    rw [he, hg1c, hpc]

/-- Two changes of one block are one. -/
theorem modBlock_modBlock (s : State) (b : Nat) (f g : Block → Block) (h : ∀ x, (f x).id = x.id) :
    (s.modBlock b f).modBlock b g = s.modBlock b (fun x => g (f x)) := by
  simp only [State.modBlock, List.map_map]
  congr 1
  apply List.map_congr_left
  intro x _
  by_cases hx : x.id = b
  · simp [Function.comp, hx, h]
  · simp [Function.comp, hx]

/-- The issue of a word of a caravan that holds nothing and awaits nothing, where every check passes and what it does is a change of
its block: but for caravans the block becomes `y'`, the caravan's registers become `r`. -/
theorem issue_block {s : State} {x : Block} {c : Caravan} {hs : List W32} (ht : Turn s x c hs) (o : Op)
    (eff : Who → List W32 → State → Res) (F : Block → Block) (y' : Block) (d : Caravan) (r : CRegs) (ck : Bool) (ag : List Instr)
    (hsched : hintOf hs 0x7F = none) (hseed : hintSeed hs = none) (hd : o.dst.length ≤ 1) (hchk : checkIssue s s.cur o = none)
    (hag : o.again = false)
    (heff : (if o.perThread || s.condTrue s.cur o.pr (hintNegp hs) then eff s.cur hs s else .ok s none false) =
      .ok { s.modBlock x.id F with agenda := ag } none ck)
    (hF : ∀ y, (F y).id = y.id) (hFx : { F x with cars := y'.cars } = y') (hFc : (F x).car? c.n = some d)
    (hFo : ∀ k, k ≠ c.n → (F x).car? k = x.car? k)
    (hdp : ∀ e ∈ d.epochs, e.pend = []) (hdq : Quiet d) (hdr : d.regs = r) (hdc : d.cst &&& ~~~8 = c.cst &&& ~~~8)
    (hdd : { d with regs := c.regs, epochs := c.epochs, rbCur := c.rbCur, rbEsc := c.rbEsc, cst := c.cst } = c) :
    ∃ t, issue o eff s = .next t ∧ BlockBecomes s t x y' c r := by
  have hc : s.car? x.id c.n = some c := by simp [State.car?, ht.block, ht.car]
  have hso : s.statusOf s.cur = some c.status := by rw [ht.cur]; simp [State.statusOf, hc]
  have hho : s.hintsOf s.cur = hs := by rw [ht.cur]; simp [State.hintsOf, hc, ht.group]
  have hpo : s.pcOf s.cur = c.regs.pc.toNat := by rw [ht.cur]; simp [State.pcOf, hc]
  have hfo : s.fixOf s.cur = [] := by rw [ht.cur]; simp [State.fixOf, hc, ht.spaced]
  have hn : d.n = c.n := by rw [← hdd]
  have hst0 : d.status = c.status := by rw [← hdd]
  let u : State := { s.modBlock x.id F with agenda := ag }
  obtain ⟨o2, hiss⟩ := issue_plain hso hho hfo hseed (prepare_plain ht o hsched hd) hchk (by rw [hag, Bool.false_and]) heff
  simp only [hpo, Option.getD_none] at hiss
  have hub : u.block? x.id = some (F x) := by
    show (s.modBlock x.id F).block? x.id = _
    rw [block?_modBlock _ _ _ hF, ht.block]; rfl
  have huc : u.car? x.id c.n = some d := by simp [State.car?, hub, hFc]
  have hst : statusAfter (u.statusOf s.cur) = .running := by
    rw [ht.cur]
    have : u.statusOf (.car x.id c.n) = some c.status := by simp [State.statusOf, huc, hst0]
    rw [this]
    have hl := ht.live
    cases h : c.status with
    | ended => exact absurd h hl
    | running => rfl
    | waiting => rfl
  change issue o eff s = .next ((u.setStatus s.cur (statusAfter (u.statusOf s.cur))).retire s.cur o2 hs (c.regs.pc.toNat + 4) s ck)
    at hiss
  rw [hst, ht.cur] at hiss
  let v : State := u.modCar x.id c.n (fun z => { z with status := .running })
  have hvc : v.car? x.id c.n = some { d with status := .running } := by
    show (u.modCar x.id c.n (fun z => { z with status := .running })).car? x.id c.n = _
    rw [car?_state_modCar u x.id c.n (fun z => { z with status := .running }) (fun _ => rfl), huc]; rfl
  obtain ⟨g, ag2, hr, hgn, fx, ni, ep, rb, esc, k, mu, hg, hk⟩ := retire_quiet v s x.id c.n { d with status := .running } o2 hs
    (c.regs.pc.toNat + 4) ck hvc hsched
    hdp hdq
  have hiss2 : issue o eff s = .next (v.retire (.car x.id c.n) o2 hs (c.regs.pc.toNat + 4) s ck) := hiss
  rw [hr] at hiss2
  refine ⟨_, hiss2, ?_⟩
  have hvm : v.modCar x.id c.n g = { s.modBlock x.id (fun y => ((F y).modCar c.n (fun z => { z with status := .running })).modCar c.n g) with agenda := ag } := by
    show ({ (({ s.modBlock x.id F with agenda := ag } : State).modBlock x.id (fun y => y.modCar c.n (fun z => { z with status := .running }))).modBlock x.id (fun y => y.modCar c.n g) with agenda := ag } : State) = _
    show ({ (((s.modBlock x.id F) : State).modBlock x.id (fun y => y.modCar c.n (fun z => { z with status := .running }))).modBlock x.id (fun y => y.modCar c.n g) with agenda := ag } : State) = _
    rw [modBlock_modBlock s x.id F (fun y => y.modCar c.n (fun z => { z with status := .running })) hF,
      modBlock_modBlock s x.id (fun y => (F y).modCar c.n (fun z => { z with status := .running })) (fun y => y.modCar c.n g) hF]
  rw [hvm]
  refine ⟨⟨rfl, ?_⟩, ((F x).modCar c.n (fun z => { z with status := .running })).modCar c.n g, g { d with status := .running }, ?_, ?_, ?_, ?_, ?_, ?_, ?_, ?_, ?_⟩
  · intro b hne
    exact block?_modBlock_other s x.id b (fun y => ((F y).modCar c.n (fun z => { z with status := .running })).modCar c.n g) hF hne
  · show (s.modBlock x.id (fun y => ((F y).modCar c.n (fun z => { z with status := .running })).modCar c.n g)).block? x.id = _
    rw [block?_modBlock s x.id (fun y => ((F y).modCar c.n (fun z => { z with status := .running })).modCar c.n g) hF, ht.block]; rfl
  · rw [car?_modCar _ _ _ hgn, car?_modCar _ _ (fun z => { z with status := .running }) (fun _ => rfl), hFc]; rfl
  · exact hFx
  · intro m hne
    rw [car?_modCar_other _ c.n m g hgn hne, car?_modCar_other _ c.n m (fun z => { z with status := .running }) (fun _ => rfl) hne]
    exact hFo m hne
  · rw [hg, ← hdr]
    have : (BitVec.ofNat 64 (c.regs.pc.toNat + 4) : Word) = c.regs.pc + 4 := by
      apply BitVec.eq_of_toNat_eq; simp
    rw [this]
  · rw [hg]
  · rw [hg]
  · rw [hg]; exact hk.trans hdc
  · rw [hg, ← hdd]

/-- Where one block alone has changed and its local store is the same, every byte reads as before. -/
theorem bytesKept_of_block {s t : State} {x y : Block} (h : OnlyBlock s t x.id) (hs : s.block? x.id = some x)
    (ht : t.block? x.id = some y) (hl : y.ls = x.ls) : BytesKept s t := by
  have hm : t.mem = s.mem := by have := congrArg State.mem h.rest; simpa using this
  have hf : t.far = s.far := by have := congrArg State.far h.rest; simpa using this
  have hr : t.rekeyed = s.rekeyed := by have := congrArg State.rekeyed h.rest; simpa using this
  refine ⟨hf, ?_⟩
  intro l
  cases l with
  | glob pa => simp only [State.peek, State.memByte, hm, hr]
  | ls b o =>
    by_cases hb : b = x.id
    · subst hb
      simp only [State.peek, hs, ht, hl]
    · simp only [State.peek, h.others b hb]

/-! ## The sequencer -/

theorem seq?_modSeq (s : State) (b : Nat) (g : Sequencer → Sequencer) : (s.modSeq b g).seq? b = (s.seq? b).map g := by
  simp only [State.seq?, State.modSeq]
  rw [block?_modBlock s b (fun x => { x with seq := x.seq.map g }) (fun _ => rfl)]
  cases s.block? b <;> rfl

theorem modSeq_modSeq (s : State) (b : Nat) (f g : Sequencer → Sequencer) : (s.modSeq b f).modSeq b g = s.modSeq b (fun q => g (f q)) := by
  simp only [State.modSeq]
  rw [modBlock_modBlock s b (fun x => { x with seq := x.seq.map f }) (fun x => { x with seq := x.seq.map g }) (fun _ => rfl)]
  congr 1
  funext x
  cases h : x.seq <;> simp

/-- The issue of a word of a sequencer where every check passes and what it does, if its condition lets it act, is a change of its g
registers and conditions. -/
theorem issue_seq {s : State} {x : Block} {q : Sequencer} {hs : List W32} (ht : SeqTurn s x q hs) (o : Op)
    (eff : Who → List W32 → State → Res) (g : Sequencer → Sequencer) (q' : Sequencer) (ck : Bool)
    (hsched : hintOf hs 0x7F = none) (hseed : hintSeed hs = none) (hchk : checkIssue s s.cur o = none)
    (hag : o.again = false)
    (heff : (if o.perThread || s.condTrue s.cur o.pr (hintNegp hs) then eff s.cur hs s else .ok s none false) =
      .ok (s.modSeq x.id g) none ck)
    (hg : g q = { q with g := q'.g, c := q'.c }) :
    ∃ t, issue o eff s = .next t ∧ SeqBecomes s t x q q' ∧ BytesKept s t := by
  have hc : s.seq? x.id = some q := by simp [State.seq?, ht.block, ht.seq]
  have hso : s.statusOf s.cur = some q.status := by rw [ht.cur]; simp [State.statusOf, hc]
  have hho : s.hintsOf s.cur = hs := by rw [ht.cur]; simp [State.hintsOf, hc, ht.group]
  have hpo : s.pcOf s.cur = q.pc.toNat := by rw [ht.cur]; simp [State.pcOf, hc]
  have hfo : s.fixOf s.cur = [] := by rw [ht.cur]; simp [State.fixOf, hc, ht.spaced]
  have hprep : s.prepare s.cur o hs = s := by rw [ht.cur]; rfl
  obtain ⟨o2, hiss⟩ := issue_plain hso hho hfo hseed hprep hchk (by rw [hag, Bool.false_and]) heff
  simp only [hpo, Option.getD_none] at hiss
  have hst : statusAfter ((s.modSeq x.id g).statusOf s.cur) = .running := by
    rw [ht.cur]
    have : (s.modSeq x.id g).statusOf (.seq x.id) = some q.status := by
      simp only [State.statusOf]
      rw [seq?_modSeq, hc]
      simp [hg]
    rw [this]
    have hl := ht.live
    cases h : q.status with
    | ended => exact absurd h hl
    | running => rfl
    | waiting => rfl
  rw [hst, ht.cur] at hiss
  let v : State := s.modSeq x.id (fun z => { g z with status := .running })
  have hv : (s.modSeq x.id g).setStatus (.seq x.id) .running = v := by
    simp only [State.setStatus]
    rw [modSeq_modSeq]
  rw [hv] at hiss
  have hy := hintYield_none hsched
  let G : Sequencer → Sequencer := fun z => { g z with
      status := .running, pc := BitVec.ofNat 64 (q.pc.toNat + 4), hints := [], fix := v.fixAfter s (.seq x.id) o2
      nextIssue := s.clk + 2 + (if o2.st = 3 then 0 else 2 * o2.st) }
  have hret : v.retire (.seq x.id) o2 hs (q.pc.toNat + 4) s ck = { s.modSeq x.id G with clk := s.clk + 2 } := by
    show State.modSeq v.slotPast x.id _ = _
    simp only [hy, Bool.false_eq_true, if_false]
    show { (s.modSeq x.id (fun z => { g z with status := .running })).modSeq x.id _ with clk := s.clk + 2 } = _
    rw [modSeq_modSeq]
    rfl
  rw [hret] at hiss
  have ho : OnlyBlock s { s.modSeq x.id G with clk := s.clk + 2 } x.id :=
    ⟨rfl, fun b hne => block?_modBlock_other s x.id b (fun y => { y with seq := y.seq.map G }) (fun _ => rfl) hne⟩
  have hb : ({ s.modSeq x.id G with clk := s.clk + 2 } : State).block? x.id = some { x with seq := x.seq.map G } := by
    show (s.modBlock x.id (fun y => { y with seq := y.seq.map G })).block? x.id = _
    rw [block?_modBlock s x.id (fun y => { y with seq := y.seq.map G }) (fun _ => rfl), ht.block]; rfl
  have hpc : (BitVec.ofNat 64 (q.pc.toNat + 4) : Word) = q.pc + 4 := by
    apply BitVec.eq_of_toNat_eq; simp
  refine ⟨_, hiss, ⟨ho, _, G q, hb, by simp [ht.seq], rfl, ?_⟩, bytesKept_of_block ho ht.block hb rfl⟩
  simp only [G, hg, hpc, and_self]

end Sys2Proof.Laws
end

