-- ==== Sys2Proof/Laws/Hints.lean ====
section
/-! SUPPORT. What hint groups, as claims write them, say to the instruction after them (R163 to R166). -/
namespace Sys2Proof.Laws
open Sys2Proof Sys2Proof.Machine

theorem mod_sched : ∀ (rm : BitVec 3) (sat neg : Bool), hintOf (modGroup rm sat neg) 0x7F = none := by decide
theorem mod_seed : ∀ (rm : BitVec 3) (sat neg : Bool), hintSeed (modGroup rm sat neg) = none := by decide
theorem mod_negp : ∀ (rm : BitVec 3) (sat neg : Bool), hintNegp (modGroup rm sat neg) = neg := by decide
theorem mod_rm : ∀ (rm : BitVec 3) (sat neg : Bool), hintRm (modGroup rm sat neg) = rm.toNat := by decide
theorem mod_sat : ∀ (rm : BitVec 3) (sat neg : Bool), hintSat (modGroup rm sat neg) = sat := by decide
theorem mod_cp : ∀ (rm : BitVec 3) (sat neg : Bool), hintCp (modGroup rm sat neg) = 0 := by decide
theorem mod_imm : ∀ (rm : BitVec 3) (sat neg : Bool), hintImm (modGroup rm sat neg) = none := by decide

/-- The word IMM as a number. -/
theorem imm_toNat (p : BitVec 25) : (immWord p).toNat = 0x7C * 2 ^ 25 + p.toNat := by
  have hp := p.isLt
  have := Nat.two_pow_add_eq_or_of_lt hp 0x7C
  rw [immWord, BitVec.toNat_append, Nat.shiftLeft_eq]
  rw [Nat.mul_comm] at this
  exact this.symm

theorem imm_op (p : BitVec 25) : hintOp (immWord p) = 0x7C := by
  have hp := p.isLt
  simp only [hintOp, bitsOf, imm_toNat]
  omega

theorem imm_payload (p : BitVec 25) : bitsOf (immWord p).toNat 24 0 = p.toNat := by
  have hp := p.isLt
  simp only [bitsOf, imm_toNat]
  omega

theorem imm_not_reserved (p : BitVec 25) : reservedHint (immWord p) = false := by
  have : (immWord p).extractLsb' 25 7 = 0x7C := by
    apply BitVec.eq_of_toNat_eq
    have hp := p.isLt
    simp only [BitVec.extractLsb'_toNat, imm_toNat, Nat.shiftRight_eq_div_pow]
    show (0x7C * 2 ^ 25 + p.toNat) / 2 ^ 25 % 2 ^ 7 = 0x7C
    omega
  unfold reservedHint
  rw [this]
  rfl

/-- An IMM word before a group says nothing but its payload. -/
theorem imm_cons_other (p : BitVec 25) (hs : List W32) (op : Nat) (h : op ≠ 0x7C) :
    hintOf ((immWord p) :: hs) op = hintOf hs op := by
  have : (0x7C == op) = false := by simp; omega
  simp only [hintOf, List.find?_cons, imm_op, this, Bool.false_and]

theorem imm_cons_imm (p : BitVec 25) (hs : List W32) : hintImm ((immWord p) :: hs) = some p.toNat := by
  simp only [hintImm, hintOf, List.find?_cons, imm_op, imm_not_reserved, BEq.rfl, Bool.not_false, Bool.and_self, Option.map_some, imm_payload]

/-- The group of an I-format or offset form: an IMM word or none, then a NEGP word or none. -/
theorem immMod_sched (p : Option (BitVec 25)) (neg : Bool) : hintOf (immGroup p ++ negpGroup neg) 0x7F = none := by
  cases p with
  | none => exact mod_sched 0 false neg
  | some p => exact (imm_cons_other p _ _ (by decide)).trans (mod_sched 0 false neg)

theorem immMod_seed (p : Option (BitVec 25)) (neg : Bool) : hintSeed (immGroup p ++ negpGroup neg) = none := by
  cases p with
  | none => exact mod_seed 0 false neg
  | some p =>
    have := mod_seed 0 false neg
    unfold hintSeed at *
    show (match hintOf (_ :: negpGroup neg) 0x7E with | some h => _ | none => _) = _
    rw [imm_cons_other p _ _ (by decide)]
    exact this

theorem immMod_negp (p : Option (BitVec 25)) (neg : Bool) : hintNegp (immGroup p ++ negpGroup neg) = neg := by
  cases p with
  | none => exact mod_negp 0 false neg
  | some p =>
    have := mod_negp 0 false neg
    unfold hintNegp at *
    show (match hintOf (_ :: negpGroup neg) 0x7E with | some h => _ | none => _) = _
    rw [imm_cons_other p _ _ (by decide)]
    exact this

theorem immMod_imm (p : Option (BitVec 25)) (neg : Bool) : hintImm (immGroup p ++ negpGroup neg) = p.map BitVec.toNat := by
  cases p with
  | none => exact mod_imm 0 false neg
  | some p => exact imm_cons_imm p _

/-- V as the model computes it is V as claims write it (R150, R164). -/
theorem immValue_eq (p : Option (BitVec 25)) (neg : Bool) (i : BitVec 8) :
    immValue (immGroup p ++ negpGroup neg) i.toNat false = immV p i := by
  have hi := i.isLt
  unfold immValue
  rw [immMod_imm]
  cases p with
  | none =>
    simp only [Option.map_none, immV, BitVec.signExtend, Bool.false_eq_true, if_false]
    congr 1
    simp only [sInt, BitVec.toInt_eq_toNat_cond]
    split <;> split <;> omega
  | some p =>
    have hp := p.isLt
    simp only [Option.map_some, immV, BitVec.signExtend]
    congr 1
    have hn : (p ++ i).toNat = p.toNat * 256 + i.toNat := by
      rw [BitVec.toNat_append, Nat.shiftLeft_eq]
      have := Nat.two_pow_add_eq_or_of_lt hi p.toNat
      rw [Nat.mul_comm] at this
      exact this.symm
    simp only [sInt, BitVec.toInt_eq_toNat_cond, hn]
    split <;> split <;> omega

/-- The same of the offset V of an M-format form (R164, R221). -/
theorem offsetValue_eq (p : Option (BitVec 25)) (neg : Bool) (i : BitVec 6) :
    BitVec.ofInt 64 (offsetValue (immGroup p ++ negpGroup neg) i.toNat) = offV p i := by
  have hi := i.isLt
  unfold offsetValue
  rw [immMod_imm]
  cases p with
  | none =>
    simp only [Option.map_none, offV, BitVec.signExtend]
    congr 1
    simp only [sInt, BitVec.toInt_eq_toNat_cond]
    split <;> split <;> omega
  | some p =>
    have hp := p.isLt
    simp only [Option.map_some, offV, BitVec.signExtend]
    congr 1
    have hn : (p ++ i).toNat = p.toNat * 64 + i.toNat := by
      rw [BitVec.toNat_append, Nat.shiftLeft_eq]
      have := Nat.two_pow_add_eq_or_of_lt hi p.toNat
      rw [Nat.mul_comm] at this
      exact this.symm
    simp only [sInt, BitVec.toInt_eq_toNat_cond, hn]
    split <;> split <;> omega

end Sys2Proof.Laws
end

