-- ==== Sys2Proof/Laws/Memory.lean ====
section
/-! SUPPORT. Memory's laws: every operation keeps the canonical form, a read after a write gives what was written, and a write leaves
every other byte as it was. -/
namespace Sys2Proof.Laws
open Sys2Proof Sys2Proof.Machine

/-- The canonical form, said of the list. -/
theorem wf_iff (m : Memory) : m.wf = true ↔ m.Pairwise (fun a b => a.1 < b.1) ∧ ∀ c ∈ m, c.2 ≠ unlistedByte := by
  induction m with
  | nil => simp [Memory.wf]
  | cons c m ih =>
    cases m with
    | nil => simp [Memory.wf]
    | cons d m =>
      simp only [Memory.wf, Bool.and_eq_true, bne_iff_ne, decide_eq_true_eq, ih, List.pairwise_cons, List.forall_mem_cons]
      constructor
      · rintro ⟨⟨h1, h2⟩, ⟨h3, h4⟩, h5⟩
        exact ⟨⟨⟨h2, fun e he => Nat.lt_trans h2 (h3 e he)⟩, h3, h4⟩, h1, h5⟩
      · rintro ⟨⟨⟨h2, -⟩, h3, h4⟩, h1, h5⟩
        exact ⟨⟨h1, h2⟩, ⟨h3, h4⟩, h5⟩

theorem mem_insert (m : Memory) (x : Nat) (b : Byte) (c : Host.Cell) : c ∈ Memory.insert m x b ↔ c = (x, b) ∨ c ∈ m := by
  induction m with
  | nil => simp [Memory.insert]
  | cons d m ih =>
    simp only [Memory.insert]
    split
    · simp
    · simp only [List.mem_cons, ih]; tauto

theorem wf_filter {m : Memory} (h : m.wf = true) (p : Host.Cell → Bool) : Memory.wf (m.filter p) = true := by
  rw [wf_iff] at h ⊢
  exact ⟨h.1.filter p, fun c hc => h.2 c (List.mem_filter.mp hc).1⟩

theorem wf_insert {m : Memory} (h : m.wf = true) (x : Nat) (b : Byte) (hb : b ≠ unlistedByte) (hx : ∀ c ∈ m, c.1 ≠ x) :
    (Memory.insert m x b).wf = true := by
  rw [wf_iff] at h ⊢
  obtain ⟨h1, h2⟩ := h
  refine ⟨?_, fun c hc => ?_⟩
  · clear h2
    induction m with
    | nil => simp [Memory.insert]
    | cons d m ih =>
      simp only [Memory.insert]
      rw [List.pairwise_cons] at h1
      split
      · rename_i hlt
        refine List.pairwise_cons.mpr ⟨fun c hc => ?_, List.pairwise_cons.mpr h1⟩
        rcases List.mem_cons.mp hc with rfl | hc
        · exact hlt
        · exact Nat.lt_trans hlt (h1.1 c hc)
      · rename_i hlt
        have hd : d.1 ≠ x := hx d (List.mem_cons_self ..)
        refine List.pairwise_cons.mpr ⟨fun c hc => ?_, ih (fun c hc => hx c (List.mem_cons_of_mem _ hc)) h1.2⟩
        rcases (mem_insert m x b c).mp hc with rfl | hc
        · show d.1 < x; omega
        · exact h1.1 c hc
  · rcases (mem_insert m x b c).mp hc with rfl | hc
    · exact hb
    · exact h2 c hc

/-- A write keeps the canonical form. -/
theorem wf_write {m : Memory} (h : m.wf = true) (x : Nat) (b : Byte) : (m.write x b).wf = true := by
  unfold Memory.write
  split
  · exact wf_filter h _
  · rename_i hb
    exact wf_insert (wf_filter h _) x b hb (fun c hc => by simpa using (List.mem_filter.mp hc).2)

theorem wf_writeN {m : Memory} (h : m.wf = true) (x : Nat) (bs : List Byte) : (m.writeN x bs).wf = true := by
  induction bs generalizing m x with
  | nil => exact h
  | cons b bs ih => exact ih (wf_write h x b) (x + 1)

theorem wf_erase {m : Memory} (h : m.wf = true) (lo hi : Nat) : (m.erase lo hi).wf = true := wf_filter h _

theorem read_filter_other (m : Memory) (x y : Nat) (h : y ≠ x) : Memory.read (m.filter (fun c => c.1 != x)) y = m.read y := by
  induction m with
  | nil => rfl
  | cons c m ih =>
    obtain ⟨a, b⟩ := c
    by_cases ha : a = x
    · subst ha
      simp [Memory.read, ih, Ne.symm h]
    · simp [ha, Memory.read, ih]

theorem read_filter_same (m : Memory) (x : Nat) : Memory.read (m.filter (fun c => c.1 != x)) x = unlistedByte := by
  induction m with
  | nil => rfl
  | cons c m ih =>
    obtain ⟨a, b⟩ := c
    by_cases ha : a = x
    · subst ha; simpa using ih
    · simp [ha, Memory.read, ih]

theorem read_insert (m : Memory) (x y : Nat) (b : Byte) (h : ∀ c ∈ m, c.1 ≠ x) :
    (Memory.insert m x b).read y = if x = y then b else m.read y := by
  induction m with
  | nil => simp [Memory.insert, Memory.read]
  | cons d m ih =>
    obtain ⟨a, c⟩ := d
    simp only [Memory.insert]
    split
    · simp [Memory.read]
    · have ha : a ≠ x := h (a, c) (List.mem_cons_self ..)
      simp only [Memory.read, ih (fun e he => h e (List.mem_cons_of_mem _ he))]
      by_cases hy : a = y
      · subst hy; simp [Ne.symm ha]
      · simp [hy]

/-- A read after a write of one byte. -/
theorem read_write (m : Memory) (x y : Nat) (b : Byte) : (m.write x b).read y = if x = y then b else m.read y := by
  unfold Memory.write
  split
  · rename_i hb
    by_cases h : x = y
    · subst h; rw [read_filter_same, if_pos rfl, hb]
    · rw [read_filter_other m x y (Ne.symm h), if_neg h]
  · rw [read_insert _ _ _ _ (fun c hc => by simpa using (List.mem_filter.mp hc).2)]
    by_cases h : x = y
    · simp [h]
    · simp only [h, if_false]; exact read_filter_other m x y (Ne.symm h)

/-- A run of bytes written leaves every byte outside it. -/
theorem read_writeN_other (m : Memory) (x y : Nat) (bs : List Byte) (h : y < x ∨ x + bs.length ≤ y) : (m.writeN x bs).read y = m.read y := by
  induction bs generalizing m x with
  | nil => rfl
  | cons b bs ih =>
    simp only [List.length_cons] at h
    rw [Memory.writeN, ih _ _ (by omega), read_write, if_neg (by omega)]

/-- A run of bytes written reads back. -/
theorem read_writeN (m : Memory) (x i : Nat) (bs : List Byte) (h : i < bs.length) : (m.writeN x bs).read (x + i) = bs[i] := by
  induction bs generalizing m x i with
  | nil => simp at h
  | cons b bs ih =>
    rw [Memory.writeN]
    cases i with
    | zero => rw [read_writeN_other _ _ _ _ (by omega), read_write]; simp
    | succ i =>
      have := ih (m.write x b) (x + 1) i (by simpa using h)
      rw [show x + (i + 1) = x + 1 + i by omega, this]; rfl

theorem readN_writeN (m : Memory) (x : Nat) (bs : List Byte) : (m.writeN x bs).readN x bs.length = bs := by
  apply List.ext_getElem
  · simp [Memory.readN]
  · intro i h1 h2
    simp only [Memory.readN, List.getElem_map, List.getElem_range]
    exact read_writeN m x i bs h2

/-- A range erased reads as unlisted, and nothing else changes. -/
theorem read_erase (m : Memory) (lo hi y : Nat) : (m.erase lo hi).read y = if lo ≤ y ∧ y < hi then unlistedByte else m.read y := by
  unfold Memory.erase
  induction m with
  | nil => simp [Memory.read]
  | cons c m ih =>
    obtain ⟨a, b⟩ := c
    by_cases ha : a < lo ∨ hi ≤ a
    · have : (decide (a < lo) || decide (hi ≤ a)) = true := by simpa using ha
      simp only [List.filter_cons, this, if_true, Memory.read, ih]
      by_cases hy : a = y
      · subst hy; rw [if_pos rfl, if_neg (by omega)]; simp
      · simp [hy]
    · have : (decide (a < lo) || decide (hi ≤ a)) = false := by
        simp only [not_or, Nat.not_lt, Nat.not_le] at ha; simpa using ha
      simp only [List.filter_cons, this, Bool.false_eq_true, if_false, ih, Memory.read]
      by_cases hy : a = y
      · subst hy; rw [if_pos (by omega), if_pos (by omega)]
      · simp [hy]

/-! ## The state's memories -/

theorem memoryOk_reset : MemoryOk State.reset := ⟨rfl, rfl, by decide⟩

/-- A change of a block that keeps its local store's form keeps every memory's. -/
theorem memoryOk_modBlock {s : State} (h : MemoryOk s) (b : Nat) (f : Block → Block) (hf : ∀ x, x.ls.wf = true → (f x).ls.wf = true) :
    MemoryOk (s.modBlock b f) := by
  refine ⟨h.1, h.2.1, fun x hx => ?_⟩
  obtain ⟨y, hy, rfl⟩ := List.mem_map.mp hx
  split
  · exact hf y (h.2.2 y hy)
  · exact h.2.2 y hy

theorem memoryOk_modCar {s : State} (h : MemoryOk s) (b n : Nat) (f : Caravan → Caravan) : MemoryOk (s.modCar b n f) :=
  memoryOk_modBlock h b _ (fun _ hx => hx)

theorem memoryOk_modSeq {s : State} (h : MemoryOk s) (b : Nat) (f : Sequencer → Sequencer) : MemoryOk (s.modSeq b f) :=
  memoryOk_modBlock h b _ (fun _ hx => hx)

theorem memoryOk_writeMem {s : State} (h : MemoryOk s) (a : Nat) (bs : List Byte) : MemoryOk (s.writeMem a bs) :=
  ⟨wf_writeN h.1 a bs, h.2⟩

theorem memoryOk_poke {s : State} (h : MemoryOk s) (l : Loc) (bs : List Byte) : MemoryOk (s.poke l bs) := by
  cases l with
  | glob a => exact memoryOk_writeMem h a bs
  | ls b o => exact memoryOk_modBlock h b _ (fun x hx => wf_writeN hx o bs)

end Sys2Proof.Laws
end

