-- ==== Sys2Proof/Laws/Shapes.lean ====
section
/-! SUPPORT. What the shared shapes of instructions do, said once for caravans and sequencers: their checks pass, and their registers
take the values of the shape's function. -/
namespace Sys2Proof.Laws
open Sys2Proof Sys2Proof.Machine

theorem mod_op : ∀ (rm : BitVec 3) (sat neg : Bool), hintOp (modWord rm sat neg) = 0x7E := by decide
theorem mod_not_reserved : ∀ (rm : BitVec 3) (sat neg : Bool), reservedHint (modWord rm sat neg) = false := by decide
theorem mod_bits_rm : ∀ (rm : BitVec 3) (sat neg : Bool), bitsOf (modWord rm sat neg).toNat 21 19 = rm.toNat := by decide
theorem mod_bits_sat : ∀ (rm : BitVec 3) (sat neg : Bool), (bitsOf (modWord rm sat neg).toNat 18 18 == 0) = !sat := by decide
theorem mod_bits_neg : ∀ (rm : BitVec 3) (sat neg : Bool), (bitsOf (modWord rm sat neg).toNat 17 17 == 0) = !neg := by decide
theorem mod_bits_cp : ∀ (rm : BitVec 3) (sat neg : Bool), bitsOf (modWord rm sat neg).toNat 16 15 = 0 := by decide
theorem mod_bits_sv : ∀ (rm : BitVec 3) (sat neg : Bool), bitsOf (modWord rm sat neg).toNat 14 14 = 0 := by decide
theorem mod_bits_seed : ∀ (rm : BitVec 3) (sat neg : Bool), bitsOf (modWord rm sat neg).toNat 13 8 = 0 := by decide

theorem mod_formed : ∀ (rm : BitVec 3) (sat neg : Bool), rm.toNat ≤ 4 → hintFormed (modWord rm sat neg) = true := by decide

/-- A group of one word, or of two of different opcodes, breaks no rule where each word is well formed and accepted. -/
theorem badHint_one {acc : W32 → Bool} {h : W32} (hr : reservedHint h = false) (hf : hintFormed h = true) (ha : acc h = true) :
    badHint acc [] [h] 0 = none := by simp [badHint, hr, hf, ha]
theorem badHint_two {acc : W32 → Bool} {h k : W32} (hr : reservedHint h = false) (hf : hintFormed h = true) (ha : acc h = true)
    (kr : reservedHint k = false) (kf : hintFormed k = true) (ka : acc k = true) (hd : hintOp h ≠ hintOp k) :
    badHint acc [] [h, k] 0 = none := by simp [badHint, hr, hf, ha, kr, kf, ka, Ne.symm hd]

/-- When an instruction accepts the word MOD. -/
theorem acceptsWord_mod (o : Op) (sq : Bool) (rm : BitVec 3) (sat neg : Bool) (hrm : rm = 0 ∨ (o.rm = true ∧ rm.toNat ≤ 4))
    (hsat : sat = true → o.sat = true) (hneg : neg = true → o.negp = true ∧ o.pr ≠ 7) : hintAccepted o sq (modWord rm sat neg) = true := by
  unfold hintAccepted
  rw [mod_not_reserved, mod_op]
  simp only [mod_bits_rm, mod_bits_sat, mod_bits_neg, mod_bits_cp, mod_bits_sv, mod_bits_seed]
  have h1 : (rm.toNat == 0 || (o.rm && decide (rm.toNat ≤ 4))) = true := by
    rcases hrm with h | ⟨h, h'⟩
    · subst h; rfl
    · simp [h, h']
  have h2 : (!sat || o.sat) = true := by cases sat <;> simp_all
  have h3 : (!neg || (o.negp && o.pr != 7)) = true := by cases neg <;> simp_all
  simp [h1, h2, h3]

/-- When an instruction accepts the words of a group. -/
theorem accepts_mod (o : Op) (sq : Bool) (rm : BitVec 3) (sat neg : Bool) (hrm : rm = 0 ∨ (o.rm = true ∧ rm.toNat ≤ 4))
    (hsat : sat = true → o.sat = true) (hneg : neg = true → o.negp = true ∧ o.pr ≠ 7) :
    badHint (hintAccepted o sq) [] (modGroup rm sat neg) 0 = none := by
  unfold modGroup
  split
  · rfl
  · exact badHint_one (mod_not_reserved ..) (mod_formed rm sat neg (by rcases hrm with h | h <;> simp_all)) (acceptsWord_mod o sq rm sat neg hrm hsat hneg)

theorem accepts_imm (o : Op) (sq : Bool) (p : Option (BitVec 25)) (neg : Bool) (hp : p.isSome = true → o.imm = true)
    (hneg : neg = true → o.negp = true ∧ o.pr ≠ 7) : badHint (hintAccepted o sq) [] (immGroup p ++ negpGroup neg) 0 = none := by
  cases p with
  | none => exact accepts_mod o sq 0 false neg (Or.inl rfl) (by simp) hneg
  | some p =>
    have hi : hintAccepted o sq (immWord p) = true := by
      unfold hintAccepted
      rw [imm_not_reserved, imm_op]
      simpa using hp rfl
    have hf : hintFormed (immWord p) = true := by unfold hintFormed; rw [imm_op]; rfl
    cases neg with
    | false => exact badHint_one (imm_not_reserved p) hf hi
    | true =>
      exact badHint_two (imm_not_reserved p) hf hi (mod_not_reserved 0 false true) (mod_formed 0 false true (by decide))
        (acceptsWord_mod o sq 0 false true (Or.inl rfl) (by simp) hneg) (by rw [imm_op, mod_op]; decide)

/-- A condition of an agent as claims write it. -/
theorem condTrue_car {s : State} {x : Block} {c : Caravan} {hs : List W32} (ht : Turn s x c hs) (pr : BitVec 3) (neg : Bool) :
    s.condTrue s.cur pr.toNat neg = condHolds c.regs.c pr neg := by
  have hc : s.car? x.id c.n = some c := by simp [State.car?, ht.block, ht.car]
  have h7 : (pr.toNat = 7) = (pr = 7) := by
    apply propext
    constructor
    · intro h; exact BitVec.eq_of_toNat_eq h
    · intro h; subst h; rfl
  rw [ht.cur]
  unfold State.condTrue condHolds
  simp only [State.crd, hc, h7]
  by_cases h : pr = 7
  · subst h; rfl
  · have : (pr == 7) = false := by simpa using h
    simp only [h, this, if_false, Bool.false_or]

theorem condTrue_seq {s : State} {x : Block} {q : Sequencer} {hs : List W32} (ht : SeqTurn s x q hs) (pr : BitVec 3) (neg : Bool) :
    s.condTrue s.cur pr.toNat neg = condHolds q.c pr neg := by
  have hc : s.seq? x.id = some q := by simp [State.seq?, ht.block, ht.seq]
  have h7 : (pr.toNat = 7) = (pr = 7) := by
    apply propext
    constructor
    · intro h; exact BitVec.eq_of_toNat_eq h
    · intro h; subst h; rfl
  rw [ht.cur]
  unfold State.condTrue condHolds
  simp only [State.crd, hc, h7]
  by_cases h : pr = 7
  · subst h; rfl
  · have : (pr == 7) = false := by simpa using h
    simp only [h, this, if_false, Bool.false_or]

/-- When the checks before the operand checks pass for a sequencer. -/
theorem checkIssue_seq {s : State} {x : Block} {q : Sequencer} {hs : List W32} (ht : SeqTurn s x q hs) (o : Op)
    (hh : badHint (hintAccepted o true) [] hs 0 = none) (hok : o.ok = true) (hn : s.namesOk s.cur o = true) (hs' : o.seq = true)
    (hr : o.regs.all (regOk true) = true) (hpr : o.perThread = true ∨ o.pr < 4 ∨ 6 < o.pr) : checkIssue s s.cur o = none := by
  have hc : s.seq? x.id = some q := by simp [State.seq?, ht.block, ht.seq]
  have hho : s.hintsOf s.cur = hs := by rw [ht.cur]; simp [State.hintsOf, hc, ht.group]
  have h2 : (!o.perThread && decide (4 ≤ o.pr) && decide (o.pr ≤ 6)) = false := by
    rcases hpr with h | h | h
    · simp [h]
    · have : ¬ 4 ≤ o.pr := by omega
      simp [this]
    · have : ¬ o.pr ≤ 6 := by omega
      simp [this]
  unfold checkIssue
  rw [hho]
  rw [ht.cur] at hn ⊢
  simp only [hh, hok, hn, hr, h2, hc, hs', ht.spaced, Bool.not_true, Bool.or_self, Bool.and_false,
    Bool.false_eq_true, if_false, List.find?_nil, Option.map_none, ite_self]

/-- An instruction that names no barrier, ring or tile names none its block lacks. -/
theorem namesOk_none (s : State) (w : Who) (o : Op) (hb : o.bar = none) (hr : o.ring = none) (ht : o.tile = none) : s.namesOk w o = true := by
  unfold State.namesOk
  split
  · rfl
  · simp [hb, hr, ht]

/-- A per-thread instruction whose effect is on registers alone, under a group that it accepts. -/
theorem regEffect_car {s : State} {x : Block} {c : Caravan} {hs : List W32} (ht : Turn s x c hs) (o : Op)
    (f : Caravan → List W32 → CRegs → CRegs) (hper : o.perThread = true) (hsched : hintOf hs 0x7F = none) (hseed : hintSeed hs = none)
    (hh : badHint (hintAccepted o false) [] hs 0 = none) (hok : o.ok = true) (hb : o.bar = none) (hri : o.ring = none) (hti : o.tile = none)
    (hr : o.regs.all (regOk false) = true) (hrole : o.roleTrap = false) (hrole' : (if c.vector then o.vector else o.porter) = true)
    (hl : o.levels = [0, 1, 2]) (hv : ∀ k, Reg.v k ∈ o.regs → k < c.vb) (hd : o.dst.length ≤ 1)
    (hag : o.again = false := by rfl) :
    ∃ t, issue o (regEffect f) s = .next t ∧ RegsBecome s t x c (f c hs c.regs) ∧ BytesKept s t := by
  have hlev : o.levels.contains c.plv = true := by
    rw [hl]
    have := ht.level
    have h3 : c.plv = 0 ∨ c.plv = 1 ∨ c.plv = 2 := by omega
    rcases h3 with h | h | h <;> rw [h] <;> decide
  refine issue_car ht o (regEffect f) (fun d => { d with regs := f d hs d.regs }) _ hsched hseed hd
    (checkIssue_car ht o hh hok (namesOk_none s _ o hb hri hti) hr (Or.inl hper) hrole hrole' hlev hv) hag ?_ (fun _ => rfl) rfl
  rw [hper, ht.cur]
  rfl

/-- A once-only instruction whose effect is one uniform register, under a group that it accepts, in a caravan: the register takes
the value where the condition holds. -/
theorem uniform_car {s : State} {x : Block} {c : Caravan} {hs : List W32} (ht : Turn s x c hs) (o : Op) (pr : BitVec 3) (neg : Bool)
    (eff : Who → List W32 → State → Res) (g : Caravan → Caravan) (r : CRegs)
    (hper : o.perThread = false) (hopr : o.pr = pr.toNat) (hcond : condOk pr neg) (hn : hintNegp hs = neg)
    (hsched : hintOf hs 0x7F = none) (hseed : hintSeed hs = none)
    (hh : badHint (hintAccepted o false) [] hs 0 = none) (hok : o.ok = true) (hb : o.bar = none) (hri : o.ring = none) (hti : o.tile = none)
    (hr : o.regs.all (regOk false) = true) (hrole : o.roleTrap = false) (hrole' : (if c.vector then o.vector else o.porter) = true)
    (hl : o.levels = [0, 1, 2]) (hv : ∀ k, Reg.v k ∉ o.regs) (hd : o.dst.length ≤ 1)
    (heff : eff s.cur hs s = .ok (s.modCar x.id c.n g) none false) (hgn : ∀ d, (g d).n = d.n) (hg : g c = { c with regs := r })
    (hag : o.again = false := by rfl) :
    ∃ t, issue o eff s = .next t ∧ RegsBecome s t x c (if condHolds c.regs.c pr neg then r else c.regs) ∧ BytesKept s t := by
  have hlev : o.levels.contains c.plv = true := by
    rw [hl]
    have := ht.level
    have h3 : c.plv = 0 ∨ c.plv = 1 ∨ c.plv = 2 := by omega
    rcases h3 with h | h | h <;> rw [h] <;> decide
  have hpr : o.perThread = true ∨ o.pr < 4 ∨ 6 < o.pr := by
    rcases hcond.1 with h | h
    · right; right; rw [hopr, h]; decide
    · right; left; rw [hopr]; exact h
  have hchk := checkIssue_car ht o hh hok (namesOk_none s _ o hb hri hti) hr hpr hrole hrole' hlev (fun k hk => absurd hk (hv k))
  have hct := condTrue_car ht pr neg
  cases hcd : condHolds c.regs.c pr neg with
  | true =>
    refine issue_car ht o eff g r hsched hseed hd hchk hag ?_ hgn hg
    rw [hn, hopr, hct, hcd, hper]
    exact heff
  | false =>
    have hid : s.modCar x.id c.n id = s := by
      have : ∀ y : Block, y.modCar c.n id = y := by intro y; simp [Block.modCar]
      simp [State.modCar, State.modBlock, this]
    refine issue_car ht o eff id c.regs hsched hseed hd hchk hag ?_ (fun _ => rfl) rfl
    rw [hn, hopr, hct, hcd, hper, hid]
    rfl

/-- The same in a sequencer. -/
theorem uniform_seq {s : State} {x : Block} {q : Sequencer} {hs : List W32} (ht : SeqTurn s x q hs) (o : Op) (pr : BitVec 3) (neg : Bool)
    (eff : Who → List W32 → State → Res) (g : Sequencer → Sequencer) (q' : Sequencer)
    (hper : o.perThread = false) (hopr : o.pr = pr.toNat) (hcond : condOk pr neg) (hn : hintNegp hs = neg) (hsched : hintOf hs 0x7F = none) (hseed : hintSeed hs = none)
    (hh : badHint (hintAccepted o true) [] hs 0 = none) (hok : o.ok = true) (hb : o.bar = none) (hri : o.ring = none) (hti : o.tile = none)
    (hs' : o.seq = true) (hr : o.regs.all (regOk true) = true)
    (heff : eff s.cur hs s = .ok (s.modSeq x.id g) none false) (hg : g q = { q with g := q'.g, c := q'.c })
    (hag : o.again = false := by rfl) :
    ∃ t, issue o eff s = .next t ∧ SeqBecomes s t x q (if condHolds q.c pr neg then q' else q) ∧ BytesKept s t := by
  have hpr : o.perThread = true ∨ o.pr < 4 ∨ 6 < o.pr := by
    rcases hcond.1 with h | h
    · right; right; rw [hopr, h]; decide
    · right; left; rw [hopr]; exact h
  have hchk := checkIssue_seq ht o hh hok (namesOk_none s _ o hb hri hti) hs' hr hpr
  have hct := condTrue_seq ht pr neg
  cases hcd : condHolds q.c pr neg with
  | true =>
    refine issue_seq ht o eff g q' false hsched hseed hchk hag ?_ hg
    rw [hn, hopr, hct, hcd, hper]
    exact heff
  | false =>
    have hid : s.modSeq x.id id = s := by
      simp [State.modSeq, State.modBlock]
    refine issue_seq ht o eff id q false hsched hseed hchk hag ?_ rfl
    rw [hn, hopr, hct, hcd, hper, hid]
    rfl

/-- Uniform registers of the agent whose turn it is. -/
theorem urd_car {s : State} {x : Block} {c : Caravan} {hs : List W32} (ht : Turn s x c hs) (r : Nat) : s.urd s.cur r = c.regs.rd c.plv r := by
  have hc : s.car? x.id c.n = some c := by simp [State.car?, ht.block, ht.car]
  rw [ht.cur]; simp [State.urd, hc]
theorem urd_seq {s : State} {x : Block} {q : Sequencer} {hs : List W32} (ht : SeqTurn s x q hs) (r : Nat) : s.urd s.cur r = q.rd r := by
  have hc : s.seq? x.id = some q := by simp [State.seq?, ht.block, ht.seq]
  rw [ht.cur]; simp [State.urd, hc]

end Sys2Proof.Laws
end

