-- ==== Sys2Proof/Laws/State.lean ====
section
/-! SUPPORT. What each update of one part of the state leaves as it was, a lemma for each field, so that no later proof unfolds a
record update. -/
namespace Sys2Proof.Laws
open Sys2Proof Sys2Proof.Machine

variable (s : State)

section
variable (b : Nat) (f : Block → Block)
@[simp] theorem modBlock_grade : (s.modBlock b f).grade = s.grade := rfl
@[simp] theorem modBlock_uppers : (s.modBlock b f).uppers = s.uppers := rfl
@[simp] theorem modBlock_upper : (s.modBlock b f).upper = s.upper := rfl
@[simp] theorem modBlock_dieen : (s.modBlock b f).dieen = s.dieen := rfl
@[simp] theorem modBlock_serial : (s.modBlock b f).serial = s.serial := rfl
@[simp] theorem modBlock_mypkg : (s.modBlock b f).mypkg = s.mypkg := rfl
@[simp] theorem modBlock_mypod : (s.modBlock b f).mypod = s.mypod := rfl
@[simp] theorem modBlock_mem : (s.modBlock b f).mem = s.mem := rfl
@[simp] theorem modBlock_far : (s.modBlock b f).far = s.far := rfl
@[simp] theorem modBlock_poison : (s.modBlock b f).poison = s.poison := rfl
@[simp] theorem modBlock_rekeyed : (s.modBlock b f).rekeyed = s.rekeyed := rfl
@[simp] theorem modBlock_dir : (s.modBlock b f).dir = s.dir := rfl
@[simp] theorem modBlock_cores : (s.modBlock b f).cores = s.cores := rfl
@[simp] theorem modBlock_saved : (s.modBlock b f).saved = s.saved := rfl
@[simp] theorem modBlock_launches : (s.modBlock b f).launches = s.launches := rfl
@[simp] theorem modBlock_bundles : (s.modBlock b f).bundles = s.bundles := rfl
@[simp] theorem modBlock_bundleReqs : (s.modBlock b f).bundleReqs = s.bundleReqs := rfl
@[simp] theorem modBlock_bundleNext : (s.modBlock b f).bundleNext = s.bundleNext := rfl
@[simp] theorem modBlock_vfs : (s.modBlock b f).vfs = s.vfs := rfl
@[simp] theorem modBlock_tenants : (s.modBlock b f).tenants = s.tenants := rfl
@[simp] theorem modBlock_ports : (s.modBlock b f).ports = s.ports := rfl
@[simp] theorem modBlock_streams : (s.modBlock b f).streams = s.streams := rfl
@[simp] theorem modBlock_ik : (s.modBlock b f).ik = s.ik := rfl
@[simp] theorem modBlock_fw : (s.modBlock b f).fw = s.fw := rfl
@[simp] theorem modBlock_links : (s.modBlock b f).links = s.links := rfl
@[simp] theorem modBlock_incarnations : (s.modBlock b f).incarnations = s.incarnations := rfl
@[simp] theorem modBlock_fenced : (s.modBlock b f).fenced = s.fenced := rfl
@[simp] theorem modBlock_responses : (s.modBlock b f).responses = s.responses := rfl
@[simp] theorem modBlock_nacked : (s.modBlock b f).nacked = s.nacked := rfl
@[simp] theorem modBlock_cohLog : (s.modBlock b f).cohLog = s.cohLog := rfl
@[simp] theorem modBlock_pf : (s.modBlock b f).pf = s.pf := rfl
@[simp] theorem modBlock_globalWrites : (s.modBlock b f).globalWrites = s.globalWrites := rfl
@[simp] theorem modBlock_retiring : (s.modBlock b f).retiring = s.retiring := rfl
@[simp] theorem modBlock_hostReply : (s.modBlock b f).hostReply = s.hostReply := rfl
@[simp] theorem modBlock_cxl : (s.modBlock b f).cxl = s.cxl := rfl
@[simp] theorem modBlock_sliceHolder : (s.modBlock b f).sliceHolder = s.sliceHolder := rfl
@[simp] theorem modBlock_sliceOn : (s.modBlock b f).sliceOn = s.sliceOn := rfl
@[simp] theorem modBlock_sliceStart : (s.modBlock b f).sliceStart = s.sliceStart := rfl
@[simp] theorem modBlock_gateCap : (s.modBlock b f).gateCap = s.gateCap := rfl
@[simp] theorem modBlock_gateHot : (s.modBlock b f).gateHot = s.gateHot := rfl
@[simp] theorem modBlock_energyWin : (s.modBlock b f).energyWin = s.energyWin := rfl
@[simp] theorem modBlock_samples : (s.modBlock b f).samples = s.samples := rfl
@[simp] theorem modBlock_polls : (s.modBlock b f).polls = s.polls := rfl
@[simp] theorem modBlock_meters : (s.modBlock b f).meters = s.meters := rfl
@[simp] theorem modBlock_steward : (s.modBlock b f).steward = s.steward := rfl
@[simp] theorem modBlock_clk : (s.modBlock b f).clk = s.clk := rfl
@[simp] theorem modBlock_ptpSec : (s.modBlock b f).ptpSec = s.ptpSec := rfl
@[simp] theorem modBlock_ptpNs : (s.modBlock b f).ptpNs = s.ptpNs := rfl
@[simp] theorem modBlock_ptpClk : (s.modBlock b f).ptpClk = s.ptpClk := rfl
@[simp] theorem modBlock_agenda : (s.modBlock b f).agenda = s.agenda := rfl
@[simp] theorem modBlock_turn : (s.modBlock b f).turn = s.turn := rfl
@[simp] theorem modBlock_cur : (s.modBlock b f).cur = s.cur := rfl
@[simp] theorem modBlock_nextId : (s.modBlock b f).nextId = s.nextId := rfl
@[simp] theorem modBlock_free : (s.modBlock b f).free = s.free := rfl
end

section
variable (b n : Nat) (f : Caravan → Caravan)
@[simp] theorem modCar_grade : (s.modCar b n f).grade = s.grade := rfl
@[simp] theorem modCar_uppers : (s.modCar b n f).uppers = s.uppers := rfl
@[simp] theorem modCar_upper : (s.modCar b n f).upper = s.upper := rfl
@[simp] theorem modCar_dieen : (s.modCar b n f).dieen = s.dieen := rfl
@[simp] theorem modCar_serial : (s.modCar b n f).serial = s.serial := rfl
@[simp] theorem modCar_mypkg : (s.modCar b n f).mypkg = s.mypkg := rfl
@[simp] theorem modCar_mypod : (s.modCar b n f).mypod = s.mypod := rfl
@[simp] theorem modCar_mem : (s.modCar b n f).mem = s.mem := rfl
@[simp] theorem modCar_far : (s.modCar b n f).far = s.far := rfl
@[simp] theorem modCar_poison : (s.modCar b n f).poison = s.poison := rfl
@[simp] theorem modCar_rekeyed : (s.modCar b n f).rekeyed = s.rekeyed := rfl
@[simp] theorem modCar_dir : (s.modCar b n f).dir = s.dir := rfl
@[simp] theorem modCar_cores : (s.modCar b n f).cores = s.cores := rfl
@[simp] theorem modCar_saved : (s.modCar b n f).saved = s.saved := rfl
@[simp] theorem modCar_launches : (s.modCar b n f).launches = s.launches := rfl
@[simp] theorem modCar_bundles : (s.modCar b n f).bundles = s.bundles := rfl
@[simp] theorem modCar_bundleReqs : (s.modCar b n f).bundleReqs = s.bundleReqs := rfl
@[simp] theorem modCar_bundleNext : (s.modCar b n f).bundleNext = s.bundleNext := rfl
@[simp] theorem modCar_vfs : (s.modCar b n f).vfs = s.vfs := rfl
@[simp] theorem modCar_tenants : (s.modCar b n f).tenants = s.tenants := rfl
@[simp] theorem modCar_ports : (s.modCar b n f).ports = s.ports := rfl
@[simp] theorem modCar_streams : (s.modCar b n f).streams = s.streams := rfl
@[simp] theorem modCar_ik : (s.modCar b n f).ik = s.ik := rfl
@[simp] theorem modCar_fw : (s.modCar b n f).fw = s.fw := rfl
@[simp] theorem modCar_links : (s.modCar b n f).links = s.links := rfl
@[simp] theorem modCar_incarnations : (s.modCar b n f).incarnations = s.incarnations := rfl
@[simp] theorem modCar_fenced : (s.modCar b n f).fenced = s.fenced := rfl
@[simp] theorem modCar_responses : (s.modCar b n f).responses = s.responses := rfl
@[simp] theorem modCar_nacked : (s.modCar b n f).nacked = s.nacked := rfl
@[simp] theorem modCar_cohLog : (s.modCar b n f).cohLog = s.cohLog := rfl
@[simp] theorem modCar_pf : (s.modCar b n f).pf = s.pf := rfl
@[simp] theorem modCar_globalWrites : (s.modCar b n f).globalWrites = s.globalWrites := rfl
@[simp] theorem modCar_retiring : (s.modCar b n f).retiring = s.retiring := rfl
@[simp] theorem modCar_hostReply : (s.modCar b n f).hostReply = s.hostReply := rfl
@[simp] theorem modCar_cxl : (s.modCar b n f).cxl = s.cxl := rfl
@[simp] theorem modCar_sliceHolder : (s.modCar b n f).sliceHolder = s.sliceHolder := rfl
@[simp] theorem modCar_sliceOn : (s.modCar b n f).sliceOn = s.sliceOn := rfl
@[simp] theorem modCar_sliceStart : (s.modCar b n f).sliceStart = s.sliceStart := rfl
@[simp] theorem modCar_gateCap : (s.modCar b n f).gateCap = s.gateCap := rfl
@[simp] theorem modCar_gateHot : (s.modCar b n f).gateHot = s.gateHot := rfl
@[simp] theorem modCar_energyWin : (s.modCar b n f).energyWin = s.energyWin := rfl
@[simp] theorem modCar_samples : (s.modCar b n f).samples = s.samples := rfl
@[simp] theorem modCar_polls : (s.modCar b n f).polls = s.polls := rfl
@[simp] theorem modCar_meters : (s.modCar b n f).meters = s.meters := rfl
@[simp] theorem modCar_steward : (s.modCar b n f).steward = s.steward := rfl
@[simp] theorem modCar_ptpSec : (s.modCar b n f).ptpSec = s.ptpSec := rfl
@[simp] theorem modCar_ptpNs : (s.modCar b n f).ptpNs = s.ptpNs := rfl
@[simp] theorem modCar_ptpClk : (s.modCar b n f).ptpClk = s.ptpClk := rfl
@[simp] theorem modCar_agenda : (s.modCar b n f).agenda = s.agenda := rfl
@[simp] theorem modCar_turn : (s.modCar b n f).turn = s.turn := rfl
@[simp] theorem modCar_cur : (s.modCar b n f).cur = s.cur := rfl
@[simp] theorem modCar_nextId : (s.modCar b n f).nextId = s.nextId := rfl
@[simp] theorem modCar_free : (s.modCar b n f).free = s.free := rfl
end

section
variable (b : Nat) (f : Sequencer → Sequencer)
@[simp] theorem modSeq_grade : (s.modSeq b f).grade = s.grade := rfl
@[simp] theorem modSeq_uppers : (s.modSeq b f).uppers = s.uppers := rfl
@[simp] theorem modSeq_upper : (s.modSeq b f).upper = s.upper := rfl
@[simp] theorem modSeq_dieen : (s.modSeq b f).dieen = s.dieen := rfl
@[simp] theorem modSeq_serial : (s.modSeq b f).serial = s.serial := rfl
@[simp] theorem modSeq_mypkg : (s.modSeq b f).mypkg = s.mypkg := rfl
@[simp] theorem modSeq_mypod : (s.modSeq b f).mypod = s.mypod := rfl
@[simp] theorem modSeq_mem : (s.modSeq b f).mem = s.mem := rfl
@[simp] theorem modSeq_far : (s.modSeq b f).far = s.far := rfl
@[simp] theorem modSeq_poison : (s.modSeq b f).poison = s.poison := rfl
@[simp] theorem modSeq_rekeyed : (s.modSeq b f).rekeyed = s.rekeyed := rfl
@[simp] theorem modSeq_dir : (s.modSeq b f).dir = s.dir := rfl
@[simp] theorem modSeq_cores : (s.modSeq b f).cores = s.cores := rfl
@[simp] theorem modSeq_saved : (s.modSeq b f).saved = s.saved := rfl
@[simp] theorem modSeq_launches : (s.modSeq b f).launches = s.launches := rfl
@[simp] theorem modSeq_bundles : (s.modSeq b f).bundles = s.bundles := rfl
@[simp] theorem modSeq_bundleReqs : (s.modSeq b f).bundleReqs = s.bundleReqs := rfl
@[simp] theorem modSeq_bundleNext : (s.modSeq b f).bundleNext = s.bundleNext := rfl
@[simp] theorem modSeq_vfs : (s.modSeq b f).vfs = s.vfs := rfl
@[simp] theorem modSeq_tenants : (s.modSeq b f).tenants = s.tenants := rfl
@[simp] theorem modSeq_ports : (s.modSeq b f).ports = s.ports := rfl
@[simp] theorem modSeq_streams : (s.modSeq b f).streams = s.streams := rfl
@[simp] theorem modSeq_ik : (s.modSeq b f).ik = s.ik := rfl
@[simp] theorem modSeq_fw : (s.modSeq b f).fw = s.fw := rfl
@[simp] theorem modSeq_links : (s.modSeq b f).links = s.links := rfl
@[simp] theorem modSeq_incarnations : (s.modSeq b f).incarnations = s.incarnations := rfl
@[simp] theorem modSeq_fenced : (s.modSeq b f).fenced = s.fenced := rfl
@[simp] theorem modSeq_responses : (s.modSeq b f).responses = s.responses := rfl
@[simp] theorem modSeq_nacked : (s.modSeq b f).nacked = s.nacked := rfl
@[simp] theorem modSeq_cohLog : (s.modSeq b f).cohLog = s.cohLog := rfl
@[simp] theorem modSeq_pf : (s.modSeq b f).pf = s.pf := rfl
@[simp] theorem modSeq_globalWrites : (s.modSeq b f).globalWrites = s.globalWrites := rfl
@[simp] theorem modSeq_retiring : (s.modSeq b f).retiring = s.retiring := rfl
@[simp] theorem modSeq_hostReply : (s.modSeq b f).hostReply = s.hostReply := rfl
@[simp] theorem modSeq_cxl : (s.modSeq b f).cxl = s.cxl := rfl
@[simp] theorem modSeq_sliceHolder : (s.modSeq b f).sliceHolder = s.sliceHolder := rfl
@[simp] theorem modSeq_sliceOn : (s.modSeq b f).sliceOn = s.sliceOn := rfl
@[simp] theorem modSeq_sliceStart : (s.modSeq b f).sliceStart = s.sliceStart := rfl
@[simp] theorem modSeq_gateCap : (s.modSeq b f).gateCap = s.gateCap := rfl
@[simp] theorem modSeq_gateHot : (s.modSeq b f).gateHot = s.gateHot := rfl
@[simp] theorem modSeq_energyWin : (s.modSeq b f).energyWin = s.energyWin := rfl
@[simp] theorem modSeq_samples : (s.modSeq b f).samples = s.samples := rfl
@[simp] theorem modSeq_polls : (s.modSeq b f).polls = s.polls := rfl
@[simp] theorem modSeq_meters : (s.modSeq b f).meters = s.meters := rfl
@[simp] theorem modSeq_steward : (s.modSeq b f).steward = s.steward := rfl
@[simp] theorem modSeq_clk : (s.modSeq b f).clk = s.clk := rfl
@[simp] theorem modSeq_ptpSec : (s.modSeq b f).ptpSec = s.ptpSec := rfl
@[simp] theorem modSeq_ptpNs : (s.modSeq b f).ptpNs = s.ptpNs := rfl
@[simp] theorem modSeq_ptpClk : (s.modSeq b f).ptpClk = s.ptpClk := rfl
@[simp] theorem modSeq_agenda : (s.modSeq b f).agenda = s.agenda := rfl
@[simp] theorem modSeq_turn : (s.modSeq b f).turn = s.turn := rfl
@[simp] theorem modSeq_cur : (s.modSeq b f).cur = s.cur := rfl
@[simp] theorem modSeq_nextId : (s.modSeq b f).nextId = s.nextId := rfl
@[simp] theorem modSeq_free : (s.modSeq b f).free = s.free := rfl
end

section
variable (c : Nat) (f : CoreSt → CoreSt)
@[simp] theorem modCore_grade : (s.modCore c f).grade = s.grade := rfl
@[simp] theorem modCore_uppers : (s.modCore c f).uppers = s.uppers := rfl
@[simp] theorem modCore_upper : (s.modCore c f).upper = s.upper := rfl
@[simp] theorem modCore_dieen : (s.modCore c f).dieen = s.dieen := rfl
@[simp] theorem modCore_serial : (s.modCore c f).serial = s.serial := rfl
@[simp] theorem modCore_mypkg : (s.modCore c f).mypkg = s.mypkg := rfl
@[simp] theorem modCore_mypod : (s.modCore c f).mypod = s.mypod := rfl
@[simp] theorem modCore_mem : (s.modCore c f).mem = s.mem := rfl
@[simp] theorem modCore_far : (s.modCore c f).far = s.far := rfl
@[simp] theorem modCore_poison : (s.modCore c f).poison = s.poison := rfl
@[simp] theorem modCore_rekeyed : (s.modCore c f).rekeyed = s.rekeyed := rfl
@[simp] theorem modCore_dir : (s.modCore c f).dir = s.dir := rfl
@[simp] theorem modCore_blocks : (s.modCore c f).blocks = s.blocks := rfl
@[simp] theorem modCore_saved : (s.modCore c f).saved = s.saved := rfl
@[simp] theorem modCore_launches : (s.modCore c f).launches = s.launches := rfl
@[simp] theorem modCore_bundles : (s.modCore c f).bundles = s.bundles := rfl
@[simp] theorem modCore_bundleReqs : (s.modCore c f).bundleReqs = s.bundleReqs := rfl
@[simp] theorem modCore_bundleNext : (s.modCore c f).bundleNext = s.bundleNext := rfl
@[simp] theorem modCore_vfs : (s.modCore c f).vfs = s.vfs := rfl
@[simp] theorem modCore_tenants : (s.modCore c f).tenants = s.tenants := rfl
@[simp] theorem modCore_ports : (s.modCore c f).ports = s.ports := rfl
@[simp] theorem modCore_streams : (s.modCore c f).streams = s.streams := rfl
@[simp] theorem modCore_ik : (s.modCore c f).ik = s.ik := rfl
@[simp] theorem modCore_fw : (s.modCore c f).fw = s.fw := rfl
@[simp] theorem modCore_links : (s.modCore c f).links = s.links := rfl
@[simp] theorem modCore_incarnations : (s.modCore c f).incarnations = s.incarnations := rfl
@[simp] theorem modCore_fenced : (s.modCore c f).fenced = s.fenced := rfl
@[simp] theorem modCore_responses : (s.modCore c f).responses = s.responses := rfl
@[simp] theorem modCore_nacked : (s.modCore c f).nacked = s.nacked := rfl
@[simp] theorem modCore_cohLog : (s.modCore c f).cohLog = s.cohLog := rfl
@[simp] theorem modCore_pf : (s.modCore c f).pf = s.pf := rfl
@[simp] theorem modCore_globalWrites : (s.modCore c f).globalWrites = s.globalWrites := rfl
@[simp] theorem modCore_retiring : (s.modCore c f).retiring = s.retiring := rfl
@[simp] theorem modCore_hostReply : (s.modCore c f).hostReply = s.hostReply := rfl
@[simp] theorem modCore_cxl : (s.modCore c f).cxl = s.cxl := rfl
@[simp] theorem modCore_sliceHolder : (s.modCore c f).sliceHolder = s.sliceHolder := rfl
@[simp] theorem modCore_sliceOn : (s.modCore c f).sliceOn = s.sliceOn := rfl
@[simp] theorem modCore_sliceStart : (s.modCore c f).sliceStart = s.sliceStart := rfl
@[simp] theorem modCore_gateCap : (s.modCore c f).gateCap = s.gateCap := rfl
@[simp] theorem modCore_gateHot : (s.modCore c f).gateHot = s.gateHot := rfl
@[simp] theorem modCore_energyWin : (s.modCore c f).energyWin = s.energyWin := rfl
@[simp] theorem modCore_samples : (s.modCore c f).samples = s.samples := rfl
@[simp] theorem modCore_polls : (s.modCore c f).polls = s.polls := rfl
@[simp] theorem modCore_meters : (s.modCore c f).meters = s.meters := rfl
@[simp] theorem modCore_steward : (s.modCore c f).steward = s.steward := rfl
@[simp] theorem modCore_clk : (s.modCore c f).clk = s.clk := rfl
@[simp] theorem modCore_ptpSec : (s.modCore c f).ptpSec = s.ptpSec := rfl
@[simp] theorem modCore_ptpNs : (s.modCore c f).ptpNs = s.ptpNs := rfl
@[simp] theorem modCore_ptpClk : (s.modCore c f).ptpClk = s.ptpClk := rfl
@[simp] theorem modCore_agenda : (s.modCore c f).agenda = s.agenda := rfl
@[simp] theorem modCore_turn : (s.modCore c f).turn = s.turn := rfl
@[simp] theorem modCore_cur : (s.modCore c f).cur = s.cur := rfl
@[simp] theorem modCore_nextId : (s.modCore c f).nextId = s.nextId := rfl
@[simp] theorem modCore_free : (s.modCore c f).free = s.free := rfl
end

section
variable (l : Nat) (f : Launch → Launch)
@[simp] theorem modLaunch_grade : (s.modLaunch l f).grade = s.grade := rfl
@[simp] theorem modLaunch_uppers : (s.modLaunch l f).uppers = s.uppers := rfl
@[simp] theorem modLaunch_upper : (s.modLaunch l f).upper = s.upper := rfl
@[simp] theorem modLaunch_dieen : (s.modLaunch l f).dieen = s.dieen := rfl
@[simp] theorem modLaunch_serial : (s.modLaunch l f).serial = s.serial := rfl
@[simp] theorem modLaunch_mypkg : (s.modLaunch l f).mypkg = s.mypkg := rfl
@[simp] theorem modLaunch_mypod : (s.modLaunch l f).mypod = s.mypod := rfl
@[simp] theorem modLaunch_mem : (s.modLaunch l f).mem = s.mem := rfl
@[simp] theorem modLaunch_far : (s.modLaunch l f).far = s.far := rfl
@[simp] theorem modLaunch_poison : (s.modLaunch l f).poison = s.poison := rfl
@[simp] theorem modLaunch_rekeyed : (s.modLaunch l f).rekeyed = s.rekeyed := rfl
@[simp] theorem modLaunch_dir : (s.modLaunch l f).dir = s.dir := rfl
@[simp] theorem modLaunch_cores : (s.modLaunch l f).cores = s.cores := rfl
@[simp] theorem modLaunch_blocks : (s.modLaunch l f).blocks = s.blocks := rfl
@[simp] theorem modLaunch_saved : (s.modLaunch l f).saved = s.saved := rfl
@[simp] theorem modLaunch_bundles : (s.modLaunch l f).bundles = s.bundles := rfl
@[simp] theorem modLaunch_bundleReqs : (s.modLaunch l f).bundleReqs = s.bundleReqs := rfl
@[simp] theorem modLaunch_bundleNext : (s.modLaunch l f).bundleNext = s.bundleNext := rfl
@[simp] theorem modLaunch_vfs : (s.modLaunch l f).vfs = s.vfs := rfl
@[simp] theorem modLaunch_tenants : (s.modLaunch l f).tenants = s.tenants := rfl
@[simp] theorem modLaunch_ports : (s.modLaunch l f).ports = s.ports := rfl
@[simp] theorem modLaunch_streams : (s.modLaunch l f).streams = s.streams := rfl
@[simp] theorem modLaunch_ik : (s.modLaunch l f).ik = s.ik := rfl
@[simp] theorem modLaunch_fw : (s.modLaunch l f).fw = s.fw := rfl
@[simp] theorem modLaunch_links : (s.modLaunch l f).links = s.links := rfl
@[simp] theorem modLaunch_incarnations : (s.modLaunch l f).incarnations = s.incarnations := rfl
@[simp] theorem modLaunch_fenced : (s.modLaunch l f).fenced = s.fenced := rfl
@[simp] theorem modLaunch_responses : (s.modLaunch l f).responses = s.responses := rfl
@[simp] theorem modLaunch_nacked : (s.modLaunch l f).nacked = s.nacked := rfl
@[simp] theorem modLaunch_cohLog : (s.modLaunch l f).cohLog = s.cohLog := rfl
@[simp] theorem modLaunch_pf : (s.modLaunch l f).pf = s.pf := rfl
@[simp] theorem modLaunch_globalWrites : (s.modLaunch l f).globalWrites = s.globalWrites := rfl
@[simp] theorem modLaunch_retiring : (s.modLaunch l f).retiring = s.retiring := rfl
@[simp] theorem modLaunch_hostReply : (s.modLaunch l f).hostReply = s.hostReply := rfl
@[simp] theorem modLaunch_cxl : (s.modLaunch l f).cxl = s.cxl := rfl
@[simp] theorem modLaunch_sliceHolder : (s.modLaunch l f).sliceHolder = s.sliceHolder := rfl
@[simp] theorem modLaunch_sliceOn : (s.modLaunch l f).sliceOn = s.sliceOn := rfl
@[simp] theorem modLaunch_sliceStart : (s.modLaunch l f).sliceStart = s.sliceStart := rfl
@[simp] theorem modLaunch_gateCap : (s.modLaunch l f).gateCap = s.gateCap := rfl
@[simp] theorem modLaunch_gateHot : (s.modLaunch l f).gateHot = s.gateHot := rfl
@[simp] theorem modLaunch_energyWin : (s.modLaunch l f).energyWin = s.energyWin := rfl
@[simp] theorem modLaunch_samples : (s.modLaunch l f).samples = s.samples := rfl
@[simp] theorem modLaunch_polls : (s.modLaunch l f).polls = s.polls := rfl
@[simp] theorem modLaunch_meters : (s.modLaunch l f).meters = s.meters := rfl
@[simp] theorem modLaunch_steward : (s.modLaunch l f).steward = s.steward := rfl
@[simp] theorem modLaunch_clk : (s.modLaunch l f).clk = s.clk := rfl
@[simp] theorem modLaunch_ptpSec : (s.modLaunch l f).ptpSec = s.ptpSec := rfl
@[simp] theorem modLaunch_ptpNs : (s.modLaunch l f).ptpNs = s.ptpNs := rfl
@[simp] theorem modLaunch_ptpClk : (s.modLaunch l f).ptpClk = s.ptpClk := rfl
@[simp] theorem modLaunch_agenda : (s.modLaunch l f).agenda = s.agenda := rfl
@[simp] theorem modLaunch_turn : (s.modLaunch l f).turn = s.turn := rfl
@[simp] theorem modLaunch_cur : (s.modLaunch l f).cur = s.cur := rfl
@[simp] theorem modLaunch_nextId : (s.modLaunch l f).nextId = s.nextId := rfl
@[simp] theorem modLaunch_free : (s.modLaunch l f).free = s.free := rfl
end

section
variable (v : Nat) (f : Vf → Vf)
@[simp] theorem modVf_grade : (s.modVf v f).grade = s.grade := rfl
@[simp] theorem modVf_uppers : (s.modVf v f).uppers = s.uppers := rfl
@[simp] theorem modVf_upper : (s.modVf v f).upper = s.upper := rfl
@[simp] theorem modVf_dieen : (s.modVf v f).dieen = s.dieen := rfl
@[simp] theorem modVf_serial : (s.modVf v f).serial = s.serial := rfl
@[simp] theorem modVf_mypkg : (s.modVf v f).mypkg = s.mypkg := rfl
@[simp] theorem modVf_mypod : (s.modVf v f).mypod = s.mypod := rfl
@[simp] theorem modVf_mem : (s.modVf v f).mem = s.mem := rfl
@[simp] theorem modVf_far : (s.modVf v f).far = s.far := rfl
@[simp] theorem modVf_poison : (s.modVf v f).poison = s.poison := rfl
@[simp] theorem modVf_rekeyed : (s.modVf v f).rekeyed = s.rekeyed := rfl
@[simp] theorem modVf_dir : (s.modVf v f).dir = s.dir := rfl
@[simp] theorem modVf_cores : (s.modVf v f).cores = s.cores := rfl
@[simp] theorem modVf_blocks : (s.modVf v f).blocks = s.blocks := rfl
@[simp] theorem modVf_saved : (s.modVf v f).saved = s.saved := rfl
@[simp] theorem modVf_launches : (s.modVf v f).launches = s.launches := rfl
@[simp] theorem modVf_bundles : (s.modVf v f).bundles = s.bundles := rfl
@[simp] theorem modVf_bundleReqs : (s.modVf v f).bundleReqs = s.bundleReqs := rfl
@[simp] theorem modVf_bundleNext : (s.modVf v f).bundleNext = s.bundleNext := rfl
@[simp] theorem modVf_tenants : (s.modVf v f).tenants = s.tenants := rfl
@[simp] theorem modVf_ports : (s.modVf v f).ports = s.ports := rfl
@[simp] theorem modVf_streams : (s.modVf v f).streams = s.streams := rfl
@[simp] theorem modVf_ik : (s.modVf v f).ik = s.ik := rfl
@[simp] theorem modVf_fw : (s.modVf v f).fw = s.fw := rfl
@[simp] theorem modVf_links : (s.modVf v f).links = s.links := rfl
@[simp] theorem modVf_incarnations : (s.modVf v f).incarnations = s.incarnations := rfl
@[simp] theorem modVf_fenced : (s.modVf v f).fenced = s.fenced := rfl
@[simp] theorem modVf_responses : (s.modVf v f).responses = s.responses := rfl
@[simp] theorem modVf_nacked : (s.modVf v f).nacked = s.nacked := rfl
@[simp] theorem modVf_cohLog : (s.modVf v f).cohLog = s.cohLog := rfl
@[simp] theorem modVf_pf : (s.modVf v f).pf = s.pf := rfl
@[simp] theorem modVf_globalWrites : (s.modVf v f).globalWrites = s.globalWrites := rfl
@[simp] theorem modVf_retiring : (s.modVf v f).retiring = s.retiring := rfl
@[simp] theorem modVf_hostReply : (s.modVf v f).hostReply = s.hostReply := rfl
@[simp] theorem modVf_cxl : (s.modVf v f).cxl = s.cxl := rfl
@[simp] theorem modVf_sliceHolder : (s.modVf v f).sliceHolder = s.sliceHolder := rfl
@[simp] theorem modVf_sliceOn : (s.modVf v f).sliceOn = s.sliceOn := rfl
@[simp] theorem modVf_sliceStart : (s.modVf v f).sliceStart = s.sliceStart := rfl
@[simp] theorem modVf_gateCap : (s.modVf v f).gateCap = s.gateCap := rfl
@[simp] theorem modVf_gateHot : (s.modVf v f).gateHot = s.gateHot := rfl
@[simp] theorem modVf_energyWin : (s.modVf v f).energyWin = s.energyWin := rfl
@[simp] theorem modVf_samples : (s.modVf v f).samples = s.samples := rfl
@[simp] theorem modVf_polls : (s.modVf v f).polls = s.polls := rfl
@[simp] theorem modVf_meters : (s.modVf v f).meters = s.meters := rfl
@[simp] theorem modVf_steward : (s.modVf v f).steward = s.steward := rfl
@[simp] theorem modVf_clk : (s.modVf v f).clk = s.clk := rfl
@[simp] theorem modVf_ptpSec : (s.modVf v f).ptpSec = s.ptpSec := rfl
@[simp] theorem modVf_ptpNs : (s.modVf v f).ptpNs = s.ptpNs := rfl
@[simp] theorem modVf_ptpClk : (s.modVf v f).ptpClk = s.ptpClk := rfl
@[simp] theorem modVf_agenda : (s.modVf v f).agenda = s.agenda := rfl
@[simp] theorem modVf_turn : (s.modVf v f).turn = s.turn := rfl
@[simp] theorem modVf_cur : (s.modVf v f).cur = s.cur := rfl
@[simp] theorem modVf_nextId : (s.modVf v f).nextId = s.nextId := rfl
@[simp] theorem modVf_free : (s.modVf v f).free = s.free := rfl
end

section
variable (v q : Nat) (f : Queue → Queue)
@[simp] theorem modQueue_grade : (s.modQueue v q f).grade = s.grade := rfl
@[simp] theorem modQueue_uppers : (s.modQueue v q f).uppers = s.uppers := rfl
@[simp] theorem modQueue_upper : (s.modQueue v q f).upper = s.upper := rfl
@[simp] theorem modQueue_dieen : (s.modQueue v q f).dieen = s.dieen := rfl
@[simp] theorem modQueue_serial : (s.modQueue v q f).serial = s.serial := rfl
@[simp] theorem modQueue_mypkg : (s.modQueue v q f).mypkg = s.mypkg := rfl
@[simp] theorem modQueue_mypod : (s.modQueue v q f).mypod = s.mypod := rfl
@[simp] theorem modQueue_mem : (s.modQueue v q f).mem = s.mem := rfl
@[simp] theorem modQueue_far : (s.modQueue v q f).far = s.far := rfl
@[simp] theorem modQueue_poison : (s.modQueue v q f).poison = s.poison := rfl
@[simp] theorem modQueue_rekeyed : (s.modQueue v q f).rekeyed = s.rekeyed := rfl
@[simp] theorem modQueue_dir : (s.modQueue v q f).dir = s.dir := rfl
@[simp] theorem modQueue_cores : (s.modQueue v q f).cores = s.cores := rfl
@[simp] theorem modQueue_blocks : (s.modQueue v q f).blocks = s.blocks := rfl
@[simp] theorem modQueue_saved : (s.modQueue v q f).saved = s.saved := rfl
@[simp] theorem modQueue_launches : (s.modQueue v q f).launches = s.launches := rfl
@[simp] theorem modQueue_bundles : (s.modQueue v q f).bundles = s.bundles := rfl
@[simp] theorem modQueue_bundleReqs : (s.modQueue v q f).bundleReqs = s.bundleReqs := rfl
@[simp] theorem modQueue_bundleNext : (s.modQueue v q f).bundleNext = s.bundleNext := rfl
@[simp] theorem modQueue_tenants : (s.modQueue v q f).tenants = s.tenants := rfl
@[simp] theorem modQueue_ports : (s.modQueue v q f).ports = s.ports := rfl
@[simp] theorem modQueue_streams : (s.modQueue v q f).streams = s.streams := rfl
@[simp] theorem modQueue_ik : (s.modQueue v q f).ik = s.ik := rfl
@[simp] theorem modQueue_fw : (s.modQueue v q f).fw = s.fw := rfl
@[simp] theorem modQueue_links : (s.modQueue v q f).links = s.links := rfl
@[simp] theorem modQueue_incarnations : (s.modQueue v q f).incarnations = s.incarnations := rfl
@[simp] theorem modQueue_fenced : (s.modQueue v q f).fenced = s.fenced := rfl
@[simp] theorem modQueue_responses : (s.modQueue v q f).responses = s.responses := rfl
@[simp] theorem modQueue_nacked : (s.modQueue v q f).nacked = s.nacked := rfl
@[simp] theorem modQueue_cohLog : (s.modQueue v q f).cohLog = s.cohLog := rfl
@[simp] theorem modQueue_pf : (s.modQueue v q f).pf = s.pf := rfl
@[simp] theorem modQueue_globalWrites : (s.modQueue v q f).globalWrites = s.globalWrites := rfl
@[simp] theorem modQueue_retiring : (s.modQueue v q f).retiring = s.retiring := rfl
@[simp] theorem modQueue_hostReply : (s.modQueue v q f).hostReply = s.hostReply := rfl
@[simp] theorem modQueue_cxl : (s.modQueue v q f).cxl = s.cxl := rfl
@[simp] theorem modQueue_sliceHolder : (s.modQueue v q f).sliceHolder = s.sliceHolder := rfl
@[simp] theorem modQueue_sliceOn : (s.modQueue v q f).sliceOn = s.sliceOn := rfl
@[simp] theorem modQueue_sliceStart : (s.modQueue v q f).sliceStart = s.sliceStart := rfl
@[simp] theorem modQueue_gateCap : (s.modQueue v q f).gateCap = s.gateCap := rfl
@[simp] theorem modQueue_gateHot : (s.modQueue v q f).gateHot = s.gateHot := rfl
@[simp] theorem modQueue_energyWin : (s.modQueue v q f).energyWin = s.energyWin := rfl
@[simp] theorem modQueue_samples : (s.modQueue v q f).samples = s.samples := rfl
@[simp] theorem modQueue_polls : (s.modQueue v q f).polls = s.polls := rfl
@[simp] theorem modQueue_meters : (s.modQueue v q f).meters = s.meters := rfl
@[simp] theorem modQueue_steward : (s.modQueue v q f).steward = s.steward := rfl
@[simp] theorem modQueue_clk : (s.modQueue v q f).clk = s.clk := rfl
@[simp] theorem modQueue_ptpSec : (s.modQueue v q f).ptpSec = s.ptpSec := rfl
@[simp] theorem modQueue_ptpNs : (s.modQueue v q f).ptpNs = s.ptpNs := rfl
@[simp] theorem modQueue_ptpClk : (s.modQueue v q f).ptpClk = s.ptpClk := rfl
@[simp] theorem modQueue_agenda : (s.modQueue v q f).agenda = s.agenda := rfl
@[simp] theorem modQueue_turn : (s.modQueue v q f).turn = s.turn := rfl
@[simp] theorem modQueue_cur : (s.modQueue v q f).cur = s.cur := rfl
@[simp] theorem modQueue_nextId : (s.modQueue v q f).nextId = s.nextId := rfl
@[simp] theorem modQueue_free : (s.modQueue v q f).free = s.free := rfl
end

section
variable (t : Nat) (f : Tenant → Tenant)
@[simp] theorem modTenant_grade : (s.modTenant t f).grade = s.grade := rfl
@[simp] theorem modTenant_uppers : (s.modTenant t f).uppers = s.uppers := rfl
@[simp] theorem modTenant_upper : (s.modTenant t f).upper = s.upper := rfl
@[simp] theorem modTenant_dieen : (s.modTenant t f).dieen = s.dieen := rfl
@[simp] theorem modTenant_serial : (s.modTenant t f).serial = s.serial := rfl
@[simp] theorem modTenant_mypkg : (s.modTenant t f).mypkg = s.mypkg := rfl
@[simp] theorem modTenant_mypod : (s.modTenant t f).mypod = s.mypod := rfl
@[simp] theorem modTenant_mem : (s.modTenant t f).mem = s.mem := rfl
@[simp] theorem modTenant_far : (s.modTenant t f).far = s.far := rfl
@[simp] theorem modTenant_poison : (s.modTenant t f).poison = s.poison := rfl
@[simp] theorem modTenant_rekeyed : (s.modTenant t f).rekeyed = s.rekeyed := rfl
@[simp] theorem modTenant_dir : (s.modTenant t f).dir = s.dir := rfl
@[simp] theorem modTenant_cores : (s.modTenant t f).cores = s.cores := rfl
@[simp] theorem modTenant_blocks : (s.modTenant t f).blocks = s.blocks := rfl
@[simp] theorem modTenant_saved : (s.modTenant t f).saved = s.saved := rfl
@[simp] theorem modTenant_launches : (s.modTenant t f).launches = s.launches := rfl
@[simp] theorem modTenant_bundles : (s.modTenant t f).bundles = s.bundles := rfl
@[simp] theorem modTenant_bundleReqs : (s.modTenant t f).bundleReqs = s.bundleReqs := rfl
@[simp] theorem modTenant_bundleNext : (s.modTenant t f).bundleNext = s.bundleNext := rfl
@[simp] theorem modTenant_vfs : (s.modTenant t f).vfs = s.vfs := rfl
@[simp] theorem modTenant_ports : (s.modTenant t f).ports = s.ports := rfl
@[simp] theorem modTenant_streams : (s.modTenant t f).streams = s.streams := rfl
@[simp] theorem modTenant_ik : (s.modTenant t f).ik = s.ik := rfl
@[simp] theorem modTenant_fw : (s.modTenant t f).fw = s.fw := rfl
@[simp] theorem modTenant_links : (s.modTenant t f).links = s.links := rfl
@[simp] theorem modTenant_incarnations : (s.modTenant t f).incarnations = s.incarnations := rfl
@[simp] theorem modTenant_fenced : (s.modTenant t f).fenced = s.fenced := rfl
@[simp] theorem modTenant_responses : (s.modTenant t f).responses = s.responses := rfl
@[simp] theorem modTenant_nacked : (s.modTenant t f).nacked = s.nacked := rfl
@[simp] theorem modTenant_cohLog : (s.modTenant t f).cohLog = s.cohLog := rfl
@[simp] theorem modTenant_pf : (s.modTenant t f).pf = s.pf := rfl
@[simp] theorem modTenant_globalWrites : (s.modTenant t f).globalWrites = s.globalWrites := rfl
@[simp] theorem modTenant_retiring : (s.modTenant t f).retiring = s.retiring := rfl
@[simp] theorem modTenant_hostReply : (s.modTenant t f).hostReply = s.hostReply := rfl
@[simp] theorem modTenant_cxl : (s.modTenant t f).cxl = s.cxl := rfl
@[simp] theorem modTenant_sliceHolder : (s.modTenant t f).sliceHolder = s.sliceHolder := rfl
@[simp] theorem modTenant_sliceOn : (s.modTenant t f).sliceOn = s.sliceOn := rfl
@[simp] theorem modTenant_sliceStart : (s.modTenant t f).sliceStart = s.sliceStart := rfl
@[simp] theorem modTenant_gateCap : (s.modTenant t f).gateCap = s.gateCap := rfl
@[simp] theorem modTenant_gateHot : (s.modTenant t f).gateHot = s.gateHot := rfl
@[simp] theorem modTenant_energyWin : (s.modTenant t f).energyWin = s.energyWin := rfl
@[simp] theorem modTenant_samples : (s.modTenant t f).samples = s.samples := rfl
@[simp] theorem modTenant_polls : (s.modTenant t f).polls = s.polls := rfl
@[simp] theorem modTenant_meters : (s.modTenant t f).meters = s.meters := rfl
@[simp] theorem modTenant_steward : (s.modTenant t f).steward = s.steward := rfl
@[simp] theorem modTenant_clk : (s.modTenant t f).clk = s.clk := rfl
@[simp] theorem modTenant_ptpSec : (s.modTenant t f).ptpSec = s.ptpSec := rfl
@[simp] theorem modTenant_ptpNs : (s.modTenant t f).ptpNs = s.ptpNs := rfl
@[simp] theorem modTenant_ptpClk : (s.modTenant t f).ptpClk = s.ptpClk := rfl
@[simp] theorem modTenant_agenda : (s.modTenant t f).agenda = s.agenda := rfl
@[simp] theorem modTenant_turn : (s.modTenant t f).turn = s.turn := rfl
@[simp] theorem modTenant_cur : (s.modTenant t f).cur = s.cur := rfl
@[simp] theorem modTenant_nextId : (s.modTenant t f).nextId = s.nextId := rfl
@[simp] theorem modTenant_free : (s.modTenant t f).free = s.free := rfl
end

section
variable (i : Instr)
@[simp] theorem queueEvent_grade : (s.queueEvent i).grade = s.grade := rfl
@[simp] theorem queueEvent_uppers : (s.queueEvent i).uppers = s.uppers := rfl
@[simp] theorem queueEvent_upper : (s.queueEvent i).upper = s.upper := rfl
@[simp] theorem queueEvent_dieen : (s.queueEvent i).dieen = s.dieen := rfl
@[simp] theorem queueEvent_serial : (s.queueEvent i).serial = s.serial := rfl
@[simp] theorem queueEvent_mypkg : (s.queueEvent i).mypkg = s.mypkg := rfl
@[simp] theorem queueEvent_mypod : (s.queueEvent i).mypod = s.mypod := rfl
@[simp] theorem queueEvent_mem : (s.queueEvent i).mem = s.mem := rfl
@[simp] theorem queueEvent_far : (s.queueEvent i).far = s.far := rfl
@[simp] theorem queueEvent_poison : (s.queueEvent i).poison = s.poison := rfl
@[simp] theorem queueEvent_rekeyed : (s.queueEvent i).rekeyed = s.rekeyed := rfl
@[simp] theorem queueEvent_dir : (s.queueEvent i).dir = s.dir := rfl
@[simp] theorem queueEvent_cores : (s.queueEvent i).cores = s.cores := rfl
@[simp] theorem queueEvent_blocks : (s.queueEvent i).blocks = s.blocks := rfl
@[simp] theorem queueEvent_saved : (s.queueEvent i).saved = s.saved := rfl
@[simp] theorem queueEvent_launches : (s.queueEvent i).launches = s.launches := rfl
@[simp] theorem queueEvent_bundles : (s.queueEvent i).bundles = s.bundles := rfl
@[simp] theorem queueEvent_bundleReqs : (s.queueEvent i).bundleReqs = s.bundleReqs := rfl
@[simp] theorem queueEvent_bundleNext : (s.queueEvent i).bundleNext = s.bundleNext := rfl
@[simp] theorem queueEvent_vfs : (s.queueEvent i).vfs = s.vfs := rfl
@[simp] theorem queueEvent_tenants : (s.queueEvent i).tenants = s.tenants := rfl
@[simp] theorem queueEvent_ports : (s.queueEvent i).ports = s.ports := rfl
@[simp] theorem queueEvent_streams : (s.queueEvent i).streams = s.streams := rfl
@[simp] theorem queueEvent_ik : (s.queueEvent i).ik = s.ik := rfl
@[simp] theorem queueEvent_fw : (s.queueEvent i).fw = s.fw := rfl
@[simp] theorem queueEvent_links : (s.queueEvent i).links = s.links := rfl
@[simp] theorem queueEvent_incarnations : (s.queueEvent i).incarnations = s.incarnations := rfl
@[simp] theorem queueEvent_fenced : (s.queueEvent i).fenced = s.fenced := rfl
@[simp] theorem queueEvent_responses : (s.queueEvent i).responses = s.responses := rfl
@[simp] theorem queueEvent_nacked : (s.queueEvent i).nacked = s.nacked := rfl
@[simp] theorem queueEvent_cohLog : (s.queueEvent i).cohLog = s.cohLog := rfl
@[simp] theorem queueEvent_pf : (s.queueEvent i).pf = s.pf := rfl
@[simp] theorem queueEvent_globalWrites : (s.queueEvent i).globalWrites = s.globalWrites := rfl
@[simp] theorem queueEvent_retiring : (s.queueEvent i).retiring = s.retiring := rfl
@[simp] theorem queueEvent_hostReply : (s.queueEvent i).hostReply = s.hostReply := rfl
@[simp] theorem queueEvent_cxl : (s.queueEvent i).cxl = s.cxl := rfl
@[simp] theorem queueEvent_sliceHolder : (s.queueEvent i).sliceHolder = s.sliceHolder := rfl
@[simp] theorem queueEvent_sliceOn : (s.queueEvent i).sliceOn = s.sliceOn := rfl
@[simp] theorem queueEvent_sliceStart : (s.queueEvent i).sliceStart = s.sliceStart := rfl
@[simp] theorem queueEvent_gateCap : (s.queueEvent i).gateCap = s.gateCap := rfl
@[simp] theorem queueEvent_gateHot : (s.queueEvent i).gateHot = s.gateHot := rfl
@[simp] theorem queueEvent_energyWin : (s.queueEvent i).energyWin = s.energyWin := rfl
@[simp] theorem queueEvent_samples : (s.queueEvent i).samples = s.samples := rfl
@[simp] theorem queueEvent_polls : (s.queueEvent i).polls = s.polls := rfl
@[simp] theorem queueEvent_meters : (s.queueEvent i).meters = s.meters := rfl
@[simp] theorem queueEvent_steward : (s.queueEvent i).steward = s.steward := rfl
@[simp] theorem queueEvent_clk : (s.queueEvent i).clk = s.clk := rfl
@[simp] theorem queueEvent_ptpSec : (s.queueEvent i).ptpSec = s.ptpSec := rfl
@[simp] theorem queueEvent_ptpNs : (s.queueEvent i).ptpNs = s.ptpNs := rfl
@[simp] theorem queueEvent_ptpClk : (s.queueEvent i).ptpClk = s.ptpClk := rfl
@[simp] theorem queueEvent_turn : (s.queueEvent i).turn = s.turn := rfl
@[simp] theorem queueEvent_cur : (s.queueEvent i).cur = s.cur := rfl
@[simp] theorem queueEvent_nextId : (s.queueEvent i).nextId = s.nextId := rfl
@[simp] theorem queueEvent_free : (s.queueEvent i).free = s.free := rfl
end

@[simp] theorem queueEvent_agenda (i : Instr) : (s.queueEvent i).agenda = s.agenda ++ [i] := rfl
@[simp] theorem modBlock_blocks (b : Nat) (f : Block → Block) : (s.modBlock b f).blocks = s.blocks.map (fun x => if x.id == b then f x else x) := rfl
@[simp] theorem modCore_cores (c : Nat) (f : CoreSt → CoreSt) : (s.modCore c f).cores = s.cores.map (fun x => if x.id == c then f x else x) := rfl
@[simp] theorem modLaunch_launches (l : Nat) (f : Launch → Launch) : (s.modLaunch l f).launches = s.launches.map (fun x => if x.id == l then f x else x) := rfl
@[simp] theorem modVf_vfs (v : Nat) (f : Vf → Vf) : (s.modVf v f).vfs = s.vfs.map (fun x => if x.id == v then f x else x) := rfl
@[simp] theorem modTenant_tenants (t : Nat) (f : Tenant → Tenant) : (s.modTenant t f).tenants = s.tenants.map (fun x => if x.id == t then f x else x) := rfl

/-- Where nothing gates, no slot is gated and no choice is used (R438). -/
@[simp] theorem gates_idle {s : State} (h : s.gating = false) (core path : Nat) : s.gates core path = false := by simp [State.gates, h]
@[simp] theorem noteGate_idle {s : State} (h : s.gating = false) (core path : Nat) (g : Bool) : s.noteGate core path g = s := by
  simp [State.noteGate, h]

/-- A choice noted changes the count of one core and uses one free choice: blocks, memory and events stay. -/
@[simp] theorem noteGate_blocks (core path : Nat) (g : Bool) : (s.noteGate core path g).blocks = s.blocks := by
  unfold State.noteGate; split <;> rfl
@[simp] theorem noteGate_mem (core path : Nat) (g : Bool) : (s.noteGate core path g).mem = s.mem := by unfold State.noteGate; split <;> rfl
@[simp] theorem noteGate_far (core path : Nat) (g : Bool) : (s.noteGate core path g).far = s.far := by unfold State.noteGate; split <;> rfl
@[simp] theorem noteGate_agenda (core path : Nat) (g : Bool) : (s.noteGate core path g).agenda = s.agenda := by
  unfold State.noteGate; split <;> rfl

end Sys2Proof.Laws
end

