-- ==== Sys2Proof/Tests/Slice0.lean ====
section
/-! SUPPORT. Tests: ill-formed terms, words of the spec's encodings, results worked out by hand, and for each statement with
hypotheses a state and operands that meet them. -/
namespace Sys2Proof.Tests
open Sys2Proof Sys2Proof.Machine Sys2Proof.Claims

/-! ## Small states -/

/-- Registers at pc 0x1000 with thread 0 alone active and a few uniform values. -/
def tRegs : CRegs := { CRegs.start 0x1000 7 with m := 1 }
/-- Caravan 0 of a block: at level 0, window 64, nothing held. -/
def tCar (vector : Bool) : Caravan := { Caravan.start 0 vector 0x1000 7 0 64 0 0 with regs := tRegs }
/-- The same with uniform register r holding x. -/
def withS (c : Caravan) (r : Nat) (x : Word) : Caravan := { c with regs := { c.regs with s := vset c.regs.s r x } }
/-- The same with thread 0 of v register r holding x. -/
def withV (c : Caravan) (r : Nat) (x : Word) : Caravan := { c with regs := { c.regs with v := vset c.regs.v r (vset VReg.zero 0 x) } }
/-- The same at a level. -/
def atLevel (c : Caravan) (plv : Nat) : Caravan := { c with cst := BitVec.ofNat 64 (16 * plv) }
/-- Block 7 of launch 1 on a core. -/
def tBlk (core : Nat) (cars : List Caravan) : Block :=
  { Block.boot 0 with id := 7, launch := 1, lin := 0, core := core, vectors := 1, tilesPer := 2, nbar := 4, nring := 2, lsg := 0x1000, cars := cars }
/-- Launch 1: function 0, process 1. -/
def tLaunch : Launch := { Launch.boot with id := 1, vf := 0, proc := 1, gang := false, total := 1 }
/-- A package that runs block x, and agent w's turn. -/
def tState (x : Block) (w : Who) : State :=
  { State.reset with
    fw := { Firmware.reset with phase := .running }, cores := [CoreSt.empty 0, CoreSt.empty 256], blocks := [x]
    launches := [Launch.boot, tLaunch]
    vfs := [{ Vf.reset 0 with tenant := 5 }, Vf.steward]
    tenants := [{ id := 5, policy := none, keyHash := none, sealKey := 0, keyGen := 0, windows := [], graphs := [], reserved := [],
                  exportCount := 0, imported := [], handles := [] }]
    cur := w }
/-- Caravan c alone on core 0, about to issue. -/
def carState (c : Caravan) : State := tState (tBlk 0 [c]) (.car 7 0)
/-- Sequencer q alone on core 0, about to issue. -/
def seqState (q : Sequencer) : State := tState { tBlk 0 [] with seq := some q } (.seq 7)

/-- A caravan alone in its block, with one open epoch that holds nothing, has its turn. -/
theorem turnOf {s : State} {x : Block} {c : Caravan} (hs : List W32) (h1 : s.cur = .car x.id c.n) (h2 : s.block? x.id = some x)
    (h3 : x.car? c.n = some c) (h4 : c.hints = hs) (h5 : c.status = .running) (h6 : c.plv ≤ 2) (h7 : c.fix = [])
    (h8 : c.epochs.map (fun e => (e.pend, e.vw)) = [([], [])]) (h10 : c.late = []) : Turn s x c hs := by
  obtain ⟨e, he, h9⟩ := List.map_eq_singleton_iff.mp h8
  simp only [Prod.mk.injEq] at h9
  refine ⟨h1, h2, h3, h4, by rw [h5]; nofun, h6, h7, ?_, by rw [he]; nofun, h10, ?_⟩
  · intro y hy; rw [he, List.mem_singleton] at hy; rw [hy]; exact h9.1
  · simp only [Caravan.shadowed, he, List.foldl_cons, List.foldl_nil, h9.2]; decide

theorem seqTurnOf {s : State} {x : Block} {q : Sequencer} (hs : List W32) (h1 : s.cur = .seq x.id) (h2 : s.block? x.id = some x)
    (h3 : x.seq = some q) (h4 : q.hints = hs) (h5 : q.status = .running) (h6 : q.fix = []) : SeqTurn s x q hs :=
  ⟨h1, h2, h3, h4, by rw [h5]; nofun, h6⟩

/-- The plain caravan's turn. -/
theorem carTurn (c : Caravan) (h : c.n = 0) (h4 : c.hints = []) (h5 : c.status = .running) (h6 : c.plv ≤ 2) (h7 : c.fix = [])
    (h8 : c.epochs.map (fun e => (e.pend, e.vw)) = [([], [])]) (h10 : c.late = []) : Turn (carState c) (tBlk 0 [c]) c [] := by
  refine turnOf [] (by rw [h]; rfl) rfl ?_ h4 h5 h6 h7 h8 h10
  simp [Block.car?, tBlk, h]


theorem okOf {α : Type} {x : Except Trap α} (h : x.toBool = true) : ∃ g, x = .ok g := by cases x <;> first | cases h; done | exact ⟨_, rfl⟩
theorem okAnd {α : Type} {x : Except Trap α} {p : α → Bool} (h : (match x with | .ok g => p g | .error _ => false) = true) : ∃ g, x = .ok g ∧ p g = true := by
  cases x with
  | error e => cases h
  | ok g => exact ⟨g, rfl, h⟩
theorem someOf {α : Type} {x : Option α} (h : x.isSome = true) : ∃ g, x = some g := Option.isSome_iff_exists.mp h

/-! ## The statements' hypotheses are met -/

def fR : FmtR := ⟨0, 2, 7, 3, 4, 5⟩
def fDA : FmtDA := ⟨0, 7, 3, 4⟩

theorem witness_LaneInstructionWritesActiveLanes :
    Turn (carState (tCar true)) (tBlk 0 [tCar true]) (tCar true) (negpGroup false) ∧ (bin fR .add).Ready (tCar true) false ∧
    (IntForm (.add fR) (bin fR .add) ∧ FloatForm (.swz ⟨0, 7, 3, 4, 5⟩) ⟨7, 3, [4, 5], true, true, fun x _ t => ofElems 8 fun i =>
      let s := elem 8 (lane x 5 t) i
      let y := if s % 16 < 8 then elem 8 (lane x 4 t) (s % 16) else elem 8 (lane x 3 t) (s % 16 - 8)
      if s / 128 = 1 then 0 else if s / 64 % 2 = 1 then (if y / 128 = 1 then 255 else 0) else y⟩ ∧ SpecialForm (.rcp fDA) (special fDA 0)) ∧
    (special fDA 0).Ready (tCar true) false :=
  ⟨carTurn _ rfl rfl rfl (by decide) rfl rfl rfl, ⟨by decide, rfl, by decide, nofun⟩, ⟨.add _, .swz _, .rcp _⟩, ⟨by decide, rfl, by decide, fun _ => rfl⟩⟩

theorem witness_RoundedArithmeticWritesActiveLanes :
    let c := { tCar true with hints := modGroup 4 true false }
    RoundedForm (.fadd fR) (arith (.ofSize 2) 7 true 3 4 5 fun dn a b _ => a.add dn b) ∧
    Turn (carState c) (tBlk 0 [c]) c (modGroup 4 true false) ∧
    (arith (.ofSize 2) 7 true 3 4 5 fun dn a b _ => a.add dn b).Ready c 4 false :=
  ⟨.fadd _, turnOf _ rfl rfl rfl rfl rfl (by decide) rfl rfl rfl, ⟨by decide, by decide, rfl, by decide, rfl⟩⟩

theorem witness_CrossLaneReadsAllLanesBefore :
    Turn (carState (tCar false)) (tBlk 0 [tCar false]) (tCar false) (negpGroup false) ∧
    (∃ l, ExchangeForm (.lballot ⟨0, 7, 3, 6⟩) l ∧ l.Ready (tCar false) false) ∧ (∃ l, GatherForm (.lredAdd ⟨0, 3, 7, 3, 4⟩) l ∧ l.Ready (tCar false) false) :=
  ⟨carTurn _ rfl rfl rfl (by decide) rfl rfl rfl, ⟨_, .lballot _, ⟨by decide, rfl, by decide⟩⟩, ⟨_, .lredAdd _, ⟨by decide, rfl, by decide⟩⟩⟩

theorem witness_UniformInstructionWritesRegister :
    let c := { tCar false with hints := immGroup (some 5) ++ negpGroup true }
    let q := { Sequencer.start 0x2000 with hints := immGroup (some 5) ++ negpGroup true }
    UniformForm (.addImm ⟨0, 3, 15, 4, 9⟩) (uimm ⟨0, 3, 15, 4, 9⟩ fun a v => a + v) ∧ condOk 3 true ∧
    Turn (carState c) (tBlk 0 [c]) c (immGroup (some 5) ++ negpGroup true) ∧
    SeqTurn (seqState q) { tBlk 0 [] with seq := some q } q (immGroup (some 5) ++ negpGroup true) ∧ (∀ r ∈ [(15 : BitVec 6), 4], r.toNat < 16) :=
  ⟨.addImm _, ⟨by decide, by decide⟩, turnOf _ rfl rfl rfl rfl rfl (by decide) rfl rfl rfl, seqTurnOf _ rfl rfl rfl rfl rfl rfl, by decide⟩

theorem witness_CompareWritesPredicateOrCondition :
    Turn (carState (tCar true)) (tBlk 0 [tCar true]) (tCar true) (negpGroup false) ∧
    (∃ l, PredicateForm (.setp ⟨0, 2, 7, 5, 7, 4, 5⟩) l ∧ l.Ready (tCar true) false) ∧
    (∃ l, ConditionForm (.cnot ⟨0, 7, 3, 2⟩) l ∧ l.ok = true) ∧ condOk 7 false ∧
    SeqTurn (seqState (Sequencer.start 0)) { tBlk 0 [] with seq := some (Sequencer.start 0) } (Sequencer.start 0) (immGroup none ++ negpGroup false) :=
  ⟨carTurn _ rfl rfl rfl (by decide) rfl rfl rfl, ⟨_, .setp _, ⟨by decide, rfl, by decide, nofun⟩⟩, ⟨_, .cnot _, rfl⟩, ⟨by decide, by decide⟩,
   seqTurnOf _ rfl rfl rfl rfl rfl rfl⟩

theorem witness_NamedFormatsConvert :
    let c := withS (tCar true) 5 4
    Turn (carState c) (tBlk 0 [c]) c (modGroup 0 false false) ∧ (∃ e, scaleFmt false (c.regs.rd c.plv 5) = some e) ∧
    (∃ e, scaleFmt true (c.regs.rd c.plv 5) = some e) :=
  ⟨carTurn _ rfl rfl rfl (by decide) rfl rfl rfl, ⟨_, rfl⟩, ⟨_, rfl⟩⟩


/-- A page of 512 KiB that function 0's process 1 has at 0x4000000000. -/
def tLeaf : Leaf := { base := 0x4000000000, size := 0x80000, pa := 0x80000, pa2 := none, slot := 0, fmt := 0, tracked := true, sup := false,
                      w := true, r := true, far := none }
/-- The caravan's state with that page's translation on its core. -/
def memState (c : Caravan) : State :=
  { carState c with cores := [{ CoreSt.empty 0 with tlb := [⟨0, 1, tLeaf.base, tLeaf⟩] }, CoreSt.empty 256] }
/-- A caravan whose thread 0 addresses byte 16 of the page. -/
def memCar (vector : Bool) : Caravan := withV (withS (tCar vector) 4 0x4000000000) 5 16

theorem witness_LocalLoadIsLittleEndian :
    let c := withV (tCar true) 5 0xFFC
    Turn (carState c) (tBlk 0 [c]) c [] ∧ accessRegs c fR false false ∧ Quiet c ∧ (carState c).poison = [] ∧
    (∀ y ∈ (carState c).blocks, y.lsPoison = []) ∧ (carState c).escorted (carState c).cur = false ∧ (carState c).streams = [] ∧ c.io = none ∧
    laneAddr c fR none false 0 + 4 ≤ (tBlk 0 [c]).lsg :=
  ⟨carTurn _ rfl rfl rfl (by decide) rfl rfl rfl, ⟨by decide, by decide, by decide⟩, by unfold Quiet; decide, rfl, by simp [carState, tState, tBlk, Block.boot], rfl, rfl, rfl, by decide⟩

theorem witness_VectorLoadReadsAndStoreIsHeld :
    let c := memCar true
    let s := memState c
    Turn s (tBlk 0 [c]) c [] ∧ accessRegs c fR false false ∧
    (∃ w, VectorLoad (.ld fR) fR w false ∧ LoadOk s w (laneAddrs c fR none false false) false) ∧
    (∃ w, VectorStore (.st fR) fR w false ∧ StoreOk s w (laneAddrs c fR none false false) false) :=
  ⟨turnOf [] rfl rfl rfl rfl rfl (by decide) rfl rfl rfl, ⟨by decide, by decide, by decide⟩,
   ⟨_, .ld _, ⟨by decide, by decide, by decide, by decide, by decide, by decide, rfl, by decide⟩⟩,
   ⟨_, .st _, ⟨by decide, by decide, by decide, by decide, by decide, by decide, rfl, by decide, by decide⟩⟩⟩

/-- The same with the page's first 64 bytes a constant segment of the kernel. -/
def constState (c : Caravan) : State :=
  { memState c with launches := [Launch.boot, { tLaunch with kernels := [{ Kernel.boot with consts := [(0x4000000000, 64)] }] }] }

theorem witness_UniformAndConstantAccess :
    let c := memCar false
    let s := memState c
    let lanes := [(0, laneAddr c fR none true 0)]
    Turn s (tBlk 0 [c]) c [] ∧ condOk 7 false ∧ condHolds c.regs.c 7 false = true ∧
    LoadOk s { read := true, decode := true, size := 4 } lanes true ∧ StoreOk s { write := true, size := 4 } lanes true ∧
    Turn (constState c) (tBlk 0 [c]) c [] ∧ accessRegs c fR false false ∧
    Unbound (constState c) ∧
    ((constState c).checkLanes (constState c).cur { read := true, const := true, size := 4 } (laneAddrs c fR none false false) false).1 = none ∧
    ((constState c).checkLanes (constState c).cur { read := true, const := true, size := 4 } lanes true).1 = none ∧
    (constState c).reachTrap (constState c).cur ((constState c).checkLanes (constState c).cur { read := true, const := true, size := 4 } lanes true).2 true true
      (fun _ => false) = none :=
  ⟨turnOf [] rfl rfl rfl rfl rfl (by decide) rfl rfl rfl, ⟨by decide, by decide⟩, rfl, ⟨by decide, by decide, by decide, by decide, by decide, by decide, rfl, by decide⟩,
   ⟨by decide, by decide, by decide, by decide, by decide, by decide, rfl, by decide, by decide⟩, turnOf [] rfl rfl rfl rfl rfl (by decide) rfl rfl rfl,
   ⟨by decide, by decide, by decide⟩, rfl, by decide, by decide, by decide⟩

theorem witness_FailedAccessTrapsBeforeAnyLane :
    let c := withV (tCar true) 5 0xFFD
    let d := withV (tCar true) 5 0x01FFFFFFFFFFFFFC
    let f8 : FmtR := ⟨0, 3, 7, 3, 4, 5⟩
    (Turn (carState d) (tBlk 0 [d]) d [] ∧ accessRegs d f8 false false ∧ ∃ w, VectorLoad (.ld f8) f8 w false ∧
      ∃ l ∈ laneAddrs d f8 none false false, ((carState d).checkLane (carState d).cur w l.2).1.map (fun e => (e.code, codeRank e.code)) = [(0x16, 1), (0x10, 1)] ∧
        (firstFail ((carState d).checkLane (carState d).cur w l.2).1).map (·.code) = some 0x16) ∧
    Turn (carState c) (tBlk 0 [c]) c [] ∧ accessRegs c fR false false ∧ c.io = none ∧ Unbound (carState c) ∧
    (∃ w, VectorLoad (.ldl fR) fR w false ∧ ∃ l ∈ laneAddrs c fR none false false, ((carState c).checkLane (carState c).cur w l.2).1 ≠ []) ∧
    (∃ w, VectorStore (.stl fR) fR w false ∧ ∃ l ∈ laneAddrs c fR none false false, ((carState c).checkLane (carState c).cur w l.2).1 ≠ []) ∧
    ((carState c).checkLane (carState c).cur { read := true, own := true, size := 4 } 0xFFD).1.map (fun e => (e.code, codeRank e.code)) = [(0x16, 1)] :=
  ⟨⟨carTurn _ rfl rfl rfl (by decide) rfl rfl rfl, ⟨by decide, by decide, by decide⟩, _, .ld _, by decide⟩, carTurn _ rfl rfl rfl (by decide) rfl rfl rfl, ⟨by decide, by decide, by decide⟩, rfl, rfl, ⟨_, .ldl _, by decide⟩, ⟨_, .stl _, by decide⟩, by decide⟩

/-- An epoch that is closed and holds one operation. -/
def tEpoch (h : Held) : Epoch := { Epoch.start tRegs with closed := true, acts := [h] }
/-- A copy of 8 bytes from byte 0 to byte 64 of the block's local store, on barrier 1. -/
def tCopy : CopyReq := { id := 9, blk := 7, tenant := 5, bar := 1, reps := [[{ src := .ls 7 0, dst := .ls 7 64, len := 8, dstVa := 64 }]], tag := none }
/-- The block with that copy on its way. -/
def copyState : State := { carState (tCar false) with cores := [{ CoreSt.empty 0 with copies := [tCopy] }, CoreSt.empty 256] }

theorem witness_CommitAndTransferMoveBytes :
    let c := { tCar true with epochs := [tEpoch (.store (.ls 7 8) [1, 2] none true)] }
    ((carState c).car? 7 0 = some c ∧ ((carState c).block? 7).isSome ∧ c.late = [] ∧ (carState c).bindStuck (.car 7 0) = false) ∧
    (tCopy.inc = copyState.incarnation 0 ∧ copyState.copyLost 0 tCopy = none) ∧
    copyState.copyHome 9 = some 0 ∧ copyState.core? 0 = some { CoreSt.empty 0 with copies := [tCopy] } ∧
    copyState.block? 7 = some (tBlk 0 [tCar false]) ∧ [tCopy].find? (fun y => y.id == 9) = some tCopy :=
  ⟨⟨rfl, by decide, rfl, by decide⟩, ⟨by decide, by decide⟩, by decide, by decide, rfl, by decide⟩

theorem witness_AtomicStepsLanesInOrder :
    let c := withV (withS (tCar true) 4 0x01F0000000000010) 4 0x01F0000000000FF8
    let s := carState c
    let f : FmtZ1DA := ⟨0, 7, 1, 2, 4⟩
    VectorAtomic (.amoCas f) f 9 ∧ UniformAtomic (.amouCas f) f 9 ∧ Turn s (tBlk 0 [c]) c [] ∧ Quiet c ∧ f.d.toNat % 2 = 0 ∧
    AtomicOk s 9 8 ((lanesOf (c.active 7 false)).map fun t => (t, (lane c.regs 4 t).toNat)) false ∧
    AtomicOk s 9 8 [(0, (c.regs.rd c.plv 4).toNat)] true :=
  ⟨.amoCas _, .amouCas _, carTurn _ rfl rfl rfl (by decide) rfl rfl rfl, by unfold Quiet; decide, by decide,
   ⟨by decide, by decide, by decide, by decide⟩, ⟨by decide, by decide, by decide, by decide⟩⟩

theorem witness_AtomicStepReadsThenWrites :
    let g : Seg := { off := 0, len := 8, va := 0, loc := .ls 7 16, leaf := none }
    (8 = 4 ∨ 8 = 8) ∧ 9 ≤ 9 ∧ (∀ l, g.leaf = some l → l.secondOf g.va = none) ∧
    (∀ b o, g.loc = .ls b o → ((carState (tCar true)).block? b).isSome) :=
  ⟨Or.inr rfl, by decide, nofun, by intro b o h; cases h; decide⟩

theorem witness_AppendReservesInOneStep :
    let c := withS (tCar true) 4 0x01F0000000000010
    let s := carState c
    let lanes := (lanesOf (c.active 7 false)).map fun t => (t, (c.regs.rd c.plv 4).toNat)
    let want : Want := { read := true, write := true, atomic := some 0x40, size := 4 }
    Turn s (tBlk 0 [c]) c [] ∧ Quiet c ∧ (s.checkLanes s.cur want lanes false).1 = none ∧
    (∃ g, (s.checkLanes s.cur want lanes false).2.head?.map (·.2) = some [g] ∧ g.loc = .ls 7 16 ∧ g.leaf = none ∧ g.host = false) ∧ c.io = none ∧
    s.amoReach s.cur (s.checkLanes s.cur want lanes false).2 false = none :=
  ⟨carTurn _ rfl rfl rfl (by decide) rfl rfl rfl, by unfold Quiet; decide, by decide, ⟨_, by rfl, rfl, rfl, rfl⟩, rfl, by decide⟩


/-- A once-only instruction of a caravan executes. -/
theorem runsOf {s : State} {x : Block} {c : Caravan} (h : Turn s x c []) : Runs s x c 7 false := ⟨h, ⟨by decide, by decide⟩, rfl⟩
theorem seqRunsOf {s : State} {x : Block} {q : Sequencer} (h : SeqTurn s x q []) : SeqRuns s x q 7 false := ⟨h, ⟨by decide, by decide⟩, rfl⟩
/-- The plain caravan runs one. -/
theorem carRuns (c : Caravan) (h : c.n = 0) (h4 : c.hints = []) (h5 : c.status = .running) (h6 : c.plv ≤ 2) (h7 : c.fix = [])
    (h8 : c.epochs.map (fun e => (e.pend, e.vw)) = [([], [])]) (h10 : c.late = []) : Runs (carState c) (tBlk 0 [c]) c 7 false :=
  runsOf (carTurn c h h4 h5 h6 h7 h8 h10)
theorem quietOf (c : Caravan) (h : c.epochs.map (·.acts) = [[]]) : Quiet c := by
  obtain ⟨e, he, h9⟩ := List.map_eq_singleton_iff.mp h
  intro y hy; rw [he, List.mem_singleton] at hy; rw [hy]; exact h9

theorem witness_MachineStateIsRead :
    Runs (carState (tCar true)) (tBlk 0 [tCar true]) (tCar true) 7 false ∧ selectorOk 0 = true ∧ (tCar true).vector = true ∧
    (∃ v, ReadForm (.rdid ⟨0, 7, 3, 0⟩) 7 3 (selectorOk (0 : BitVec 8).toNat) false v) ∧ (∃ v, ReadForm (.sgstat ⟨0, 7, 3, 4⟩) 7 3 true true v) ∧
    SeqRuns (seqState (Sequencer.start 0)) { tBlk 0 [] with seq := some (Sequencer.start 0) } (Sequencer.start 0) 7 false :=
  ⟨carRuns _ rfl rfl rfl (by decide) rfl rfl rfl, by decide, rfl, ⟨_, .rdid _⟩, ⟨_, .sgstat _⟩, seqRunsOf (seqTurnOf _ rfl rfl rfl rfl rfl rfl)⟩

/-- The block with barrier 1 counting 2 arrivals, and ring 1 of two slots of 256 bytes at offset 0x100: one ACQUIRED, then one PUBLISHED. -/
def tRing (a b : Nat) : Ring :=
  { Ring.empty with init := 0x0001000100000100, states := vset (vset (Vector.replicate 16 0) 0 a) 1 b, taken := 1 }
def syncBlk (cars : List Caravan) (a b : Nat) : Block :=
  { tBlk 0 cars with bars := vset (tBlk 0 cars).bars 1 ⟨2, 1, 5⟩, rings := vset (tBlk 0 cars).rings 1 (tRing a b) }
def syncState (c : Caravan) (a b : Nat) : State := tState (syncBlk [c] a b) (.car 7 0)

theorem witness_CopyIsAcceptedWholeAndHeld :
    let c := withV (withV { tCar false with hints := repGroup (some (6, 1, 0)) } 3 64) 4 0
    let s := syncState c 0 2
    let f : FmtR := ⟨0, 2, 7, 3, 4, 1⟩
    let lanes := (lanesOf (c.active 7 false)).flatMap fun t => (List.range (repCount (some (6, 1, 0)) + 1)).map (copyLane c f (some (6, 1, 0)) t)
    CopyForm (.cpyL2l f) f .l2l ∧ Turn s (syncBlk [c] 0 2) c (repGroup (some (6, 1, 0)) ++ negpGroup false) ∧ c.vector = false ∧
    f.b.toNat < (syncBlk [c] 0 2).nbar ∧ (vget (syncBlk [c] 0 2).bars f.b.toNat).n ≠ 0 ∧
    (∃ cs, s.checkCopy s.cur .l2l 16 lanes = (none, cs) ∧ s.copyTag 16 cs = .ok none ∧ s.copyReach s.cur 16 cs = none ∧
      cs.any (fun y => y.src.isFar || y.dst.isFar) = false) ∧ s.copyCount 0 < 256 ∧ Unbound s ∧ s.escorted s.cur = false ∧ Quiet c :=
  ⟨.cpyL2l _, turnOf _ rfl rfl rfl rfl rfl (by decide) rfl rfl rfl, rfl, by decide, by decide, ⟨_, by rfl, by rfl, by decide, by decide⟩, by decide, rfl, by decide, quietOf _ rfl⟩

theorem witness_RingInitFreesEverySlot :
    let c := withS (tCar false) 3 0x0001000100000E00
    Runs (carState c) (tBlk 0 [c]) c 7 false ∧ Quiet c ∧ (let v := c.regs.rd c.plv 3
      v.extractLsb' 52 12 = 0 ∧ (v.extractLsb' 0 32).toNat + ((v.extractLsb' 48 4).toNat + 1) * ((v.extractLsb' 32 16).toNat * 256) = (tBlk 0 [c]).lsg) ∧
    (vget (tBlk 0 [c]).rings 1).init = 0 :=
  ⟨carRuns _ rfl rfl rfl (by decide) rfl rfl rfl, quietOf _ rfl, by decide, by decide⟩

theorem witness_RingSlotIsClaimedOrPut :
    let c := withS (tCar true) 3 0x100
    let x := syncBlk [c] 0 2
    let y := syncBlk [c] 1 3
    Runs (syncState c 0 2) x c 7 false ∧ Quiet c ∧ 1 < x.nring ∧ c.status = .running ∧ (vget x.rings 1).init ≠ 0 ∧
    (vget (vget x.rings 1).states ((vget x.rings 1).acquired.toNat % (vget x.rings 1).slots) = 0 ∧ x.ringAhead 1 0 none = false) ∧
    (vget (vget x.rings 1).states ((vget x.rings 1).taken.toNat % (vget x.rings 1).slots) = 2 ∧ x.ringAhead 1 2 none = false) ∧
    Runs (syncState c 1 3) y c 7 false ∧ (y.claimed 1).init ≠ 0 ∧
    ((y.claimed 1).slotAt 0x100 = some 0 ∧ vget (y.claimed 1).states 0 = 1) ∧ ((y.claimed 1).slotAt 0x200 = some 1 ∧ vget (y.claimed 1).states 1 = 3) :=
  ⟨runsOf (turnOf _ rfl rfl rfl rfl rfl (by decide) rfl rfl rfl), quietOf _ rfl, by decide, rfl, by decide, ⟨by decide, by decide⟩, ⟨by decide, by decide⟩,
   runsOf (turnOf _ rfl rfl rfl rfl rfl (by decide) rfl rfl rfl), by decide, ⟨by decide, by decide⟩, by decide, by decide⟩

theorem witness_ArrivalIsHeldOrMadeAtOnce :
    let x := syncBlk [tCar true] 0 2
    let q := Sequencer.start 0x2000
    let y := { syncBlk [] 0 2 with seq := some q }
    1 < x.nbar ∧ (vget x.bars 1).n ≠ 0 ∧ Runs (syncState (tCar true) 0 2) x (tCar true) 7 false ∧
    (0 : BitVec 2) ≠ 3 ∧ (5 : BitVec 6).toNat ≠ 0 ∧ Quiet (tCar true) ∧
    SeqRuns (tState y (.seq 7)) y q 7 false ∧ (tState y (.seq 7)).pendingMx y = [] :=
  ⟨by decide, by decide, runsOf (turnOf _ rfl rfl rfl rfl rfl (by decide) rfl rfl rfl), by decide, by decide, quietOf _ rfl,
   seqRunsOf (seqTurnOf _ rfl rfl rfl rfl rfl rfl), by decide⟩

theorem witness_BarrierSetUpAndWaitedOn :
    let c := withS (withS (tCar true) 3 65535) 4 4
    let x := syncBlk [c] 0 2
    let s := syncState c 0 2
    Quiet c ∧ Runs s x c 7 false ∧ c.regs.rd c.plv 3 = 65535 ∧ s.barBusy x 1 = false ∧ s.barBusy x 3 = false ∧ c.phase = none ∧
    ((vget x.bars 1).p - (c.regs.rd c.plv 4).setWidth 32 = 1) ∧ (vget x.bars 1).count + 1 = (vget x.bars 1).n ∧
    (vget { x with bars := vset x.bars 1 ⟨3, 1, 5⟩ }.bars 1).count + 1 ≠ 3 ∧
    (let q := { Sequencer.start 0x2000 with g := vset (Sequencer.start 0x2000).g 1 4 }
     let y := { syncBlk [] 0 2 with seq := some q }
     let u := tState y (.seq 7)
     SeqRuns u y q 7 false ∧ u.pendingMx y = [] ∧ u.barBusy y 1 = false ∧ 0 < (q.rd 1).toNat ∧ (q.rd 1).toNat < 65536 ∧ q.phase = none ∧
       (vget y.bars 1).n ≠ 0 ∧ ((vget y.bars 1).p - (q.rd 1).setWidth 32).toNat = 1 ∧ (vget y.bars 1).count + 1 = (vget y.bars 1).n) :=
  ⟨quietOf _ rfl, runsOf (turnOf _ rfl rfl rfl rfl rfl (by decide) rfl rfl rfl), by decide, by decide, by decide, rfl, by decide, by decide, by decide,
   seqRunsOf (seqTurnOf _ rfl rfl rfl rfl rfl rfl), by decide, by decide, by decide, by decide, rfl, by decide, by decide, by decide⟩

theorem witness_ScopeBarrierCountsOnceAndCompletes :
    let c := tCar true
    let d := { tCar true with phase := some ⟨0x40, 3, 0⟩, scope := vset (tCar true).scope 0 1 }
    ScopeForm (.bbar ⟨0, 7, 3⟩) 7 3 0 0x40 ∧ ScopeForm (.cbar ⟨0, 1, 7, 3⟩) 7 3 3 0x45 ∧ Runs (carState c) (tBlk 0 [c]) c 7 false ∧ Quiet c ∧ c.phase = none ∧
    ({ tBlk 0 [c] with convoys := [none, some ⟨0, 0, [0]⟩] }.convoys.getD 1 none).isSome ∧
    Runs (carState d) (tBlk 0 [d]) d 7 false ∧ (carState d).scopeDone (tBlk 0 [d]) 0x40 0 = true ∧
    ((tBlk 0 [c]).cars.map (·.n)).Nodup ∧ vget c.scope 0 ≠ BitVec.allOnes 32 ∧
    (let q := { Sequencer.start 0x2000 with phase := some ⟨0x40, 3, 0⟩, scope := vset (Sequencer.start 0x2000).scope 0 1 }
     let y := { tBlk 0 [] with seq := some q }
     SeqRuns (tState y (.seq 7)) y q 7 false ∧ (tState y (.seq 7)).pendingMx y = [] ∧ (tState y (.seq 7)).scopeDone y 0x40 0 = true ∧
       (Sequencer.start 0x2000).phase = none) :=
  ⟨.bbar _, .cbar _, carRuns _ rfl rfl rfl (by decide) rfl rfl rfl, quietOf _ rfl, rfl, by decide, carRuns _ rfl rfl rfl (by decide) rfl rfl rfl, by decide, by decide, by decide,
   seqRunsOf (seqTurnOf _ rfl rfl rfl rfl rfl rfl), by decide, by decide, rfl⟩

theorem witness_FenceDropsUntrackedLines :
    Runs (carState (tCar true)) (tBlk 0 [tCar true]) (tCar true) 7 false ∧ Quiet (tCar true) ∧ (carState (tCar true)).globalWrites = [] :=
  ⟨carRuns _ rfl rfl rfl (by decide) rfl rfl rfl, quietOf _ rfl, rfl⟩

/-- A gang launch with one pipe of depth 4 between its kernels, holding some entries. -/
def tPipe (es : List (List Byte)) : Pipe := { depth := 4, popk := 1, pushk := 1, feed := 0, drain := 0, feedq := 0, entries := es, closed := false }
def gangLaunch (es : List (List Byte)) : Launch := { tLaunch with gang := true, kernels := [Kernel.boot], pipes := [tPipe es] }
def gangState (c : Caravan) (es : List (List Byte)) : State :=
  { syncState c 0 2 with launches := [Launch.boot, gangLaunch es]
                         bundles := [⟨1, 1, 5, 0, [16], 0, 0⟩] }

theorem witness_BundleIsDeclaredEnteredAndLeft :
    let c := withS (tCar true) 4 0x4000000000
    let s := memState c
    let d := withS (tCar true) 4 1
    Runs s (tBlk 0 [c]) c 7 false ∧ Quiet c ∧ (∃ head s1, (s.settleWho s.cur).readWords s.cur [] 0x4000000000 1 = (none, head, s1) ∧ leNat head = 0) ∧
    (∃ head s1 bs s2, let t : State := { s with mem := [(0x80000, 1)] }
      (t.settleWho t.cur).readWords t.cur [] 0x4000000000 1 = (none, head, s1) ∧ leNat head = 1 ∧ s1.readWords t.cur [] 0x4000000000 3 = (none, bs, s2)) ∧
    s.launch? 1 = some tLaunch ∧
    Runs (gangState d []) (syncBlk [d] 0 2) d 7 false ∧ (gangState d []).ownHandle (.car 7 0) 1 = some ⟨1, 1, 5, 0, [16], 0, 0⟩ ∧
    (syncBlk [d] 0 2).handles.length < 32 ∧ (gangState d []).pipeFor (.car 7 0) 0 true = .ok (gangLaunch [], tPipe []) ∧
    (gangState d []).pipeClosed (gangLaunch []) 0 = false ∧ (gangState d []).pipeUsed (gangLaunch []) 0 < 4 :=
  ⟨runsOf (turnOf _ rfl rfl rfl rfl rfl (by decide) rfl rfl rfl), quietOf _ rfl, ⟨_, _, by rfl, by decide⟩, ⟨_, _, _, _, by rfl, by decide, by rfl⟩, by decide,
   runsOf (turnOf _ rfl rfl rfl rfl rfl (by decide) rfl rfl rfl), by decide, by decide, by rfl, by decide, by decide⟩

theorem witness_PopTakesOldestEntry :
    let c := tCar true
    let e : List Byte := List.replicate 32 1
    Runs (gangState c [e]) (syncBlk [c] 0 2) c 7 false ∧ Quiet c ∧
    (gangState c [e]).pipeFor (.car 7 0) 0 false = .ok (gangLaunch [e], tPipe [e]) ∧ (gangState c [e]).launch? 1 = some (gangLaunch [e]) ∧
    (tPipe [e]).entries = e :: [] ∧ (gangState c []).pipeFor (.car 7 0) 0 false = .ok (gangLaunch [], tPipe []) ∧
    ({ gangState c [] with launches := [Launch.boot, { gangLaunch [] with pipes := [{ tPipe [] with closed := true }] }] } : State).pipeClosed
      { gangLaunch [] with pipes := [{ tPipe [] with closed := true }] } 0 = true :=
  ⟨runsOf (turnOf _ rfl rfl rfl rfl rfl (by decide) rfl rfl rfl), quietOf _ rfl, by rfl, by decide, rfl, by rfl, by decide⟩

/-- A graph bound to a slot of tenant 5, and perhaps unbound with accesses still on their way. -/
def bound (s : State) (slot : Nat) (closed : Bool) : State :=
  s.modTenant 5 fun t => { t with graphs := [⟨slot, 0, [], [], 0, closed⟩] }
/-- A caravan whose oldest epoch is closed and holds a bind of slot 15, or an unbind. -/
def bindCar (image : Option Nat) : Caravan :=
  { tCar true with epochs := [{ tEpoch (.sgbind 3 0 5 15 image) with pend := [⟨.u 3, .held⟩] }] }

set_option maxRecDepth 4096 in
theorem witness_GraphIsBoundAndUnbound :
    let c := withS (withS (tCar true) 3 15) 4 0
    let d := withS (withS (tCar true) 3 15) 4 0x4000000000
    let s := memState d
    Runs (carState c) (tBlk 0 [c]) c 7 false ∧ Quiet c ∧ c.vector = true ∧ (carState c).escorted (.car 7 0) = false ∧ (carState c).fw.phase ≠ .paused ∧
    (0 : BitVec 2) ≠ 3 ∧ (carState c).slotInUse 5 15 (some (.car 7 0)) = false ∧
    (∀ closed, Runs (bound s 15 closed) (tBlk 0 [d]) d 7 false) ∧ ((bound s 15 false).openGraph? ((bound s 15 false).tenantOfWho (.car 7 0)) 15).isSome ∧
    (bound s 15 false).slotTaken ((bound s 15 false).tenantOfWho (.car 7 0)) 15 = true ∧
    Runs s (tBlk 0 [d]) d 7 false ∧ (s.heldOf (.car 7 0)).any Held.isBind = false ∧ s.slotTaken (s.tenantOfWho (.car 7 0)) 15 = false ∧
    (s.readImage (.car 7 0) (s.heldOf (.car 7 0)) 0x4000000000).1 = none ∧
    (∀ image, let k := bindCar image
      (carState k).car? 7 0 = some k ∧ k.late = [] ∧ ∃ e, k.epochs = [e] ∧ e.closed = true ∧ e.acts = [.sgbind 3 0 5 15 image] ∧ e.pend = [⟨.u 3, .held⟩]) ∧
    (carState (bindCar none)).slotInUse 5 15 = false ∧ ((bound (carState (bindCar (some 0))) 15 false).openGraph? 5 15).isSome ∧
    (let k := bindCar (some 0x4000000000)
     (memState k).slotTaken 5 15 = false ∧ ((memState k).readImage (.car 7 0) k.held 0x4000000000).1 = none ∧
       ∃ img s1, (memState k).readImage (.car 7 0) [] 0x4000000000 = (none, img, s1)) ∧
    (let k := bindCar (some 0x5000000000)
     (memState k).slotTaken 5 15 = false ∧ ((memState k).readImage (.car 7 0) k.held 0x5000000000).1.isSome) ∧
    (let l := { tCar true with late := [.sgbind 3 0 5 15 none] }
     let p : State := { carState l with fw := { Firmware.reset with phase := .paused } }
     p.car? 7 0 = some l ∧ l.late = .sgbind 3 0 5 15 none :: [] ∧ p.fw.phase = .paused) :=
  ⟨carRuns _ rfl rfl rfl (by decide) rfl rfl rfl, quietOf _ rfl, rfl, by decide, by decide, by decide, by decide,
   fun _ => runsOf (turnOf _ rfl rfl rfl rfl rfl (by decide) rfl rfl rfl), by decide, by decide,
   runsOf (turnOf _ rfl rfl rfl rfl rfl (by decide) rfl rfl rfl), by decide, by decide, by decide, fun _ => ⟨rfl, rfl, _, rfl, rfl, rfl, rfl⟩, by decide, by decide,
   ⟨by decide, by decide, _, _, by rfl⟩, ⟨by decide, by decide⟩, rfl, rfl, rfl⟩


/-- Code of launch 1 on core 0: `land` of a reconvergence address at 24, `join` to 40 at 28, `land` at 32. -/
def tCode : List W32 := [0, 0, 0, 0, 0, 0, 0xD8000004, 0xD4700003, 0xD8000002, 0, 0]
/-- A caravan at pc 16 of that code. -/
def at16 (c : Caravan) : Caravan := { c with regs := { c.regs with pc := 16 } }
def codeState (c : Caravan) : State :=
  { carState c with cores := [{ CoreSt.empty 0 with overlays := [{ launch := 1, n := 0, words := tCode }] }, CoreSt.empty 256] }

theorem witness_UniformTransferMovesOrTraps :
    let c := at16 (tCar true)
    let s := codeState c
    TransferForm (.bra ⟨0, 7, 4⟩) 7 none (fun r _ _ => (some (branchTo r.pc 4), r)) false ∧ Turn s (tBlk 0 [c]) c [] ∧ condOk 7 false ∧
    condHolds c.regs.c 7 false = true ∧ condHolds c.regs.c 0 false = false ∧ condOk 0 false ∧
    s.targetStep s.cur (branchTo c.regs.pc 4) false = 0 ∧ s.targetStep s.cur 28 true = 4 ∧ s.targetStep s.cur 44 false = 1 ∧ s.targetStep s.cur 30 false = 2 ∧
    ({ s with mem := [(0x80004, 16)]
              cores := [{ CoreSt.empty 0 with tlb := [⟨0, 1, tLeaf.base, tLeaf⟩] }, CoreSt.empty 256]
              launches := [Launch.boot, { tLaunch with cimg := 0x4000000000 }] } : State).targetStep s.cur 0 false ≠ 0 ∧
    (let q := Sequencer.start 16
     let y := { tBlk 0 [] with seq := some q }
     let u : State := { s with blocks := [y], cur := .seq 7 }
     SeqTransfer (.bra ⟨0, 7, 4⟩) 7 none (fun q _ => (some (branchTo q.pc 4), q)) false [] ∧ SeqTurn u y q [] ∧ condHolds q.c 7 false = true ∧
       u.targetStep u.cur (branchTo q.pc 4) false = 0 ∧ u.targetStep u.cur 44 false = 1) :=
  ⟨.bra _, turnOf _ rfl rfl rfl rfl rfl (by decide) rfl rfl rfl, ⟨by decide, by decide⟩, rfl, rfl, ⟨by decide, by decide⟩, by decide, by decide, by decide, by decide, by decide,
   .bra _, seqTurnOf _ rfl rfl rfl rfl rfl rfl, rfl, by decide, by decide⟩

/-- Threads 0 and 1 active, predicate 0 holding thread 0, and a stack. -/
def twoThreads (c : Caravan) (stack : List StackEntry) : Caravan :=
  { c with regs := { c.regs with m := 3, p := vset c.regs.p 0 1, stack := stack } }

theorem witness_DivergenceAndJoin :
    let c := twoThreads (at16 (tCar true)) []
    let e : StackEntry := ⟨32, 1, 40, true⟩
    let d := twoThreads { tCar true with regs := { tRegs with pc := 28 } } [⟨32, 0, 40, true⟩, e]
    Turn (codeState c) (tBlk 0 [c]) c [] ∧ c.active 0 false ≠ 0 ∧ c.regs.m &&& ~~~(c.active 0 false) ≠ 0 ∧ c.active 1 false = 0 ∧
    branchTo c.regs.pc 4 = 32 ∧ (codeState c).targetStep (.car 7 0) 32 false = 0 ∧ (codeState c).codeFor (.car 7 0) 28 = .word 0xD4700003 ∧
    (0xD4700003 : W32).extractLsb' 25 7 = 0x6A ∧
    Turn (codeState d) (tBlk 0 [d]) d [] ∧ branchTo d.regs.pc 3 = 40 ∧ (codeState d).targetStep (.car 7 0) 32 false = 0 ∧
    (∀ y ∈ [(⟨32, 0, 40, true⟩ : StackEntry)], y.mask &&& ~~~d.regs.e = 0) ∧ e.mask &&& ~~~d.regs.e ≠ 0 ∧
    (∀ y ∈ d.regs.stack.head?, y.rpc.toNat = 40) ∧ (codeState d).targetStep (.car 7 0) 40 false = 0 :=
  ⟨turnOf _ rfl rfl rfl rfl rfl (by decide) rfl rfl rfl, by decide, by decide, by decide, by decide, by decide, by decide, by decide,
   turnOf _ rfl rfl rfl rfl rfl (by decide) rfl rfl rfl, by decide, by decide, by decide, by decide, by decide, by decide⟩

theorem witness_IndirectBranchRunsLowestGroup :
    let c := twoThreads (at16 (tCar true)) []
    let c := { c with regs := { c.regs with v := vset c.regs.v 4 (vset (vset VReg.zero 0 32) 1 24) } }
    let s := codeState c
    Turn s (tBlk 0 [c]) c [] ∧ c.active 7 false ≠ 0 ∧ c.active 1 false = 0 ∧
    (∀ l ∈ (lanesOf (c.active 7 false)).map fun t => (t, (lane c.regs 4 t).toNat), s.targetStep s.cur l.2 true = 0 ∧
      ∃ j, s.codeFor s.cur l.2 = .word j ∧ branchTo (BitVec.ofNat 64 l.2) (j.extractLsb' 0 20) = 40) ∧
    brxGroups (((lanesOf (c.active 7 false)).map fun t => (t, (lane c.regs 4 t).toNat)) ++
      ((lanesOf (c.regs.m &&& ~~~(c.active 7 false))).map fun t => (t, c.regs.pc.toNat + 4))) = (24, 2) :: [(32, 1)] ∧
    c.regs.stack.length + 1 + 1 ≤ 32 := by
  refine ⟨turnOf _ rfl rfl rfl rfl rfl (by decide) rfl rfl rfl, by decide, by decide, ?_, by decide, by decide⟩
  intro l h
  have : l ∈ [(0, 32), (1, 24)] := h
  simp only [List.mem_cons, List.not_mem_nil, or_false] at this
  rcases this with rfl | rfl
  · exact ⟨by decide, _, by rfl, by decide⟩
  · exact ⟨by decide, _, by rfl, by decide⟩

theorem witness_ExitEndsThreadsCaravanAndBlock :
    let c := twoThreads (at16 (tCar true)) [⟨32, 4, 40, true⟩]
    let d := tCar true
    let q := Sequencer.start 16
    Turn (codeState c) (tBlk 0 [c]) c [] ∧ Quiet c ∧ c.active 0 false ≠ 0 ∧ c.regs.m &&& ~~~(c.active 0 false) ≠ 0 ∧ c.active 1 false = 0 ∧
    c.active 7 false ≠ 0 ∧ c.regs.m &&& ~~~(c.active 7 false) = 0 ∧ resumeFrom (c.regs.e ||| c.active 7 false) c.regs.stack = some (32, 4, []) ∧
    (codeState c).targetStep (.car 7 0) 32 false = 0 ∧
    Turn (carState d) (tBlk 0 [d]) d [] ∧ resumeFrom (d.regs.e ||| d.active 7 false) d.regs.stack = none ∧ (tBlk 0 [d]).ended = false ∧
    SeqRuns (seqState q) { tBlk 0 [] with seq := some q } q 7 false ∧ (seqState q).pendingMx { tBlk 0 [] with seq := some q } = [] :=
  ⟨turnOf _ rfl rfl rfl rfl rfl (by decide) rfl rfl rfl, quietOf _ rfl, by decide, by decide, by decide, by decide, by decide, by decide, by decide,
   carTurn _ rfl rfl rfl (by decide) rfl rfl rfl, by decide, rfl, seqRunsOf (seqTurnOf _ rfl rfl rfl rfl rfl rfl), by decide⟩

theorem witness_MatrixInstructionIsGivenToTheArray :
    let q := { Sequencer.start 16 with hints := modGroup 0 true false }
    let x := { tBlk 0 [] with seq := some q }
    let r := { Sequencer.start 16 with given := true }
    let y := { tBlk 0 [] with seq := some r }
    (∃ op, MatrixForm (.mma ⟨0, 7, 1, 2, 3⟩) 7 true 1 [2, 3] true op ∧ (mxIssueTrap (tState x (.seq 7)) x (op true q 7)).isSome) ∧
    (∃ op, MatrixForm (.mzero ⟨0, 7, 0, 1⟩) 7 true 1 [] false op ∧ mxIssueTrap (seqState (Sequencer.start 16)) { tBlk 0 [{ tCar true with vb := 8 }] with seq := some (Sequencer.start 16) }
      (op false (Sequencer.start 16) 7) = none) ∧
    SeqTurn (tState x (.seq 7)) x q (modGroup 0 true false) ∧ condOk 7 false ∧ condHolds q.c 7 false = true ∧ 1 < x.vectors * x.tilesPer ∧
    (tState x (.seq 7)).core? x.core = some (CoreSt.empty 0) ∧ q.given = false ∧
    SeqTurn (tState y (.seq 7)) y r [] ∧ r.given = true ∧ (∀ z ∈ (tState y (.seq 7)).pendingMx y, z.stage = 2 ∧ z.hold = false) :=
  ⟨⟨_, .mma _, by decide⟩, ⟨_, .mzero _, by decide⟩, seqTurnOf _ rfl rfl rfl rfl rfl rfl, ⟨by decide, by decide⟩, rfl, by decide, by decide, rfl,
   seqTurnOf _ rfl rfl rfl rfl rfl rfl, rfl, by decide⟩

theorem witness_SliceMovesBetweenTileAndRegister :
    let c := { tCar true with vb := 8 }
    SliceRead (.mcolRead ⟨0, 7, 3, 0, 63, 1⟩) ⟨0, 7, 3, 0, 63, 1⟩ true ∧ SliceWrite (.mrowWrite ⟨0, 7, 3, 1, 63, 1⟩) ⟨0, 7, 3, 1, 63, 1⟩ false ∧
    Turn (carState c) (tBlk 0 [c]) c [] ∧ Quiet c ∧ c.vector = true ∧ 3 < c.vb ∧ 1 < (tBlk 0 [c]).vectors * (tBlk 0 [c]).tilesPer ∧
    (tBlk 0 [c]).tileUsable 1 = true ∧ (carState c).targeted (tBlk 0 [c]) 1 = false :=
  ⟨.mcolRead _, .mrowWrite _, carTurn _ rfl rfl rfl (by decide) rfl rfl rfl, quietOf _ rfl, rfl, by decide, by decide, by decide, by decide⟩

theorem witness_BoundaryMovesWithoutLoss :
    let c := { tCar true with vb := 8 }
    let x := { tBlk 0 [c] with vbv := 64 }
    let s := tState x (.car 7 0)
    Runs s x c 7 false ∧ Quiet c ∧ c.vector = true ∧ 16 * 256 ≤ x.window ∧
    (∀ i, i < x.tilesPer → x.positionFree c.vb i = true → x.positionFree 16 i = false →
      s.targeted x (0 + i) = false ∧ vget x.tiles (0 + i) = Tile.zero) :=
  ⟨runsOf (turnOf _ rfl rfl rfl rfl rfl (by decide) rfl rfl rfl), quietOf _ rfl, rfl, by decide, by
    intro i hi _ _
    have : i = 0 ∨ i = 1 := by have : i < 2 := hi; omega
    rcases this with rfl | rfl <;> exact ⟨by decide, rfl⟩⟩


theorem witness_ServiceCallRaisesSvc :
    let c := tCar true
    let s : State := { carState c with vfs := [{ Vf.reset 0 with tenant := 5, tvec := 0x10000000, trapen := 15 }, Vf.steward] }
    Runs s (tBlk 0 [c]) c 7 false ∧ c.plv = 0 ∧ Quiet c ∧ trapRoute s (tBlk 0 [c]) c (wholeTrap 0x40 63 0 0) = some (1, 0x10000000) :=
  ⟨runsOf (turnOf _ rfl rfl rfl rfl rfl (by decide) rfl rfl rfl), by decide, quietOf _ rfl, by decide⟩

theorem witness_WrongLevelTrapsWithPermission :
    let c := withS (atLevel (tCar true) 1) 3 2
    Turn (carState (tCar true)) (tBlk 0 [tCar true]) (tCar true) (negpGroup false) ∧ condOk 7 false ∧
    (∃ p, LevelForm (.halt ⟨0, 7⟩) 7 p ∧ ¬ p (tCar true).plv) ∧ (∃ p, LevelForm (.mfsr ⟨0, 7, 3, 0x18⟩) 7 p ∧ ¬ p (tCar true).plv) ∧
    (∃ p, LevelForm (.ovld ⟨0, 7, 3, 4⟩) 7 p ∧ ¬ p (tCar true).plv ∧ ¬ p (atLevel (tCar true) 2).plv) ∧
    Runs (carState c) (tBlk 0 [c]) c 7 false ∧ c.plv = 1 ∧ (c.regs.rd c.plv 3).extractLsb' 16 48 = 0 ∧ (c.regs.rd c.plv 3).extractLsb' 0 8 = 2 :=
  ⟨carTurn _ rfl rfl rfl (by decide) rfl rfl rfl, ⟨by decide, by decide⟩, ⟨_, .halt _, by decide⟩, ⟨_, .mfsr _ [2] (by decide), by decide⟩, ⟨_, .ovld _ (by decide), by decide, by decide⟩,
   runsOf (turnOf _ rfl rfl rfl rfl rfl (by decide) rfl rfl rfl), by decide, by decide, by decide⟩

theorem witness_TrapEntrySavesAndVectors :
    let c := { tCar true with hints := [immWord 1] }
    let s : State := { carState c with vfs := [{ Vf.reset 0 with tenant := 5, tvec := 0x10000000, trapen := 15 }, Vf.steward] }
    let s' := s.settleWho (.car 7 0)
    s.statusOf (.car 7 0) ≠ some .ended ∧ (∃ x d, s'.block? 7 = some x ∧ x.car? 0 = some d ∧ trapRoute s' x d (wholeTrap 0x41 0 0 0) = some (1, 0x10000000) ∧
      isSteward x.core = false ∧ ∃ l g, s'.launch? x.launch = some l ∧ s'.vf? l.vf = some g) :=
  ⟨by decide, _, _, by rfl, by rfl, by rfl, by decide, _, _, by rfl, by rfl⟩

theorem witness_TrapsHaveTwoRoutesOrTerminate :
    let s := carState (tCar true)
    (s.statusOf (.car 7 0) = some .running ∧ ∃ x c, (s.settleWho (.car 7 0)).block? 7 = some x ∧ x.ended = false ∧ x.car? 0 = some c ∧
      isSteward x.core = false ∧ trapRoute (s.settleWho (.car 7 0)) x c (wholeTrap 0x01 0 0 0) = none) ∧
    trapRoute (tState (tBlk 256 [tCar true]) (.car 7 0)) (tBlk 256 [tCar true]) (tCar true) (wholeTrap 0x05 0 0 0) = some (2, 0) ∧
    (∀ y ∈ [tCar true, atLevel (tCar true) 2], let u := tState (tBlk 256 [y]) (.car 7 0)
      let p : State := { u with fw := { u.fw with phase := .paused, sfring := 0x1000 } }
      u.statusOf (.car 7 0) = some .running ∧ u.fw.phase ≠ .paused ∧ p.fw.phase = .paused ∧ ((u.settleWho (.car 7 0)).core? 256).isSome ∧
      ∃ x c, (u.settleWho (.car 7 0)).block? 7 = some x ∧ x.car? 0 = some c ∧ isSteward x.core = true ∧ c.plv = y.plv ∧
        trapRoute (u.settleWho (.car 7 0)) x c (wholeTrap 0x01 0 0 0) = none) := by
  refine ⟨⟨by decide, _, _, by rfl, rfl, by rfl, by decide, by rfl⟩, by decide, ?_⟩
  intro y h
  simp only [List.mem_cons, List.not_mem_nil, or_false] at h
  rcases h with rfl | rfl <;> exact ⟨by decide, by decide, rfl, by decide, _, _, by rfl, by rfl, by decide, by decide, by decide⟩

theorem witness_ReturnRestoresStatusMaskAndPc :
    let c := { atLevel (tCar true) 1 with epc := 16, emask := 1 }
    Runs (codeState c) (tBlk 0 [c]) c 7 false ∧ Quiet c ∧ c.plv ≠ 0 ∧ (c.ecst.extractLsb' 4 2).toNat ≤ c.plv ∧
    isSteward (tBlk 0 [c]).core = false ∧ c.ecst.extractLsb' 6 58 = 0 ∧ c.emask &&& ~~~c.regs.e ≠ 0 ∧
    (codeState c).returnTrap (.car 7 0) 0 c.epc.toNat = none ∧ (tBlk 0 [c]).ended = false ∧
    (let d := { atLevel (tCar true) 2 with emask := 1 }
     Runs (tState (tBlk 256 [d]) (.car 7 0)) (tBlk 256 [d]) d 7 false ∧ Quiet d ∧ d.plv ≠ 0 ∧ isSteward (tBlk 256 [d]).core = true ∧
       (d.ecst.extractLsb' 4 2).toNat ≠ 1 ∧ d.emask &&& ~~~d.regs.e ≠ 0) :=
  ⟨runsOf (turnOf _ rfl rfl rfl rfl rfl (by decide) rfl rfl rfl), quietOf _ rfl, by decide, by decide, by decide, by decide, by decide, by decide, rfl,
   runsOf (turnOf _ rfl rfl rfl rfl rfl (by decide) rfl rfl rfl), quietOf _ rfl, by decide, by decide, by decide, by decide⟩

theorem witness_SystemRegisterIsReadAndWritten :
    let c := withS (atLevel (tCar true) 1) 4 5
    Runs (carState c) (tBlk 0 [c]) c 7 false ∧ Quiet c ∧ sysLevels 0x0F false = some [1, 2] ∧ sysLevels 0x00 true = some [1, 2] ∧ sysLevels 0x03 true = some [1, 2] ∧
    sysLevels 0x04 true = some [1] ∧ sysLevels 0x11 true = some [1] ∧ c.plv ∈ [1, 2] ∧ c.plv ∈ [1] ∧
    (∀ r ∈ [0x00, 0x01, 0x02, 0x03, 0x05, 0x10, 0x11], (carState c).sysTakes (.car 7 0) r (c.regs.rd c.plv 4).toNat = true) ∧
    (carState c).sysTakes (.car 7 0) 0x04 0x10007FFC = true ∧
    (let d := withS (atLevel (tCar true) 2) 4 1
     let s := tState (tBlk 256 [d]) (.car 7 0)
     Runs s (tBlk 256 [d]) d 7 false ∧ ∀ r ∈ [0x18, 0x19, 0x51, 0x53, 0x56, 0x57], sysLevels r true = some [2] ∧ s.sysTakes (.car 7 0) r 1 = true) :=
  ⟨carRuns _ rfl rfl rfl (by decide) rfl rfl rfl, quietOf _ rfl, by decide, by decide, by decide, by decide, by decide, by decide, by decide, by decide, by decide,
   runsOf (turnOf _ rfl rfl rfl rfl rfl (by decide) rfl rfl rfl), by decide⟩

theorem witness_InvalidationLeavesNothing :
    let c := withS (withS (atLevel (tCar true) 1) 3 1) 4 0x4000000010
    let d := withS (atLevel (tCar true) 2) 3 0xFF02
    TlbiForm (.tlbiSpace ⟨0, 7, 3, 4⟩) ⟨0, 7, 3, 4⟩ ∧ CacheopForm (.cacheopWriteback ⟨0, 7, 3, 4⟩) ⟨0, 7, 3, 4⟩ ∧ Runs (memState c) (tBlk 0 [c]) c 7 false ∧
    Quiet c ∧ c.plv ≠ 0 ∧ (c.regs.rd c.plv 3).extractLsb' 16 48 = 0 ∧ (c.regs.rd c.plv 3).extractLsb' 2 6 = 0 ∧ c.regs.rd c.plv 3 = 1 ∧
    (memState c).lookup 0 ((memState c).spaceOf (.car 7 0)).1 ((memState c).spaceOf (.car 7 0)).2 0x4000000010 = .leaf tLeaf ∧
    Runs (tState (tBlk 256 [d]) (.car 7 0)) (tBlk 256 [d]) d 7 false ∧ d.plv = 2 ∧ ((d.regs.rd d.plv 3).extractLsb' 0 2).toNat = 2 :=
  ⟨.tlbiSpace _, .cacheopWriteback _, runsOf (turnOf _ rfl rfl rfl rfl rfl (by decide) rfl rfl rfl), quietOf _ rfl, by decide, by decide, by decide, by decide, by decide,
   runsOf (turnOf _ rfl rfl rfl rfl rfl (by decide) rfl rfl rfl), by decide, by decide⟩

set_option maxRecDepth 4096 in
theorem witness_ScrubAndOverlayAnswer :
    let c := atLevel (tCar true) 2
    let d := { c with io := some ⟨[(0, 0)], none, .u 3, none⟩ }
    let s := fun c => tState (tBlk 256 [c]) (.car 7 0)
    let e := withS (withS (atLevel (tCar true) 1) 4 0x4000000000) 5 0x400000001
    let ovr : State := { memState e with cores := [{ CoreSt.empty 0 with tlb := [⟨0, 1, tLeaf.base, tLeaf⟩], overlays := [⟨1, 1, []⟩] }] }
    let full : State := { memState e with cores := [{ CoreSt.empty 0 with tlb := [⟨0, 1, tLeaf.base, tLeaf⟩], images := [(0, List.replicate 0x10000 0)] }] }
    (Runs (s c) (tBlk 256 [c]) c 7 false ∧ Quiet c ∧ c.plv = 2 ∧ c.io = none ∧ (s c).siteOn 0 47 = false ∧ (s c).siteOn 3 43 = true ∧
      (∀ y ∈ (s c).blocks, y.core = 64 * 3 + 43 → y.launch ≠ 0 → (s c).holds y = false)) ∧
    (let u : State := { s c with blocks := [tBlk 256 [c], { tBlk 235 [] with id := 8 }] }
     ∃ y ∈ u.blocks, y.core = 64 * 3 + 43 ∧ y.launch ≠ 0 ∧ u.holds y = true) ∧
    (Runs (s d) (tBlk 256 [d]) d 7 false ∧ Quiet d ∧ d.plv = 2 ∧ d.io = some { got := [(0, 0)], pending := none, dest := .u (3 : BitVec 6).toNat }) ∧
    (Runs (memState e) (tBlk 0 [e]) e 7 false ∧ Quiet e ∧ e.plv = 1 ∧ (memState e).core? 0 = some { CoreSt.empty 0 with tlb := [⟨0, 1, tLeaf.base, tLeaf⟩] } ∧
      ((memState e).settleWho (.car 7 0)).makeRoom 0 4 0 { CoreSt.empty 0 with tlb := [⟨0, 1, tLeaf.base, tLeaf⟩] } =
        some { CoreSt.empty 0 with tlb := [⟨0, 1, tLeaf.base, tLeaf⟩] } ∧
      ∃ bs s1, ((memState e).settleWho (.car 7 0)).readUnits (.car 7 0) [] 4 0x4000000000 1 = (none, bs, s1)) ∧
    (Runs ovr (tBlk 0 [e]) e 7 false ∧ (∃ k, ovr.core? 0 = some k ∧ k.overlays.any (fun o => o.launch == 1 && o.n == 1) = true)) ∧
    Runs full (tBlk 0 [e]) e 7 false ∧ (∃ k, full.core? 0 = some k ∧ (full.settleWho (.car 7 0)).makeRoom 0 4 0 k = none) := by
  refine ⟨⟨runsOf (turnOf _ rfl rfl rfl rfl rfl (by decide) rfl rfl rfl), quietOf _ rfl, by decide, rfl, by decide, by decide, ?_⟩,
    ⟨_, List.mem_cons_of_mem _ (List.mem_singleton_self _), rfl, by decide, by decide⟩,
    ⟨runsOf (turnOf _ rfl rfl rfl rfl rfl (by decide) rfl rfl rfl), quietOf _ rfl, by decide, rfl⟩,
    ⟨runsOf (turnOf _ rfl rfl rfl rfl rfl (by decide) rfl rfl rfl), quietOf _ rfl, by decide, by decide, by decide, ⟨_, _, by rfl⟩⟩,
    ⟨runsOf (turnOf _ rfl rfl rfl rfl rfl (by decide) rfl rfl rfl), ⟨_, by rfl, by decide⟩⟩,
    runsOf (turnOf _ rfl rfl rfl rfl rfl (by decide) rfl rfl rfl), ⟨_, by rfl, ?_⟩⟩
  · intro y h
    rw [List.mem_singleton.mp (show y ∈ [tBlk 256 [atLevel (tCar true) 2]] from h)]
    intro h; cases h
  · simp only [State.makeRoom, CoreSt.scratchUsed, CoreSt.empty, List.foldl_cons, List.foldl_nil, List.length_replicate]; rfl

set_option maxRecDepth 4096 in
theorem witness_WatchAndHaltWait :
    let c := withV (withS (withS (tCar true) 4 0x01F0000000000010) 6 1) 5 0
    let d := { c with wfe := some ⟨.ls 7 0, none, true, false⟩ }
    let h := atLevel (tCar true) 2
    let s := tState (tBlk 256 [h]) (.car 7 0)
    let bad : State := tState { tBlk 0 [c] with lsPoison := [0x20] } (.car 7 0)
    Runs (carState c) (tBlk 0 [c]) c 7 false ∧ Quiet c ∧
    (∃ g, (carState c).wfePlace (.car 7 0) (c.regs.rd c.plv 4).toNat = .ok g ∧
      (((carState c).settleWho (.car 7 0)).reachTrap (.car 7 0) [(0, [g.whole])] true true (fun _ => false)).isNone = true) ∧
    (∃ g, bad.wfePlace (.car 7 0) (c.regs.rd c.plv 4).toNat = .ok g ∧
      ((bad.settleWho (.car 7 0)).reachTrap (.car 7 0) [(0, [g.whole])] true true (fun _ => false)).isSome = true) ∧
    c.wfe = none ∧ c.regs.rd c.plv 5 = 0 ∧ c.regs.rd c.plv 6 ≠ 0 ∧ Runs (carState d) (tBlk 0 [d]) d 7 false ∧ d.wfe = some ⟨.ls 7 0, none, true, false⟩ ∧
    Runs s (tBlk 256 [h]) h 7 false ∧ h.plv = 2 ∧ Quiet h ∧ (tBlk 256 [h]).core = 256 + (0 : Word).toNat / 32 ∧ h.n = (0 : Word).toNat % 32 ∧
    (s.blocks.map (·.id)).Nodup ∧ (∀ y ∈ s.blocks, y.id = 7) ∧
    (let k := { h with status := .waiting .halt }
     let u := tState (tBlk 256 [k]) (.car 7 0)
     u.block? 7 = some (tBlk 256 [k]) ∧ (tBlk 256 [k]).car? 0 = some k ∧ (∀ e ∈ k.epochs, e.acts = [] ∧ e.pend = []) ∧ ∀ y ∈ u.blocks, y.id = 7) := by
  refine ⟨carRuns _ rfl rfl rfl (by decide) rfl rfl rfl, quietOf _ rfl, okAnd (by decide), okAnd (by decide), rfl, by decide, by decide, carRuns _ rfl rfl rfl (by decide) rfl rfl rfl, rfl,
    runsOf (turnOf _ rfl rfl rfl rfl rfl (by decide) rfl rfl rfl), by decide, quietOf _ rfl, by decide, by decide, by decide, ?_, rfl, rfl, by decide, ?_⟩
  · intro y h
    rw [List.mem_singleton.mp (show y ∈ [tBlk 256 [atLevel (tCar true) 2]] from h)]; rfl
  · intro y h
    rw [List.mem_singleton.mp (show y ∈ [tBlk 256 [{ atLevel (tCar true) 2 with status := .waiting .halt }]] from h)]; rfl

/-- The instructions of the clause on bad words: one for each kind of hint word that stands before it a second time. -/
theorem witness_HintJoinsGroupAndBadWordTraps_forms :
    (∃ v, encode (.mma ⟨0, 7, 0, 1, 2⟩) = some v ∧ (v.extractLsb' 25 7).toNat < 0x7C) ∧ (∀ r, Instr.mma ⟨0, 7, 0, 1, 2⟩ ≠ .reservedHintWord r) ∧
    (∃ v, encode (.cpyL2l fR) = some v ∧ (v.extractLsb' 25 7).toNat < 0x7C) ∧
    (reservedHint (modWord 0 false false) = false ∧ reservedHint (immWord 1) = false ∧ reservedHint 0xFA4801C0 = false ∧ reservedHint 0xFE200000 = false ∧
      0x7C ≤ ((immWord 1).extractLsb' 25 7).toNat ∧ 0x7C ≤ ((0xFA4801C0 : W32).extractLsb' 25 7).toNat) ∧
    Accepts (.mma ⟨0, 7, 0, 1, 2⟩) (modWord 0 false false) ∧ Accepts (.addImm ⟨0, 7, 5, 5, 1⟩) (immWord 1) ∧ Accepts (.cpyL2l fR) 0xFA4801C0 ∧
    Accepts (.add fR) 0xFE200000 :=
  ⟨⟨_, by rfl, by decide⟩, nofun, ⟨_, by rfl, by decide⟩, ⟨by decide, by decide, by decide, by decide, by decide, by decide⟩, .mod _, .immAdd _ _,
   .rep _ fR .l2l 9 3 2 (.cpyL2l _) (by decide) _ (List.mem_singleton.mpr (by decide)), .sched _ 1⟩

set_option maxRecDepth 4096 in
theorem witness_HintJoinsGroupAndBadWordTraps :
    let c := { tCar true with hints := [immWord 1] }
    let m := modWord 0 false false
    let two := { tCar true with hints := [immWord 1] ++ immWord 1 :: [] }
    let bad := { tCar true with hints := [] ++ modWord 5 false false :: [] }
    let q := { Sequencer.start 0 with hints := [m] ++ m :: [] }
    HintForm (.sched ⟨0, 0, 0, 1⟩) (0xFE000000 ||| encodeFmtSched ⟨0, 0, 0, 1⟩) ∧ HintForm (.reservedHintWord 0xFFFFFFFF) 0xFFFFFFFF ∧
    Turn (carState c) (tBlk 0 [c]) c [immWord 1] ∧ Turn (carState two) (tBlk 0 [two]) two ([immWord 1] ++ immWord 1 :: []) ∧
    SeqTurn (seqState q) { tBlk 0 [] with seq := some q } q ([m] ++ m :: []) ∧
    Turn (carState bad) (tBlk 0 [bad]) bad ([] ++ modWord 5 false false :: []) ∧ hintFormed (modWord 5 false false) = false ∧
    0x7C ≤ ((modWord 5 false false).extractLsb' 25 7).toNat ∧ reservedHint (modWord 5 false false) = false ∧
    badHint (fun _ => true) [] [immWord 1] 0 = none ∧ ((0xDE000000 : W32).extractLsb' 25 7).toNat < 0x7C :=
  ⟨.sched _, .reserved _ (by decide), turnOf _ rfl rfl rfl rfl rfl (by decide) rfl rfl rfl,
   turnOf _ rfl rfl rfl rfl rfl (by decide) rfl rfl rfl, seqTurnOf _ rfl rfl rfl rfl rfl rfl,
   turnOf _ rfl rfl rfl rfl rfl (by decide) rfl rfl rfl, by decide, by decide, by decide,
   by decide, by decide⟩

set_option maxRecDepth 4096 in
theorem witness_StepRunsDecodedWord :
    let c := { at16 (tCar true) with hints := [immWord 1] }
    let d := at16 (tCar true)
    let e : State := { codeState d with sliceOn := true }
    ((codeState c).fw.phase ≠ .rom ∧ (codeState c).midGroup = true ∧ ∃ w, (codeState c).fetch = .word w) ∧
    (e.fw.phase ≠ .rom ∧ e.midGroup = false ∧ e.nextEvent = none ∧ e.due = [] ∧ ∃ who turn w, e.nextAgent = some (who, turn) ∧ (e.pass who turn).fetch = .word w) ∧
    (e.gateCap = false ∧ e.gateHot = []) ∧ (let k : CoreSt := { CoreSt.empty 0 with gated := Vector.replicate 5 7 }
     ({ e with cores := [k] } : State).core? 0 = some k ∧ 7 ≤ vget k.gated 2) ∧
    (∃ i rest, ({ e with agenda := [.matrixTake 0] } : State).nextEvent = some (i, rest)) ∧ (∀ f, decode 0xD2100003 ≠ .tlbiPage f) ∧
    ∀ f, decode 0xD2100003 ≠ .cacheopDropLine f :=
  ⟨⟨by decide, by decide, _, by rfl⟩, ⟨by decide, by decide, by decide, by decide, _, _, _, by rfl, by rfl⟩, ⟨rfl, rfl⟩, ⟨rfl, by decide⟩, ⟨_, _, by rfl⟩, fun f => by rw [show decode 0xD2100003 = .brd ⟨0, 1, 3⟩ by decide]; nofun,
   fun f => by rw [show decode 0xD2100003 = .brd ⟨0, 1, 3⟩ by decide]; nofun⟩

theorem witness_EveryWordDecodesBack :
    let i : Instr := .addImm ⟨3, 7, 63, 63, 255⟩
    (∃ w, encode i = some w) ∧ i.wf = true ∧ (∀ f, i ≠ .tlbiSpace f) ∧ (∀ f, i ≠ .tlbiTenant f) ∧ (∀ f, i ≠ .cacheopWriteback f) ∧
    (∀ f, i ≠ .cacheopDropAll f) ∧ ∀ v, i ≠ .unassignedEncoding v :=
  ⟨⟨_, by rfl⟩, rfl, nofun, nofun, nofun, nofun, nofun⟩


theorem witness_HomeGrantsWordsAndReadersRollBack :
    let e := { Epoch.start tRegs with marks := [.glob 0x80000] }
    let c := { tCar true with epochs := [e] }
    let s := memState c
    (0 ≤ 63 ∧ 63 < 64 ∧ 0 < 512 ∧ (s.core? 0).isSome ∧ s.mayHold 0 0x800 = true ∧ (1 : BitVec 16) ≠ s.incarnation 0 ∧ s.homeLost (dieOf 0) (s.homeOf (.glob (256 * 0x800))) = none ∧
      s.crowded 0 [0x800] = false ∧ s.isFarPackage 1040 = true ∧ inTiers (256 * 0x800) = true ∧ s.ownerOf (256 * 0x800) = 0 ∧ s.fenced.contains 1 = false ∧
      s.incarnation 513 = 0 ∧ s.incarnation 1040 = 0 ∧ s.ownerOf (256 * 0x800) ≠ 9 ∧ s.isCache 0 = true ∧ s.isCache 576 = true) ∧ (s.blocks.map (·.id)).Nodup ∧ ((tBlk 0 [c]).cars.map (·.n)).Nodup ∧
    tBlk 0 [c] ∈ s.blocks ∧ c ∈ (tBlk 0 [c]).cars ∧ (tBlk 0 [c]).core = 0 ∧ c.epochs = [e] ∧
    (e.marks.any fun l => (maskWords 0x800 1).contains l) = true :=
  ⟨by decide, by decide, by decide, List.mem_singleton.mpr rfl, List.mem_singleton.mpr rfl, rfl, rfl, by decide⟩

/-- A lane's word on a page of slot 3, whose access caravan 0 waits for. -/
def tSeg : Seg := { off := 0, len := 4, va := 0x4000000000, loc := .glob 0x80000, leaf := some { tLeaf with slot := 3 } }
def tStream : StreamReq := { id := 4, who := .car 7 0, whole := true, tenant := 5, lanes := [(0, [tSeg])], store := none, decode := false, bypass := false }
/-- A host atomic of one lane on its way. -/
def tHost : HostReq :=
  let g : Seg := { off := 0, len := 8, va := 0x4000000000, loc := .glob 0x2000000000000, leaf := some { tLeaf with pa := 0x2000000000000 } }
  { op := 0, bytes := 8, report := none, lanes := [⟨0, g, 1, 0⟩], done := 0 }

theorem witness_CompletionsReachTheirAgents :
    let p : Pend := ⟨.u 3, .u 9⟩
    let c := { tCar true with epochs := [{ Epoch.start tRegs with pend := [p] }] }
    let d := { tCar true with io := some ⟨[], some tHost, .v 3 1, none⟩ }
    let two := { tHost with lanes := tHost.lanes ++ tHost.lanes }
    let e := { tCar true with wfe := some ⟨.ls 7 0, some 5, false, false⟩ }
    let f := { tCar true with io := some ⟨[], none, .v 3 1, none⟩ }
    let u : State := { carState f with streams := [tStream] }
    let s1 : State := { u with streams := u.streams.filter fun y => y.id != 4 }
    (∀ y ∈ [c, d, e], (carState y).block? 7 = some (tBlk 0 [y]) ∧ (tBlk 0 [y]).car? 0 = some y ∧ y.status ≠ .ended ∧ (tBlk 0 [y]).closing = none) ∧
    (∃ z, c.epochs = [z] ∧ z.pend = [p] ∧ p.val ≠ .held) ∧ (d.io.bind (·.pending)) = some tHost ∧ (e.wfe.bind (·.deadline)).isSome ∧
    ((two.lanes.filter (·.seg.host)).length = 2 ∧ two.done + 1 < 2) ∧ (tHost.lanes.filter (·.seg.host)).length ≤ tHost.done + 1 ∧
    (∃ y, tHost.lanes = [y] ∧ y.seg.host = true ∧ y.seg.loc = .glob 0x2000000000000 ∧ (y.seg.leaf.bind fun l => l.secondOf y.seg.va) = none) ∧
    ((carState c).core? 0 = some (CoreSt.empty 0) ∧ (CoreSt.empty 0).escEnd ≤ (carState c).clk) ∧
    (u.streams.find? (fun y => y.id == 4) = some tStream ∧ u.currentStream tStream = true ∧ u.currentStream { tStream with inc := 1 } = false ∧ tStream.store = none ∧ u.nacked = [] ∧ tSeg.leaf = some { tLeaf with slot := 3 } ∧
      (∀ x, u.block? 7 = some x → x.closing = none) ∧ s1.reachTrap (.car 7 0) tStream.lanes true true (fun _ => false) = none ∧
      (s1.streamAccess 5 3 0x80000 0 none 4).2.ioOf (.car 7 0) = some ⟨[], none, .v 3 1, none⟩) := by
  refine ⟨?_, ⟨_, rfl, rfl, by decide⟩, by decide, by decide, ⟨by decide, by decide⟩, by decide, ⟨_, rfl, by decide, rfl, by decide⟩, ⟨by decide, by decide⟩,
    by decide, by decide, by decide, rfl, rfl, rfl, ?_, by decide, by decide⟩
  · intro y h
    simp only [List.mem_cons, List.not_mem_nil, or_false] at h
    rcases h with rfl | rfl | rfl <;> exact ⟨rfl, rfl, by decide, rfl⟩
  · intro x h
    cases h; rfl

/-- A matrix instruction of block 7 at a stage of the array. -/
def tMx (kind : MxKind) (stage : Nat) : MxOp :=
  { blk := 7, kind := kind, d := 0, a := 1, ga := 0, ga1 := 0, gb := 0, sat := false, hold := false, stage := stage, met := false, nth := 0, aFmt := 0, bFmt := 0,
    rows := [], cols := [], index := [] }
def arrayBlk : Block := { tBlk 0 [{ tCar true with vb := 8 }] with seq := some (Sequencer.start 16) }
def arrayState (m : MxOp) : State := { tState arrayBlk (.seq 7) with cores := [{ CoreSt.empty 0 with array := [m] }, CoreSt.empty 256] }

theorem witness_ArrayTakesReadsAndCompletes :
    let x := arrayBlk
    let k := fun m => { CoreSt.empty 0 with array := [m] }
    let done := fun kind => { tMx kind 2 with index := List.replicate 64 0 }
    let cv : Block := { x with convoys := [some ⟨0, 0, [0]⟩] }
    (∀ m ∈ [tMx .mma 0, tMx .mzero 0], (arrayState m).core? 0 = some (k m) ∧ (arrayState m).nextMx (k m) = some m ∧ m.kind ≠ .mmaCv ∧
      ((arrayState m).gating = true → 7 ≤ vget (k m).gated 4) ∧
      ∀ y ∈ (k m).array, y.stage ≠ 1) ∧ (arrayState (tMx .mma 0)).block? 7 = some x ∧
    (∀ m ∈ [tMx .mma 1, tMx .mst 1, tMx .mstF 1, tMx .mstI 1], (arrayState m).core? 0 = some (k m) ∧ (k m).array.find? (fun y => y.stage == 1) = some m) ∧
    x.lsPoison = [] ∧ (∀ e ∈ indexAt x 0, e = 0) ∧ x.tileUsable 0 = true ∧
    (let m := { tMx .mmag 1 with ga := 0x0040000000000000, gb := 0x0040000000000000 }
     mxCheck (arrayState m) x { m with index := indexAt x 0 } true = none) ∧
    x.closing = none ∧ (∀ m ∈ [tMx .mma 2, done .mmag, done .mst, done .mstF, done .mstI, tMx .mzero 2],
      (arrayState m).core? 0 = some (k m) ∧ (k m).array = m :: [] ∧ (arrayState m).mxReady m = true ∧ (m.kind ∈ [.mst, .mstF, .mstI] → m.index.length = 64)) ∧
    (let m := { tMx .mmaCv 2 with cols := [(0, [])] }
     let s : State := { arrayState m with blocks := [cv] }
     s.block? 7 = some cv ∧ cv.convoyOf (shapeSlot 0) = some ⟨0, 0, [0]⟩ ∧ s.mxReady m = true) := by
  refine ⟨by decide, rfl, by decide, rfl, by decide, by decide, by decide, rfl, ?_, rfl, by decide, by decide⟩
  intro m h
  simp only [List.mem_cons, List.not_mem_nil, or_false] at h
  rcases h with rfl | rfl | rfl | rfl | rfl | rfl <;> exact ⟨rfl, rfl, by decide, by decide⟩

/-- A bundle of one line of launch 1, in a state. -/
def tBundle (st : Nat) : Bundle := ⟨1, 1, 5, 0, [16], st, 0⟩
/-- Process 1 with the tables of one page in frame 1: at address 0 a dual-home leaf whose homes are frames 2 and 3 (R353 to R355). -/
def windowState (va st : Word) : State :=
  { carState (tCar true) with
    vfs := [{ Vf.reset 0 with tenant := 5, procs := [{ id := 1, ptroot := 0x80000, fmttab := 0, dhva := va, dhstat := st, switched := false, weight := 1, served := 0 }] }, Vf.steward]
    ik := { Innkeeper.reset with owners := [(1, 5), (2, 5), (3, 5)] }
    mem := [(0x80000, 0x01), (0x80001, 0x20), (0x80002, 0x08), (0x82000, 0x01), (0x82001, 0x40), (0x82002, 0x08),
            (0x84000, 0x01), (0x84001, 0x80), (0x84002, 0x08), (0x88000, 0x6F), (0x88002, 0x20), (0x88006, 0xA0), (0x8800A, 0x30)] }

theorem witness_BundlesLoadAndWindowMoves :
    let q : BundleReq := ⟨5, 0, [1], some 7, false, []⟩
    let s : State := { carState (tCar true) with bundles := [tBundle 0], bundleReqs := [q]
                                                 tenants := [{ id := 5, policy := some (List.replicate 64 1), keyHash := none, sealKey := 0, keyGen := 0, windows := [], graphs := [], reserved := [], exportCount := 0, imported := [], handles := [] }] }
    let e : Entry := ⟨1, some 1, false⟩
    let x := { tBlk 0 [tCar true] with entries := [e] }
    let t : State := { tState x (.car 7 0) with bundles := [tBundle 1] }
    (s.bundle? 1 = some (tBundle 0) ∧ s.nextRequest 5 0 = some q ∧ s.fits 5 0 [1] = true) ∧
    (t.bundle? 1 = some (tBundle 1) ∧ t.block? 7 = some x ∧ x.entries.filter (fun y => y.handle == 1 && y.pending.isSome) = [e]) ∧
    (∃ p, procIs (windowState 0x80000 0) 0 1 p ∧ (windowState 0x80000 0).windowLeaf 0 1 = none ∧ (p.dhstat.extractLsb' 0 2).toNat ≠ 1) ∧
    (∀ st ∈ [(0 : Word), 1, 2], ∃ p l, procIs (windowState 0 st) 0 1 p ∧ p.dhstat = st ∧ (windowState 0 st).windowLeaf 0 1 = some l ∧
      l.pa = 0x100000 ∧ l.pa2 = some 0x180000 ∧ (windowState 0 st).bundles = []) := by
  refine ⟨⟨by decide, by decide, by decide⟩, ⟨by decide, rfl, by decide⟩, ⟨_, by unfold procIs; rfl, by decide, by decide⟩, ?_⟩
  intro st h
  simp only [List.mem_cons, List.not_mem_nil, or_false] at h
  rcases h with rfl | rfl | rfl <;> exact ⟨_, _, by unfold procIs; rfl, rfl, by rfl, by decide, by decide, rfl⟩


/-- A state whose function 0 has a process 1 with one page: addresses 0 to 0x7FFFF, tracked, in frame 2, its tables in frame 1; queue 3
of that process stands as given. -/
def pageState (x : Queue) (ls : List Launch) : State :=
  { windowState 0 0 with
    mem := [(0x80000, 0x01), (0x80001, 0x20), (0x80002, 0x08), (0x82000, 0x01), (0x82001, 0x40), (0x82002, 0x08),
            (0x84000, 0x01), (0x84001, 0x80), (0x84002, 0x08), (0x88000, 0x2F), (0x88002, 0x20), (0x88006, 0xA0)]
    vfs := [{ Vf.reset 0 with tenant := 5, queues := [x], remap := [0x8000]
                              procs := [{ id := 1, ptroot := 0x80000, fmttab := 0, dhva := 0, dhstat := 0, switched := false, weight := 1, served := 0 }] }, Vf.steward]
    launches := Launch.boot :: ls }
/-- Queue 3, mapped and enabled, of 16 slots, process 1, with `n` slots filled. -/
def tQueue (feed : Bool) (n : Nat) : Queue :=
  { q := 3, base := 0, ctl := if feed then 0x10180 else 0x10100, tail := BitVec.ofNat 32 n, head := 0, stat := 1, emit := [], emitLost := false,
    ready := false, slices := 0, eventSent := false }
/-- A resident gang with one pipe of depth 16. -/
def feedLaunch (feed drain : Nat) (es : List (List Byte)) : Launch :=
  { tLaunch with gang := true, kernels := [Kernel.boot], pipes := [{ depth := 16, popk := 1, pushk := 0, feed := feed, drain := drain, feedq := 3, entries := es, closed := false }] }
/-- Port 0 attached to that process with its ring at address 0. -/
def portState (l : Launch) : State :=
  { pageState (tQueue true 0) [l] with ports := vset State.reset.ports 0 { Port.reset with enabled := true, vf := 0, proc := 1, ringLen := 0x4000000, wrpos := 0x100 } }

set_option maxRecDepth 8192 in
theorem witness_FramesFeedsAndEnergy :
    let frame : List Byte := List.replicate 64 0
    let body : List Byte := List.replicate 12 0 ++ [0x88, 0x08, 0x00, 0x01] ++ List.replicate 44 0
    let s := portState (feedLaunch 2 0 [])
    let e : List Byte := leBytes 8 0x100 ++ leBytes 8 64 ++ List.replicate 16 0
    let u := portState (feedLaunch 0 1 [e])
    let f := pageState (tQueue true 1) [feedLaunch 1 0 []]
    ((vget s.ports 0).enabled = true ∧ (isPause (body ++ fcsOf body) && fcsGood (body ++ fcsOf body)) = true ∧ 64 ≤ (body ++ fcsOf body).length) ∧
    ((isPause frame && fcsGood frame) = false ∧ s.portPipe 1 = none ∧ (∃ l z r, s.portPipe 0 = some (l, 0) ∧ s.launch? l.id = some l ∧ l.pipes[0]? = some z ∧
      z.closed = false ∧ s.pipeUsed l 0 < z.depth ∧ s.deviceRead 0 1 0 4 = some r ∧ reserve (vget s.ports 0) (leNat r) 256 = some 0x100)) ∧
    (∃ l z bs, u.txPipe 0 = some (l, 0) ∧ u.launch? l.id = some l ∧ l.pipes[0]? = some z ∧ z.entries = e :: [] ∧
      u.deviceRead l.vf l.proc (fieldAt e 0 8) (fieldAt e 8 2) = some bs ∧ fieldAt e 11 1 % 2 = 0) ∧
    (∃ g l p, f.vf? 0 = some g ∧ g.queue? 3 = some (tQueue true 1) ∧ f.feedPipe 0 3 = some (l, 0) ∧ f.launch? l.id = some l ∧ l.pipes[0]? = some p ∧
      p.closed = false ∧ f.pipeUsed l 0 < p.depth ∧ (tQueue true 1).serves g = true ∧ (tQueue true 1).feeds = true ∧ (tQueue true 1).filled = 1 ∧
      (f.slotBytes (tQueue true 1) 32).isSome ∧ (tQueue true 1).emit = []) ∧ { tQueue true 1 with emit := [e] }.emit = e :: [] :=
  ⟨⟨by decide, by decide +kernel, by decide⟩, ⟨by decide, by decide, _, _, _, by rfl, by decide, by rfl, rfl, by decide, by rfl, by decide⟩,
   ⟨_, _, _, by rfl, by decide, by rfl, rfl, by rfl, by decide⟩,
   ⟨_, _, _, by rfl, by rfl, by rfl, by decide, by rfl, rfl, by decide, by decide, by decide, by decide, by decide, rfl⟩, rfl⟩

/-- A queue whose head packet waits for the semaphore at address `sem` to reach `val`. -/
def semState (sem val : Byte) : State :=
  let s := pageState (tQueue false 4) []
  { s with mem := s.mem ++ [(0x2000000000030, sem)] ++ (if val = 0 then [] else [(0x2000000000038, val)]) }
/-- A grid launch of two chunks on two dies. -/
def gridLaunch (chunks : List Chunk) (cs : List Cand) : Launch := { tLaunch with kernels := [Kernel.boot], chunks := chunks, unplaced := cs, total := 32 }

theorem witness_LaunchesMoveOn :
    let l := gridLaunch [⟨0, 0, 0, 16, false⟩, ⟨1, 1, 16, 32, false⟩] []
    let s := pageState (tQueue true 0) [l]
    let m := gridLaunch [] [⟨0, 0, 0⟩]
    let t : State := { pageState (tQueue true 0) [m] with cores := [{ CoreSt.empty 0 with overlays := [⟨1, 0, tCode⟩] }, CoreSt.empty 256] }
    let d : Launch := { tLaunch with total := 1, endedBlocks := [(0, 0)], compl := 0 }
    let u := pageState (tQueue true 0) [d]
    let n : State := { pageState (tQueue true 0) [] with vfs := [Vf.reset 0, Vf.steward] }
    (carState (tCar true)).choice = none ∧ (pageState (tQueue false 4) []).fw.phase ≠ .paused ∧
    (let p : State := { pageState (tQueue false 4) [] with fw := { Firmware.reset with phase := .paused } }
     p.fw.phase = .paused ∧ p.choice.isSome) ∧
    (∃ vf proc q pri f x, (pageState (tQueue false 4) []).choice = some (vf, proc, q, pri) ∧
      (((pageState (tQueue false 4) []).withProc vf proc).noteServed vf proc q pri).vf? vf = some f ∧ f.queue? q = some x) ∧
    (∃ f, n.vf? 0 = some f ∧ f.queues = []) ∧
    (∃ f, (pageState (tQueue false 3) []).vf? 0 = some f ∧ f.queue? 3 = some (tQueue false 3) ∧ (pageState (tQueue false 3) []).headPacket f (tQueue false 3) = none) ∧
    (∀ y ∈ [((4 : Byte), (0 : Byte)), (8, 0), (8, 1)], ∃ f p, (semState y.1 y.2).vf? 0 = some f ∧ f.queue? 3 = some (tQueue false 4) ∧
      (semState y.1 y.2).headPacket f (tQueue false 4) = some p ∧ fieldAt p 48 8 = y.1.toNat ∧ fieldAt p 56 8 = y.2.toNat ∧
      ((semState y.1 y.2).withProc 0 (tQueue false 4).proc).semPlace 0 (tQueue false 4).proc (fieldAt p 48 8) = (if y.1 = 4 then none else some 0x100008) ∧
      (semState y.1 y.2).memNat 0x100008 8 = 0) ∧
    (s.launch? 1 = some l ∧ (l.chunks.filter fun z => z.die == 1 && z.untouched).getLast? = some ⟨1, 1, 16, 32, false⟩ ∧
      (l.chunks.filter fun z => z.die == 2 && z.untouched).length = 0) ∧
    (∃ f fs, s.turnOrder = f :: fs ∧ f.denseDie 0 = some 0 ∧ s.openLaunches f = [l] ∧ s.saved = [] ∧ (∀ k ∈ l.kernels, k.convoys = [] ∧ k.bundles = []) ∧
      l.chunks.find? (fun z => z.die == 0 && z.next < z.last) = some ⟨0, 0, 0, 16, false⟩) ∧
    (∃ f, s.vf? l.vf = some f ∧ s.dry f 2 = true) ∧
    (let g : Launch := { feedLaunch 2 0 [] with unplaced := [⟨0, 0, 0⟩] }
     let v := pageState (tQueue true 0) [g]
     ∃ f fs pa leaf, v.turnOrder = f :: fs ∧ f.denseDie 0 = some 0 ∧ v.openLaunches f = [g] ∧ v.launch? 1 = some g ∧ v.saved = [] ∧ v.feedError g = true ∧
       g.vf ≠ 64 ∧ g.sigsem = 0 ∧ g.binds = [] ∧ v.deviceXlate g.vf g.proc g.compl true = some (pa, leaf) ∧ g.compl + 32 ≤ leaf.base + leaf.size ∧
       leaf.secondOf g.compl = none) ∧
    (∃ f fs after, t.turnOrder = f :: fs ∧ f.denseDie 0 = some 0 ∧ t.openLaunches f = [m] ∧ f.dies[0]? = some 0 ∧ t.startAll 1 [0] [⟨0, 0, 0⟩] = some after ∧
      t.unscrubbed after f.tenant = []) ∧
    (∃ f, n.vf? n.sliceHolder = some f ∧ f.queues = [] ∧ n.timeShared f.id = false) ∧
    (u.launch? 1 = some d ∧ d.endedBlocks.length = d.total ∧ d.discarded = false ∧ d.sigsem = 0 ∧ d.vf ≠ 64 ∧ ∃ pa leaf, u.deviceXlate d.vf d.proc d.compl true = some (pa, leaf) ∧
      d.compl + 32 ≤ leaf.base + leaf.size ∧ leaf.secondOf d.compl = none) := by
  refine ⟨by decide, by decide, ⟨rfl, by decide⟩, ⟨_, _, _, _, _, _, by rfl, by rfl, by rfl⟩, ⟨_, by rfl, rfl⟩, ⟨_, by rfl, by rfl, by rfl⟩, ?_, ⟨by decide, by decide, by decide⟩,
    ⟨_, _, by rfl, by decide, by decide, rfl, by decide, by decide⟩, ⟨_, by rfl, by decide⟩,
    ⟨_, _, 0x100000, { base := 0, size := 0x80000, pa := 0x100000, pa2 := none, slot := 0, fmt := 0, tracked := true, sup := false, w := true, r := true, far := none },
      by rfl, by decide, by decide, rfl, rfl, by decide, by decide, rfl, rfl, by decide, by decide, by decide⟩, ⟨_, _, _, by rfl, by decide, by decide, by decide, by rfl, by decide⟩, ⟨_, by rfl, rfl, by decide⟩,
    ⟨by decide, rfl, rfl, rfl, by decide, 0x100000, { base := 0, size := 0x80000, pa := 0x100000, pa2 := none, slot := 0, fmt := 0, tracked := true, sup := false, w := true, r := true, far := none }, by decide, by decide, by decide⟩⟩
  intro y h
  simp only [List.mem_cons, List.not_mem_nil, or_false] at h
  rcases h with rfl | rfl | rfl <;> exact ⟨_, _, by rfl, by decide, by rfl, by decide, by decide, by decide, by decide⟩


/-- Function 0 in an interface state, with a slice, a report address, keys and an installed policy. -/
def ifState (st : Nat) (policy : List Byte) : State :=
  let s := carState (tCar true)
  { s with
    vfs := [{ Vf.reset 0 with tenant := 5, ifstate := st, sliceshape := 1, ifrep := 0x1000, ideKeyed := true, qcount := 4, queues := [tQueue false 1], events := [[]] }, Vf.steward]
    tenants := [{ id := 5, policy := some policy, keyHash := none, sealKey := 0, keyGen := 0, windows := [], graphs := [], reserved := [],
                  exportCount := 0, imported := [], handles := [(9, 0, 1, 0), (10, 1, 1, 0)] }]
    ik := { s.ik with owners := [(1, 5)], sessions := [⟨3, 5, true, 0⟩] } }

theorem witness_LinksFailAndRecover :
    let l := Link.reset false
    let s := tState (tBlk 0 [tCar true]) (.car 7 0)
    let u : State := { s with links := [(0, { l with tries := 8, run := 15 }), (16, Link.reset true)], nacked := [4, 6], responses := [4],
                              streams := [{ tStream with id := 5, lanes := [(0, [{ tSeg with loc := .glob 0x2000000000 }])] }], dir := [⟨9, [⟨513, 3, 2⟩]⟩] }
    s.link? 0 = some l ∧ l.tries < 8 ∧ (∃ m, u.link? 0 = some m ∧ 8 ≤ m.tries ∧ m.run = 15) ∧ 0 = u.incarnation 3 ∧ (∀ b, Config.heartbeatGood 0 0 = b ∨ Config.heartbeatGood 0 0 = !b) ∧ (u.link? 16).isSome ∧ 5 ∈ u.inFlight 16 ∧ 5 ∉ u.nacked ∧
    (4 ∈ u.nacked ∧ 4 ∈ u.responses) ∧ (6 ∈ u.nacked ∧ 6 ∉ u.responses) ∧ 1 ≠ u.mypkg ∧ u.mypkg < 16 ∧
    (∃ d ∈ u.dir, ∃ r, d.sharers.find? (fun y => y.cache == 512 + 1) = some r ∧
      ¬ (0x1000000000000 + 1 * 2 ^ 44 ≤ 256 * d.line ∧ 256 * d.line < 0x1000000000000 + (1 + 1) * 2 ^ 44) ∧ r.owned.getLsbD 1 = true) :=
  ⟨by decide, by decide, ⟨_, by rfl, by decide, rfl⟩, by decide, fun b => by cases Config.heartbeatGood 0 0 <;> cases b <;> decide, by decide, by decide, by decide, ⟨by decide, by decide⟩, ⟨by decide, by decide⟩, by decide, by decide,
   ⟨_, List.mem_singleton_self _, _, by rfl, by decide, by decide⟩⟩

theorem witness_InterfaceMovesBetweenStates :
    let s := fun st => ifState st [1]
    let m : TdispMsg := ⟨0, 3, 0, 100⟩
    (∀ st, ∃ f, (s st).vf? 0 = some f ∧ f.ifnote = 0 ∧ f.ifstate = st ∧ f.tenant ≠ 0 ∧ f.ideKeyed = true) ∧
    (∃ f, (s 0).vf? 0 = some f ∧ f.sliceshape ≠ 0 ∧ (∃ t, (s 0).tenant? f.tenant = some t ∧ t.policy.isSome) ∧ f.ifrep.toNat % 64 = 0 ∧
      inTiers f.ifrep.toNat = true ∧ (s 0).ownerOf f.ifrep.toNat = 0 ∧ lkReg f .qcount = true ∧ (s 0).reaches f true = true) ∧ (∃ f, (s 2).vf? 0 = some f ∧ (s 2).reaches f (true || configReg .qcount) = true) ∧
    Answers (s 1) ∧ (s 1).tdispOk m = true ∧ (s 1).tdispOk { m with session := 4 } = false ∧ TdispForm .lockInterface .ifcmdLock ∧
    TdispAny .getDeviceInterfaceState ∧ m.offset + m.len ≤ 128 ∧ ({ s 1 with fw := { (s 1).fw with phase := .paused } } : State).fw.phase = .paused :=
  ⟨fun _ => ⟨_, rfl, rfl, rfl, show 5 ≠ 0 by decide, rfl⟩, ⟨_, by rfl, by decide, ⟨_, by rfl, rfl⟩, by decide, by decide, by decide, by decide, by decide⟩, ⟨_, by rfl, by decide⟩, ⟨by decide, by decide, by decide⟩,
   by decide, by decide, .lock, .state, by decide, rfl⟩

theorem witness_HostReachesMemoryAndRegisters :
    let s := fun st => ifState st [1]
    let a : HostAccess := ⟨0, true, 0x80000, 2, none⟩
    (∀ st, (s st).vf? 0 = some { Vf.reset 0 with tenant := 5, ifstate := st, sliceshape := 1, ifrep := 0x1000, ideKeyed := true, qcount := 4, queues := [tQueue false 1], events := [[]] }) ∧
    (∃ f, (s 2).vf? 0 = some f ∧ (s 2).reaches f true = true ∧ (s 2).reaches f false = false ∧ (s 0).reaches { f with ifstate := 0 } false = true) ∧
    ownReg (.qstat 3) = true ∧ configReg (.qstat 3) = false ∧ (s 2).hostAdmits a = true ∧ (s 2).hostAdmits { a with store := some [1, 2] } = true ∧ (s 2).hostAdmits { a with onIde := false } = false ∧
    (s 2).hostAdmits { a with onIde := false, store := some [1, 2] } = false ∧ (tQueue false 1).q = 3 ∧ (tQueue false 1).size ≤ (16 : W32).toNat ∧
    (15 : W32).toNat < (tQueue false 1).size ∧ (0 + 1) % 128 ≠ (0 : W32).toNat % 128 ∧ (Vf.reset 0).events = [] :=
  ⟨fun _ => rfl, ⟨_, by rfl, by decide, by decide, by decide⟩, rfl, rfl, by decide, by decide, by decide, by decide, rfl, by decide, by decide, by decide, rfl⟩


/-- A policy of tenant 5 for functions 0 and 1: every command but POLICY, 176 cores of four dies, 4 queues, both ports. -/
def tPolicy : List Byte :=
  [1, 0, 0, 0, 5, 0, 0, 0, 3, 0, 0, 0, 0, 0, 0, 0, 0xFE, 0xFF, 0x0E, 0, 0xB0, 0, 15, 3] ++ List.replicate 16 0 ++ [0xE8, 3, 0, 0, 0, 0, 0, 0, 4, 0, 3] ++ List.replicate 77 0
/-- Functions 0 and 1 of tenant 5 under that policy, unlocked, no block resident, with some launches. -/
def ikState (ls : List Launch) : State :=
  let s := ifState 0 tPolicy
  { s with blocks := [], cores := [CoreSt.empty 0, CoreSt.empty 1, CoreSt.empty 256], launches := Launch.boot :: ls
           vfs := [{ Vf.reset 0 with tenant := 5, sliceshape := 1, remap := [0x8000], qcount := 4, queues := [tQueue false 1] }, { Vf.reset 1 with tenant := 5 }, Vf.steward] }
/-- A tenant's policy in host memory, its key registered. -/
def polState (key : Option (List Byte)) : State :=
  { ikState [] with mem := Memory.writeN [] 0x2000000000000 tPolicy, tenants := [{ Tenant.new 5 with keyHash := key }] }
/-- What the innkeeper reads of it. -/
def polBytes : List Byte := (polState none).peekN (.glob 0x2000000000000) 2048
theorem polBytes_key : (polBytes.drop 1024).take 512 = List.replicate 512 0 := by decide +kernel
theorem polBytes_tenant : fieldAt polBytes 4 1 = 5 := by decide +kernel

theorem witness_InnkeeperPerformsCommands :
    let l : Launch := { tLaunch with gang := true }
    let s := ikState [l]
    let e := ikState []
    let c : List Nat → List Nat → Command := fun a k => ⟨0, 1, a, k⟩
    let door := fun (b : Byte) => ({ ikState [] with mem := if b = 0 then [] else [(0x2000000000000, b)] } : State)
    (s.innkeeperHalted = false ∧ (carState (tCar true)).permit 0x01 0 = .error 1) ∧
    (∃ (f : Vf) (t u : Tenant) (g : Vf), (∀ op ∈ [1, 2, 3, 4, 5, 6, 7, 8, 9, 10, 11, 12, 13, 14, 15, 17, 18, 19], s.permit op 0 = .ok (f, t)) ∧
      e.permit 0x07 0 = .ok (f, t) ∧ f.ifstate = 0 ∧ f.id = 0 ∧ t.id = 5 ∧ 3 < t.policyField 48 2 ∧ 3 < f.qcount.toNat ∧ f.queue? 3 = some (tQueue false 1) ∧
      s.named 0 0 = .ok [1] ∧ (∃ v, s.pauseAll [1] = some v) ∧ s.areasFit [1] = true ∧ s.namedLaunch 0 1 = .ok l ∧ l.gang = true ∧ l.id = 1 ∧
      (s.tenants.flatMap (·.handles)).find? (fun y => y.1 == argOf (c [9] []) 0) = some (9, 0, 1, 0) ∧ (9, 0, 1, 0) ∈ t.handles ∧
      s.importBlobs f 5 0 1 0 = .ok s ∧ s.importBlobs f 5 0 1 1 = .error 7 ∧
      (s.tenants.flatMap (·.handles)).find? (fun y => y.1 == argOf (c [10] []) 0) = some (10, 1, 1, 0) ∧
      e.coresOk f t [0] = .ok () ∧ (∀ i, 0x80000 + 0x80000 * i < 0x100000 → e.ownerOf (0x80000 + 0x80000 * i) = t.id) ∧
      (∃ img, e.hostBytes 0 4 = some img) ∧ e.launchesOf 0 = [] ∧ e.imageFits 0 [0] (imageWords [0, 0, 0, 0]) = true ∧
      s.permit 0x08 1 = .ok (g, u) ∧ g.ifstate = 0 ∧ (∀ k ∈ [0], k ∈ f.dense.map (·.2) ∧ k ∉ g.dense.map (·.2)) ∧
      ((g.dense.map Prod.snd : List Nat) ++ [0]).length ≤ u.policyField 20 2 ∧ (∀ k ∈ (g.dense.map Prod.snd : List Nat) ++ [0], u.policyField 22 1 / 2 ^ dieOf k % 2 = 1) ∧
      s.shareable g [0] f.id = true ∧ (∃ p, s.preempt (s.blocksUsing [0]) = some p ∧
        (p.setCores f.id [] (p.imageOf f.id)).imageFits g.id ((g.dense.map Prod.snd : List Nat) ++ [0]) (s.imageOf 1) = true) ∧
      s.coresOk f t [1] = .ok () ∧ shapeOf [1] = f.sliceshape ∧
      (∃ p, s.preempt ((s.launchesOf 0).flatMap s.residentOf) = some p ∧ p.imageFits 0 [1] (s.imageOf 0) = true) ∧
      t.policyField 50 1 / 2 ^ 1 % 2 = 1) ∧
    (s.blocks.map (·.id)).Nodup ∧ s.ik.keyHalt = false ∧ frameRange 0x100000 0x180000 = some [2] ∧ (∀ o : Nat × Nat, o ∈ s.ik.owners → o.1 ∉ [2]) ∧
    frameRange 0x80000 0x100000 = some [1] ∧ (∀ n ∈ [1], s.ownerOf (n * 0x80000) = 5) ∧ 2 ≠ s.mypod ∧
    (∀ key, (polState key).hostBytes 0 2048 = some polBytes ∧ (polState key).tenant? (fieldAt polBytes 4 1) = some { Tenant.new 5 with keyHash := key }) ∧
    some (Config.sha512 (List.replicate 512 0)) = some (Config.sha512 ((polBytes.drop 1024).take 512)) ∧ (none : Option (List Byte)) ≠ some (Config.sha512 []) ∧
    (Tenant.new 5).policy = none ∧ (polState none).policyValid polBytes 0 = true ∧
    (∃ bs, (door 1).ik.busy = false ∧ (door 1).fw.phase = .running ∧ (door 1).ik.cmd.toNat % 64 = 0 ∧ (door 1).hostBytes (door 1).ik.cmd.toNat 64 = some bs ∧
      (∀ c, commandEvent (fieldAt bs 0 1) c = some (.mapQueue c)) ∧ fieldAt bs 1 1 = 0 ∧ fieldAt bs 2 2 < 64) ∧
    (∃ bs, (door 0).hostBytes (door 0).ik.cmd.toNat 64 = some bs ∧ ∀ c, commandEvent (fieldAt bs 0 1) c = none) ∧
    (∃ k u, s.core? 0 = some k ∧ k.id = 0 ∧ s.preempt (s.blocksUsing [0]) = some u) ∧
    (let v : State := { s with blocks := [tBlk 0 [tCar true]] }
     ∃ k, v.core? 0 = some k ∧ k.id = 0 ∧ v.preempt (v.blocksUsing [0]) = none) := by
  refine ⟨⟨by decide, by rfl⟩, ⟨_, _, _, _, ?_, by rfl, rfl, rfl, rfl, by decide, by decide, by rfl, by rfl, ⟨_, by rfl⟩, by decide, by rfl, rfl, rfl, by rfl, by decide, by rfl, by rfl, by rfl, by rfl, ?_,
    ⟨_, by rfl⟩, by decide, by decide, by rfl, rfl, by decide, by decide, by decide, by decide, ⟨_, by rfl, by decide⟩, by rfl, by decide, ⟨_, by rfl, by decide⟩, by decide⟩,
    by decide, rfl, by decide, by decide, by decide, by decide, by decide, fun key => ⟨rfl, by rw [polBytes_tenant]; rfl⟩, by rw [polBytes_key], by decide, rfl, by decide +kernel,
    ⟨_, rfl, rfl, by decide, by rfl, fun _ => by rfl, by decide, by decide⟩, ⟨_, by rfl, fun _ => by rfl⟩, ⟨_, _, by rfl, by rfl, by rfl⟩, ⟨_, by rfl, by rfl, Option.isNone_iff_eq_none.mp (by decide +kernel)⟩⟩
  · intro op h
    simp only [List.mem_cons, List.not_mem_nil, or_false] at h
    rcases h with rfl | rfl | rfl | rfl | rfl | rfl | rfl | rfl | rfl | rfl | rfl | rfl | rfl | rfl | rfl | rfl | rfl | rfl <;> rfl
  · intro i h
    obtain rfl : i = 0 := by omega
    rfl

theorem witness_ResponderKeepsSessions :
    let s : State := { ifState 0 tPolicy with ik := { (ifState 0 tPolicy).ik with stage := 3 } }
    let w : State := { s with ik := { s.ik with sessions := [⟨3, 5, false, 0⟩] } }
    let m : SpdmMsg := ⟨3, 0, []⟩
    ((ifState 0 tPolicy).ik.stage < 2 ∧ 2 ≤ s.ik.stage ∧ ({ m with sel := 64 } : SpdmMsg).sel = 64) ∧ Answers s ∧ ConnectionForm .spdmGetCapabilities 0x61 1 2 ∧ QueryForm .getDigests 0x01 ∧ (ifState 0 tPolicy).ik.stage < 1 ∧ 3 ≤ s.ik.stage ∧ m.sel = 0 ∧
    s.measured { m with sel := 1 } = some Config.bootRom ∧ s.ik.sessions.length < 64 ∧ s.ik.keyHalt = false ∧
    (∃ x, w.session? m.session = some x ∧ x.established = false) ∧ SessionForm .keyUpdate ∧ s.session? 4 = none ∧
    (∃ x, s.session? m.session = some x ∧ x.established = true ∧ ∃ f, s.vf? m.sel = some f ∧ m.sel < 64 ∧ f.tenant = x.tenant) :=
  ⟨⟨by decide, by decide, rfl⟩, ⟨by decide, by decide, by decide⟩, .capabilities, .digests, by decide, by decide, rfl, by rfl, by decide, rfl, ⟨_, by rfl, rfl⟩, .update, by rfl,
   ⟨_, by rfl, rfl, _, by rfl, by decide, rfl⟩⟩

theorem witness_FirmwareStartsActivatesAndTrips :
    let s := tState (tBlk 0 [tCar true]) (.car 7 0)
    let w : State := { s with fw := { s.fw with watchdog := true } }
    let v : State := { s with fw := { s.fw with fwstat := 1, slots := Vector.replicate 2 ⟨[1], 1⟩ } }
    let a : State := { s with fw := { s.fw with activating := true } }
    let b : State := { a with ik := { a.ik with busy := true } }
    let p : State := { a with fw := { a.fw with phase := .paused } }
    let k := CoreSt.empty 256
    (s.lateImage = false ∧ s.lateSlots = [] ∧ ({ s with fw := { s.fw with readyBy := 1 }, clk := 1 } : State).lateImage = true ∧
      ({ s with fw := { s.fw with readyBy := 1, missed := [1] }, clk := 1 } : State).lateSlots = [1, 0] ∧ ({ w with clk := 5400000001 } : State).fw.watchdog = true ∧
      5400000000 < ({ w with clk := 5400000001 } : State).clk) ∧ s.fw.watchdog = false ∧ w.fw.watchdog = true ∧ w.clk ≤ 5400000000 ∧ v.fw.fwstat.extractLsb' 0 2 = 1 ∧ s.fw.fwstat.extractLsb' 0 2 = 0 ∧ v.fw.activating = false ∧
    (vget v.fw.slots v.fw.spare).bytes ≠ [] ∧ (vget s.fw.slots s.fw.spare).bytes = [] ∧ a.fw.activating = true ∧ a.fw.phase ≠ .paused ∧ a.ik.busy = false ∧
    b.ik.busy = true ∧ p.fw.phase = .paused ∧ p.fw.pauseEnd ≤ p.clk ∧ 256 ≤ k.id ∧ s.core? k.id = some k ∧ s.startRecord 1 = none :=
  ⟨⟨by decide, by decide, by decide, by decide, rfl, by decide⟩, rfl, rfl, by decide, by decide, by decide, rfl, by decide, by decide, rfl, by decide, rfl, rfl, rfl, by decide, by decide, by rfl, by rfl⟩

/-- The state after reset has every memory in its canonical form, and a step is taken from it. -/
theorem witness_StepKeepsMemoryCanonical : MemoryOk State.reset ∧ MemoryOk (carState (tCar true)) ∧ ∃ t, step (carState (tCar true)) = .next t := by
  refine ⟨⟨rfl, rfl, ?_⟩, ⟨rfl, rfl, ?_⟩, ⟨_, by rfl⟩⟩
  · decide
  · decide


/-! ## Ill-formed terms -/

theorem test_illFormed : (Instr.mrowWrite ⟨0, 7, 0, 0, 0, 0⟩).wf = false ∧ (Instr.mcolWrite ⟨0, 7, 0, 0, 0, 0⟩).wf = false ∧
    (Instr.transmitFrame 2).wf = false ∧ (Instr.ingestFrame 2 []).wf = false ∧ (Instr.unassignedEncoding 0xFD000000).wf = false ∧
    (Instr.reservedHintWord 0xFC000000).wf = false ∧ (Instr.syzstatRetrain 16).wf = false ∧ (Instr.trainingComplete 16).wf = false ∧
    (Instr.functionLevelReset 64).wf = false ∧ (Instr.ideStreamFailure 64).wf = false ∧ (Instr.ifcmdLock 64).wf = false ∧
    (Instr.ifcmdStart 64).wf = false ∧ (Instr.ifcmdStop 64).wf = false := by decide
theorem test_longFrame : (Instr.ingestFrame 0 (List.replicate 9217 0)).wf = false := by
  simp only [Instr.wf, List.length_replicate]; decide

/-! ## Words written out from the encoding tables -/

/-- Words, field by field from the top bit, and what they stand for. -/
noncomputable def words0 : List (W32 × Instr) :=
  [(0b0000000_01_000_01_001111_010010_010101, .add ⟨1, 1, 0, 15, 18, 21⟩),
   (0b0000001_10_001_10_010100_010111_011010, .sub ⟨2, 2, 1, 20, 23, 26⟩),
   (0b0000010_00_010_11_011001_011100_011111, .mul ⟨0, 3, 2, 25, 28, 31⟩),
   (0b0000011_01_011_00_011110_100001_100100, .mulhI ⟨1, 0, 3, 30, 33, 36⟩),
   (0b0000100_10_111_01_100011_100110_101001, .mulhN ⟨2, 1, 7, 35, 38, 41⟩),
   (0b0000101_00_000_10_101000_101011_101110, .mad ⟨0, 2, 0, 40, 43, 46⟩),
   (0b0000110_01_001_11_101101_110000_110011, .sad ⟨1, 3, 1, 45, 48, 51⟩),
   (0b0000111_10_010_00_110010_110101_111000, .minI ⟨2, 0, 2, 50, 53, 56⟩),
   (0b0001000_00_011_01_110111_111010_111101, .minN ⟨0, 1, 3, 55, 58, 61⟩),
   (0b0001001_01_111_10_111100_111111_000010, .maxI ⟨1, 2, 7, 60, 63, 2⟩),
   (0b0001010_10_000_11_000001_000100_000111, .maxN ⟨2, 3, 0, 1, 4, 7⟩),
   (0b0001011_00_001_11_000011_000110_001001, .and ⟨0, 1, 3, 6, 9⟩),
   (0b0001100_01_010_11_001000_001011_001110, .or ⟨1, 2, 8, 11, 14⟩),
   (0b0001101_10_011_11_001101_010000_010011, .xor ⟨2, 3, 13, 16, 19⟩),
   (0b0001110_00_111_11_010101_011000_011011, .shl ⟨0, 3, 7, 21, 24, 27⟩),
   (0b0001111_01_000_00_011010_011101_100000, .shrN ⟨1, 0, 0, 26, 29, 32⟩),
   (0b0010000_10_001_01_011111_100010_100101, .shrI ⟨2, 1, 1, 31, 34, 37⟩),
   (0b0010001_00_010_10_100100_100111_101010, .rotl ⟨0, 2, 2, 36, 39, 42⟩),
   (0b0010010_01_011_1_0_101001_101100_101111, .bfx ⟨1, 3, 0, 41, 44, 47⟩),
   (0b0010011_10_111_1_1_101110_110001_110100, .bfi ⟨2, 7, 1, 46, 49, 52⟩),
   (0b0010100_00_000_01_011_110_111001_111100, .setp ⟨0, 1, 0, 3, 6, 57, 60⟩),
   (0b0010101_01_001_11_110101_111000_111011, .sel ⟨1, 1, 53, 56, 59⟩),
   (0b0010110_10_010_11_111101_000000_000011, .lea ⟨2, 3, 2, 61, 0, 3⟩),
   (0b0010111_00_011_11_111111_000010_000000, .mov ⟨0, 3, 63, 2⟩),
   (0b0010111_01_111_11_000100_000111_000001, .not ⟨1, 7, 4, 7⟩),
   (0b0010111_10_000_10_001100_001111_000010, .neg ⟨2, 2, 0, 12, 15⟩),
   (0b0010111_00_001_11_010001_010100_000011, .abs ⟨0, 3, 1, 17, 20⟩),
   (0b0010111_01_010_00_010110_011001_000100, .popc ⟨1, 0, 2, 22, 25⟩),
   (0b0010111_10_011_01_011011_011110_000101, .clz ⟨2, 1, 3, 27, 30⟩),
   (0b0010111_00_111_10_100000_100011_000110, .ctz ⟨0, 2, 7, 32, 35⟩),
   (0b0010111_01_000_11_100101_101000_000111, .brev ⟨1, 3, 0, 37, 40⟩),
   (0b0010111_10_001_00_101010_101101_001000, .packlI ⟨2, 0, 1, 42, 45⟩),
   (0b0010111_00_010_01_101111_110010_001001, .packhI ⟨0, 1, 2, 47, 50⟩),
   (0b0010111_01_011_10_110100_110111_001010, .packlN ⟨1, 2, 3, 52, 55⟩),
   (0b0010111_10_111_11_111001_111100_001011, .packhN ⟨2, 3, 7, 57, 60⟩),
   (0b0010111_00_000_00_111110_000001_001100, .unpklI ⟨0, 0, 0, 62, 1⟩),
   (0b0010111_01_001_01_000011_000110_001101, .unpkhI ⟨1, 1, 1, 3, 6⟩),
   (0b0010111_10_010_10_001000_001011_001110, .unpklN ⟨2, 2, 2, 8, 11⟩),
   (0b0010111_00_011_11_001101_010000_001111, .unpkhN ⟨0, 3, 3, 13, 16⟩),
   (0b0010111_01_111_11_001111_010010_010000, .bcast ⟨1, 7, 15, 18⟩)]
theorem test_words0 : ∀ p ∈ words0, decode p.1 = p.2 := by decide

/-- Words, field by field from the top bit, and what they stand for. -/
noncomputable def words1 : List (W32 × Instr) :=
  [(0b0010111_10_000_11_010100_010111_010001, .pmask ⟨2, 0, 20, 23⟩),
   (0b0010111_00_001_11_011001_000000010010, .rdtid ⟨0, 1, 25⟩),
   (0b0010111_01_010_00_011110_100001_010011, .pnot ⟨1, 2, 30, 33⟩),
   (0b0111000_10_011_00_100110_101001_000000, .addU ⟨2, 0, 3, 38, 41⟩),
   (0b0111000_00_111_01_101011_101110_000001, .subU ⟨0, 1, 7, 43, 46⟩),
   (0b0111000_01_000_10_110000_110011_000010, .mulU ⟨1, 2, 0, 48, 51⟩),
   (0b0111000_10_001_11_110101_111000_000011, .mulhIU ⟨2, 3, 1, 53, 56⟩),
   (0b0111000_00_010_00_111010_111101_000100, .mulhNU ⟨0, 0, 2, 58, 61⟩),
   (0b0111000_01_011_01_111111_000010_000101, .madU ⟨1, 1, 3, 63, 2⟩),
   (0b0111000_10_111_10_000100_000111_000110, .sadU ⟨2, 2, 7, 4, 7⟩),
   (0b0111000_00_000_11_001001_001100_000111, .minIU ⟨0, 3, 0, 9, 12⟩),
   (0b0111000_01_001_00_001110_010001_001000, .minNU ⟨1, 0, 1, 14, 17⟩),
   (0b0111000_10_010_01_010011_010110_001001, .maxIU ⟨2, 1, 2, 19, 22⟩),
   (0b0111000_00_011_10_011000_011011_001010, .maxNU ⟨0, 2, 3, 24, 27⟩),
   (0b0111000_01_111_11_011010_011101_001011, .andU ⟨1, 7, 26, 29⟩),
   (0b0111000_10_000_11_011111_100010_001100, .orU ⟨2, 0, 31, 34⟩),
   (0b0111000_00_001_11_100100_100111_001101, .xorU ⟨0, 1, 36, 39⟩),
   (0b0111000_01_010_10_101100_101111_001110, .shlU ⟨1, 2, 2, 44, 47⟩),
   (0b0111000_10_011_11_110001_110100_001111, .shrNU ⟨2, 3, 3, 49, 52⟩),
   (0b0111000_00_111_00_110110_111001_010000, .shrIU ⟨0, 0, 7, 54, 57⟩),
   (0b0111000_01_000_01_111011_111110_010001, .rotlU ⟨1, 1, 0, 59, 62⟩),
   (0b0111000_10_001_1_1_000000_000011_010010, .bfxU ⟨2, 1, 1, 0, 3⟩),
   (0b0111000_00_010_11_000101_001000_010110, .leaU ⟨0, 3, 2, 5, 8⟩),
   (0b0111001_01_011_000111_001010_01001101, .addImm ⟨1, 3, 7, 10, 77⟩),
   (0b0111010_10_111_001100_001111_01010010, .shlImm ⟨2, 7, 12, 15, 82⟩),
   (0b0111011_00_000_010001_010100_01010111, .shrNImm ⟨0, 0, 17, 20, 87⟩),
   (0b0111100_01_001_010110_011001_01011100, .shrIImm ⟨1, 1, 22, 25, 92⟩),
   (0b0111101_10_010_011011_011110_01100001, .andImm ⟨2, 2, 27, 30, 97⟩),
   (0b0111110_00_011_100000_100011_01100110, .orImm ⟨0, 3, 32, 35, 102⟩),
   (0b0111111_01_111_100101_101000_01101011, .xorImm ⟨1, 7, 37, 40, 107⟩),
   (0b1000000_10_000_101010_101101_01110000, .mulImm ⟨2, 0, 42, 45, 112⟩),
   (0b1000001_00_001_11_101111_110010_000000, .movU ⟨0, 1, 47, 50⟩),
   (0b1000001_01_010_11_110100_110111_000001, .notU ⟨1, 2, 52, 55⟩),
   (0b1000001_10_011_10_111100_111111_000010, .negU ⟨2, 2, 3, 60, 63⟩),
   (0b1000001_00_111_11_000001_000100_000011, .absU ⟨0, 3, 7, 1, 4⟩),
   (0b1000001_01_000_00_000110_001001_000100, .popcU ⟨1, 0, 0, 6, 9⟩),
   (0b1000001_10_001_01_001011_001110_000101, .clzU ⟨2, 1, 1, 11, 14⟩),
   (0b1000001_00_010_10_010000_010011_000110, .ctzU ⟨0, 2, 2, 16, 19⟩),
   (0b1000001_01_011_11_010101_011000_000111, .brevU ⟨1, 3, 3, 21, 24⟩),
   (0b1000001_10_111_00_011010_011101_001000, .packlIU ⟨2, 0, 7, 26, 29⟩)]
theorem test_words1 : ∀ p ∈ words1, decode p.1 = p.2 := by decide

/-- Words, field by field from the top bit, and what they stand for. -/
noncomputable def words2 : List (W32 × Instr) :=
  [(0b1000001_00_000_01_011111_100010_001001, .packhIU ⟨0, 1, 0, 31, 34⟩),
   (0b1000001_01_001_10_100100_100111_001010, .packlNU ⟨1, 2, 1, 36, 39⟩),
   (0b1000001_10_010_11_101001_101100_001011, .packhNU ⟨2, 3, 2, 41, 44⟩),
   (0b1000001_00_011_00_101110_110001_001100, .unpklIU ⟨0, 0, 3, 46, 49⟩),
   (0b1000001_01_111_01_110011_110110_001101, .unpkhIU ⟨1, 1, 7, 51, 54⟩),
   (0b1000001_10_000_10_111000_111011_001110, .unpklNU ⟨2, 2, 0, 56, 59⟩),
   (0b1000001_00_001_11_111101_000000_001111, .unpkhNU ⟨0, 3, 1, 61, 0⟩),
   (0b1000001_01_010_00_111111_000010_010100, .cnot ⟨1, 2, 63, 2⟩),
   (0b1000010_10_011_01_010_0_00_001101_010000, .csetp ⟨2, 1, 0, 3, 2, 13, 16⟩),
   (0b1000011_00_111_100_0_10_001111_11010010, .csetpImm ⟨0, 2, 7, 4, 15, 210⟩),
   (0b1000100_01_000_11_010001_010100_010111, .madUniform ⟨1, 3, 0, 17, 20, 23⟩),
   (0b1000101_10_001_010011_000000_11010110, .rdid ⟨2, 1, 19, 214⟩),
   (0b1000110_00_010_1_0_011011_011110_100001, .bfiU ⟨0, 2, 0, 27, 30, 33⟩),
   (0b1000111_01_011_11_011101_100000_100011, .selU ⟨1, 3, 29, 32, 35⟩),
   (0b0011000_10_111_11_100101_101000_101011, .fadd ⟨2, 3, 7, 37, 40, 43⟩),
   (0b0011001_00_000_00_101010_101101_110000, .fsub ⟨0, 0, 0, 42, 45, 48⟩),
   (0b0011010_01_001_01_101111_110010_110101, .fmul ⟨1, 1, 1, 47, 50, 53⟩),
   (0b0011011_10_010_10_110100_110111_111010, .fma ⟨2, 2, 2, 52, 55, 58⟩),
   (0b0011100_00_011_11_111001_111100_111111, .fmin ⟨0, 3, 3, 57, 60, 63⟩),
   (0b0011101_01_111_00_111110_000001_000100, .fmax ⟨1, 0, 7, 62, 1, 4⟩),
   (0b0011110_10_000_01_011_110_001001_001100, .fsetp ⟨2, 1, 0, 3, 6, 9, 12⟩),
   (0b0011111_00_001_10_001000_001011_000000, .fneg ⟨0, 2, 1, 8, 11⟩),
   (0b0011111_01_010_11_001101_010000_000001, .fabs ⟨1, 3, 2, 13, 16⟩),
   (0b0011111_10_011_00_010010_010101_000010, .fclass ⟨2, 0, 3, 18, 21⟩),
   (0b0100000_00_111_01_010100_010111_011010, .faddBf16 ⟨0, 7, 20, 23, 26⟩),
   (0b0100001_01_000_01_011001_011100_011111, .fsubBf16 ⟨1, 0, 25, 28, 31⟩),
   (0b0100010_10_001_01_011110_100001_100100, .fmulBf16 ⟨2, 1, 30, 33, 36⟩),
   (0b0100011_00_010_01_100011_100110_101001, .fmaBf16 ⟨0, 2, 35, 38, 41⟩),
   (0b0100100_01_011_01_101000_101011_101110, .fminBf16 ⟨1, 3, 40, 43, 46⟩),
   (0b0100101_10_111_01_101101_110000_110011, .fmaxBf16 ⟨2, 7, 45, 48, 51⟩),
   (0b0100110_00_000_01_010_101_111000_111011, .fsetpBf16 ⟨0, 0, 2, 5, 56, 59⟩),
   (0b0100111_01_001_01_110111_111010_000000, .fnegBf16 ⟨1, 1, 55, 58⟩),
   (0b0100111_10_010_01_111100_111111_000001, .fabsBf16 ⟨2, 2, 60, 63⟩),
   (0b0100111_00_011_01_000001_000100_000010, .fclassBf16 ⟨0, 3, 1, 4⟩),
   (0b0101000_01_111_10_000110_001001_000000, .rcp ⟨1, 7, 6, 9⟩),
   (0b0101000_10_000_10_001011_001110_000001, .rsq ⟨2, 0, 11, 14⟩),
   (0b0101000_00_001_10_010000_010011_000010, .sqrt ⟨0, 1, 16, 19⟩),
   (0b0101000_01_010_10_010101_011000_000011, .ex2 ⟨1, 2, 21, 24⟩),
   (0b0101000_10_011_10_011010_011101_000100, .lg2 ⟨2, 3, 26, 29⟩),
   (0b0101000_00_111_10_011111_100010_000101, .sinpi ⟨0, 7, 31, 34⟩)]
theorem test_words2 : ∀ p ∈ words2, decode p.1 = p.2 := by decide

/-- Words, field by field from the top bit, and what they stand for. -/
noncomputable def words3 : List (W32 × Instr) :=
  [(0b0101000_01_000_10_100100_100111_000110, .cospi ⟨1, 0, 36, 39⟩),
   (0b0101000_10_001_10_101001_101100_000111, .tanh ⟨2, 1, 41, 44⟩),
   (0b0101001_00_010_11_110100_110111_10_1010, .cvtFloat ⟨0, 3, 2, 2, 52, 55, 10⟩),
   (0b0101010_01_011_00_111100_111111_001_0_11, .cvtInt ⟨1, 0, 3, 3, 1, 60, 63⟩),
   (0b0101011_10_111_10_111000_111011_111110, .cvtXF32 ⟨2, 7, 56, 59, 62⟩),
   (0b0101100_00_000_10_111101_000000_000011, .cvtF32X ⟨0, 0, 61, 0, 3⟩),
   (0b0101101_01_001_10_000010_000101_001000, .qblk ⟨1, 1, 2, 5, 8⟩),
   (0b0101110_10_010_10_000111_001010_001101, .dqblk ⟨2, 2, 7, 10, 13⟩),
   (0b0101111_00_011_00_001100_001111_010010, .swz ⟨0, 3, 12, 15, 18⟩),
   (0b0110000_01_111_10_010100_010111_011010, .lxch ⟨1, 2, 7, 20, 23, 26⟩),
   (0b0110001_10_000_11_011001_011100_011111, .lbcast ⟨2, 3, 0, 25, 28, 31⟩),
   (0b0110010_00_001_00_011110_100001_000000, .lredAdd ⟨0, 0, 1, 30, 33⟩),
   (0b0110010_01_010_01_100011_100110_000001, .lredMinI ⟨1, 1, 2, 35, 38⟩),
   (0b0110010_10_011_10_101000_101011_000010, .lredMinN ⟨2, 2, 3, 40, 43⟩),
   (0b0110010_00_111_11_101101_110000_000011, .lredMaxI ⟨0, 3, 7, 45, 48⟩),
   (0b0110010_01_000_00_110010_110101_000100, .lredMaxN ⟨1, 0, 0, 50, 53⟩),
   (0b0110010_10_001_01_110111_111010_000101, .lredAnd ⟨2, 1, 1, 55, 58⟩),
   (0b0110010_00_010_10_111100_111111_000110, .lredOr ⟨0, 2, 2, 60, 63⟩),
   (0b0110010_01_011_11_000001_000100_000111, .lredXor ⟨1, 3, 3, 1, 4⟩),
   (0b0110010_10_111_00_000110_001001_001000, .lredMinIdxI ⟨2, 0, 7, 6, 9⟩),
   (0b0110010_00_000_01_001011_001110_001001, .lredMinIdxN ⟨0, 1, 0, 11, 14⟩),
   (0b0110010_01_001_10_010000_010011_001010, .lredMaxIdxI ⟨1, 2, 1, 16, 19⟩),
   (0b0110010_10_010_11_010101_011000_001011, .lredMaxIdxN ⟨2, 3, 2, 21, 24⟩),
   (0b0110010_00_011_00_011010_011101_010000, .lredFadd ⟨0, 0, 3, 26, 29⟩),
   (0b0110010_01_111_01_011111_100010_010001, .lredFmin ⟨1, 1, 7, 31, 34⟩),
   (0b0110010_10_000_10_100100_100111_010010, .lredFmax ⟨2, 2, 0, 36, 39⟩),
   (0b0110010_00_001_11_101001_101100_010011, .lredFminIdx ⟨0, 3, 1, 41, 44⟩),
   (0b0110010_01_010_00_101110_110001_010100, .lredFmaxIdx ⟨1, 0, 2, 46, 49⟩),
   (0b0110010_10_011_01_110000_110011_011000, .lredFaddBf16 ⟨2, 3, 48, 51⟩),
   (0b0110010_00_111_01_110101_111000_011001, .lredFminBf16 ⟨0, 7, 53, 56⟩),
   (0b0110010_01_000_01_111010_111101_011010, .lredFmaxBf16 ⟨1, 0, 58, 61⟩),
   (0b0110010_10_001_01_111111_000010_011011, .lredFminIdxBf16 ⟨2, 1, 63, 2⟩),
   (0b0110010_00_010_01_000100_000111_011100, .lredFmaxIdxBf16 ⟨0, 2, 4, 7⟩),
   (0b0110011_01_011_10_001100_001111_0_00000, .lscanAdd ⟨1, 2, 3, 12, 15, 0⟩),
   (0b0110011_10_111_11_010001_010100_1_00001, .lscanMinI ⟨2, 3, 7, 17, 20, 1⟩),
   (0b0110011_00_000_00_010110_011001_0_00010, .lscanMinN ⟨0, 0, 0, 22, 25, 0⟩),
   (0b0110011_01_001_01_011011_011110_1_00011, .lscanMaxI ⟨1, 1, 1, 27, 30, 1⟩),
   (0b0110011_10_010_10_100000_100011_0_00100, .lscanMaxN ⟨2, 2, 2, 32, 35, 0⟩),
   (0b0110011_00_011_11_100101_101000_1_00101, .lscanAnd ⟨0, 3, 3, 37, 40, 1⟩),
   (0b0110011_01_111_00_101010_101101_0_00110, .lscanOr ⟨1, 0, 7, 42, 45, 0⟩)]
theorem test_words3 : ∀ p ∈ words3, decode p.1 = p.2 := by decide

/-- Words, field by field from the top bit, and what they stand for. -/
noncomputable def words4 : List (W32 × Instr) :=
  [(0b0110011_10_000_01_101111_110010_1_00111, .lscanXor ⟨2, 1, 0, 47, 50, 1⟩),
   (0b0110011_00_001_10_110100_110111_0_10000, .lscanFadd ⟨0, 2, 1, 52, 55, 0⟩),
   (0b0110011_01_010_11_111001_111100_1_10001, .lscanFmin ⟨1, 3, 2, 57, 60, 1⟩),
   (0b0110011_10_011_00_111110_000001_0_10010, .lscanFmax ⟨2, 0, 3, 62, 1, 0⟩),
   (0b0110011_00_111_01_000000_000011_0_11000, .lscanFaddBf16 ⟨0, 7, 0, 3, 0⟩),
   (0b0110011_01_000_01_000101_001000_1_11001, .lscanFminBf16 ⟨1, 0, 5, 8, 1⟩),
   (0b0110011_10_001_01_001010_001101_0_11010, .lscanFmaxBf16 ⟨2, 1, 10, 13, 0⟩),
   (0b0110100_00_010_11_001111_010010_000000, .lballot ⟨0, 2, 15, 18⟩),
   (0b0110101_01_011_01_010111_011010_000000, .lmatch ⟨1, 1, 3, 23, 26⟩),
   (0b0110101_10_111_10_011100_011111_000001, .lmatchF ⟨2, 2, 7, 28, 31⟩),
   (0b0110101_00_000_01_011110_100001_000010, .lmatchBf16 ⟨0, 0, 30, 33⟩),
   (0b0110110_01_001_11_100011_100110_000000, .lcount ⟨1, 1, 35, 38⟩),
   (0b1001000_10_010_01_101011_101110_110001, .ld ⟨2, 1, 2, 43, 46, 49⟩),
   (0b1001001_00_011_10_110000_110011_110110, .ldOffset ⟨0, 2, 3, 48, 51, 54⟩),
   (0b1001010_01_111_11_110101_111000_111011, .st ⟨1, 3, 7, 53, 56, 59⟩),
   (0b1001011_10_000_00_111010_111101_000000, .stOffset ⟨2, 0, 0, 58, 61, 0⟩),
   (0b1001100_00_001_01_111111_000010_000101, .ldu ⟨0, 1, 1, 63, 2, 5⟩),
   (0b1001101_01_010_10_000100_000111_001010, .stu ⟨1, 2, 2, 4, 7, 10⟩),
   (0b1001110_10_011_11_001001_001100_001111, .ldl ⟨2, 3, 3, 9, 12, 15⟩),
   (0b1001111_00_111_00_001110_010001_010100, .ldlOffset ⟨0, 0, 7, 14, 17, 20⟩),
   (0b1010000_01_000_01_010011_010110_011001, .stl ⟨1, 1, 0, 19, 22, 25⟩),
   (0b1010001_10_001_10_011000_011011_011110, .stlOffset ⟨2, 2, 1, 24, 27, 30⟩),
   (0b1010010_00_010_11_011101_100000_100011, .ldc ⟨0, 3, 2, 29, 32, 35⟩),
   (0b1010011_01_011_00_100010_100101_101000, .ldcU ⟨1, 0, 3, 34, 37, 40⟩),
   (0b1010100_10_111_1_0_100111_101010_000000, .amoAdd ⟨2, 7, 0, 39, 42⟩),
   (0b1010100_00_000_1_1_101100_101111_000001, .amoMinI ⟨0, 0, 1, 44, 47⟩),
   (0b1010100_01_001_1_0_110001_110100_000010, .amoMinN ⟨1, 1, 0, 49, 52⟩),
   (0b1010100_10_010_1_1_110110_111001_000011, .amoMaxI ⟨2, 2, 1, 54, 57⟩),
   (0b1010100_00_011_1_0_111011_111110_000100, .amoMaxN ⟨0, 3, 0, 59, 62⟩),
   (0b1010100_01_111_1_1_000000_000011_000101, .amoAnd ⟨1, 7, 1, 0, 3⟩),
   (0b1010100_10_000_1_0_000101_001000_000110, .amoOr ⟨2, 0, 0, 5, 8⟩),
   (0b1010100_00_001_1_1_001010_001101_000111, .amoXor ⟨0, 1, 1, 10, 13⟩),
   (0b1010100_01_010_1_0_001111_010010_001000, .amoExch ⟨1, 2, 0, 15, 18⟩),
   (0b1010100_10_011_1_1_010100_010111_001001, .amoCas ⟨2, 3, 1, 20, 23⟩),
   (0b1010101_00_111_1_0_011001_011100_000000, .amouAdd ⟨0, 7, 0, 25, 28⟩),
   (0b1010101_01_000_1_1_011110_100001_000001, .amouMinI ⟨1, 0, 1, 30, 33⟩),
   (0b1010101_10_001_1_0_100011_100110_000010, .amouMinN ⟨2, 1, 0, 35, 38⟩),
   (0b1010101_00_010_1_1_101000_101011_000011, .amouMaxI ⟨0, 2, 1, 40, 43⟩),
   (0b1010101_01_011_1_0_101101_110000_000100, .amouMaxN ⟨1, 3, 0, 45, 48⟩),
   (0b1010101_10_111_1_1_110010_110101_000101, .amouAnd ⟨2, 7, 1, 50, 53⟩)]
theorem test_words4 : ∀ p ∈ words4, decode p.1 = p.2 := by decide

/-- Words, field by field from the top bit, and what they stand for. -/
noncomputable def words5 : List (W32 × Instr) :=
  [(0b1010101_00_000_1_0_110111_111010_000110, .amouOr ⟨0, 0, 0, 55, 58⟩),
   (0b1010101_01_001_1_1_111100_111111_000111, .amouXor ⟨1, 1, 1, 60, 63⟩),
   (0b1010101_10_010_1_0_000001_000100_001000, .amouExch ⟨2, 2, 0, 1, 4⟩),
   (0b1010101_00_011_1_1_000110_001001_001001, .amouCas ⟨0, 3, 1, 6, 9⟩),
   (0b1010110_01_111_1_0_001011_001110_010001, .aappend ⟨1, 7, 0, 11, 14, 17⟩),
   (0b1011100_10_000_10_010000_010011_010110, .cpyG2l ⟨2, 2, 0, 16, 19, 22⟩),
   (0b1011101_00_001_11_010101_011000_011011, .cpyL2g ⟨0, 3, 1, 21, 24, 27⟩),
   (0b1011110_01_010_00_011010_011101_100000, .cpyL2l ⟨1, 0, 2, 26, 29, 32⟩),
   (0b1011111_10_011_01_011111_100010_100101, .cpyG2g ⟨2, 1, 3, 31, 34, 37⟩),
   (0b1100000_00_111_11_100001_100100_000000, .ringInit ⟨0, 7, 33, 36⟩),
   (0b1100000_01_000_11_100110_101001_000001, .ringAcq ⟨1, 0, 38, 41⟩),
   (0b1100000_10_001_11_101011_101110_000010, .ringPub ⟨2, 1, 43, 46⟩),
   (0b1100000_00_010_11_110000_110011_000011, .ringTake ⟨0, 2, 48, 51⟩),
   (0b1100000_01_011_11_110101_111000_000100, .ringRel ⟨1, 3, 53, 56⟩),
   (0b1100001_10_111_11_111010_111101_000000, .barInit ⟨2, 7, 58, 61⟩),
   (0b1100001_00_000_11_111111_000010_000001, .barArv ⟨0, 0, 63, 2⟩),
   (0b1100001_01_001_11_000100_000111_000010, .barWait ⟨1, 1, 4, 7⟩),
   (0b1100001_10_010_11_001001_001100_000011, .barArw ⟨2, 2, 9, 12⟩),
   (0b1100001_00_011_11000000_001110_000100, .barInval ⟨0, 3, 14⟩),
   (0b1100010_01_111_11_010011_000000000000, .bbar ⟨1, 7, 19⟩),
   (0b1100010_10_000_11_011000_000000000001, .dbar ⟨2, 0, 24⟩),
   (0b1100010_00_001_11_100000_0000_10_000010, .cbar ⟨0, 2, 1, 32⟩),
   (0b1100011_01_010_00000000000000000000, .fenceIo ⟨1, 2⟩),
   (0b1100100_10_011_11_100111_101010_000000, .bdecl ⟨2, 3, 39, 42⟩),
   (0b1100100_00_111_11_101100_101111_000001, .bentr ⟨0, 7, 44, 47⟩),
   (0b1100100_01_000_11000000_110001_000010, .bleav ⟨1, 0, 49⟩),
   (0b1100100_10_001_11_110110_111001_000011, .bstat ⟨2, 1, 54, 57⟩),
   (0b1100101_00_010_11_111110_000001_00_0000, .qpop ⟨0, 0, 2, 62, 1⟩),
   (0b1100101_01_011_11_000011_000110_01_0001, .qpopTry ⟨1, 1, 3, 3, 6⟩),
   (0b1100101_10_111_11_000101_001000_000010, .qpush ⟨2, 7, 5, 8⟩),
   (0b1100110_00_000_11_001010_001101_000000, .sgbind ⟨0, 0, 10, 13⟩),
   (0b1100110_01_001_11_001111_010010_000001, .sgstat ⟨1, 1, 15, 18⟩),
   (0b1100111_10_010_11_010100_000000000000, .rdclk ⟨2, 2, 20⟩),
   (0b1100111_00_011_11_011001_000000000001, .rdptp ⟨0, 3, 25⟩),
   (0b1100111_01_111_11_011110_000000000010, .rdenergy ⟨1, 7, 30⟩),
   (0b1101000_10_000_00000000010010100011, .bra ⟨2, 0, 1187⟩),
   (0b1101001_00_001_00000000010010101000, .brd ⟨0, 1, 1192⟩),
   (0b1101010_01_111_00000000010010101010, .join ⟨1, 1194⟩),
   (0b1101011_10_011_11000000_110010_000000, .brx ⟨2, 3, 50⟩),
   (0b1101011_00_111_11000000_110111_000001, .brxU ⟨0, 7, 55⟩)]
theorem test_words5 : ∀ p ∈ words5, decode p.1 = p.2 := by decide

/-- Words, field by field from the top bit, and what they stand for. -/
noncomputable def words6 : List (W32 × Instr) :=
  [(0b1101011_01_000_11000000_111100_000010, .ret ⟨1, 0, 60⟩),
   (0b1101100_10_111_00000000010010111110, .land ⟨2, 1214⟩),
   (0b1101101_00_010_00000000010011000110, .call ⟨0, 2, 1222⟩),
   (0b1101110_01_011_001011_000000_11001110, .loop ⟨1, 3, 11, 206⟩),
   (0b1101111_10_111_00000000000000000000, .exit ⟨2, 7⟩),
   (0b1110000_00_000_10_010101_011000_011011, .mma ⟨0, 0, 21, 24, 27⟩),
   (0b1110000_01_001_11_011010_011101_000000, .mzero ⟨1, 1, 26, 29⟩),
   (0b1110001_10_010_10_011111_100010_100101, .mmag ⟨2, 2, 31, 34, 37⟩),
   (0b1110010_00_011_00_100100_100111_101010, .mstS ⟨0, 3, 36, 39, 42⟩),
   (0b1110010_01_111_01_101001_101100_101111, .mstSAddF32 ⟨1, 7, 41, 44, 47⟩),
   (0b1110010_10_000_10_101110_110001_110100, .mstSAddI32 ⟨2, 0, 46, 49, 52⟩),
   (0b1110011_00_001_10_110011_110110_111001, .mmaCv ⟨0, 1, 51, 54, 57⟩),
   (0b1110100_01_010_11000_0_1011_1110_000001, .mrowRead ⟨1, 2, 24, 11, 14, 1⟩),
   (0b1110100_10_011_11101_1_0000_0011_000110, .mcolRead ⟨2, 3, 29, 0, 3, 6⟩),
   (0b1110101_00_111_00010_0_0101_1000_001011, .mrowWrite ⟨0, 7, 2, 5, 8, 11⟩),
   (0b1110101_01_000_00111_1_1010_1101_010000, .mcolWrite ⟨1, 0, 7, 10, 13, 16⟩),
   (0b1110101_10_001_00000000000_100_000000, .setvb ⟨2, 1, 4⟩),
   (0b1110110_00_010_000000000000_00010001, .svc ⟨0, 2, 17⟩),
   (0b1110111_01_011_00000000000000000000, .eret ⟨1, 3⟩),
   (0b1110111_10_111_00000000000000000001, .eretNobp ⟨2, 7⟩),
   (0b1110111_00_000_00000000000000000010, .eretTerm ⟨0, 0, 0⟩),
   (0b1110111_11_101_00000000000000000011, .eretTerm ⟨3, 5, 1⟩),
   (0b1111000_01_001_100101_000000_00101000, .mfsr ⟨1, 1, 37, 40⟩),
   (0b1111001_10_010_000000_101010_00101101, .mtsr ⟨2, 2, 42, 45⟩),
   (0b1111010_00_011_11_101111_110010_000000, .tlbiPage ⟨0, 3, 47, 50⟩),
   (0b1111010_01_111_11_110100_110111_000001, .scrub ⟨1, 7, 52, 55⟩),
   (0b1111010_10_000_11_111001_111100_000010, .ovld ⟨2, 0, 57, 60⟩),
   (0b1111010_00_001_11_111110_000001_000011, .cacheopDropLine ⟨0, 1, 62, 1⟩),
   (0b1111011_01_010_11_000011_000110_001001, .wfe ⟨1, 2, 3, 6, 9⟩),
   (0b1111011_10_011_00000000000000000000, .halt ⟨2, 3⟩),
   (0b1111100_0000000000000010101000111, .imm ⟨1351⟩),
   (0b1111101_001100_010101001111_10_00000, .rep ⟨12, 1359, 2⟩),
   (0b1111110000_001_0_1_01_0_100000_00000000, .mod ⟨1, 0, 1, 0, 1, 32⟩),
   (0b1111111000_0_1_0_11_00000000000000000, .sched ⟨0, 1, 0, 3⟩)]
theorem test_words6 : ∀ p ∈ words6, decode p.1 = p.2 := by decide


/-! ## Results worked out by hand or given by the spec's examples -/

/-- Thread t of v register r after one instruction of a lone caravan. -/
noncomputable def vAfter (c : Caravan) (i : Instr) (r t : Nat) : Option Word :=
  match exec i (carState c) with
  | .next s => (s.car? 7 0).map fun d => vget (vget d.regs.v r) t
  | _ => none
/-- Uniform register r after one instruction. -/
noncomputable def sAfter (c : Caravan) (i : Instr) (r : Nat) : Option Word :=
  match exec i (carState c) with
  | .next s => (s.car? 7 0).map fun d => d.regs.rd d.plv r
  | _ => none
/-- The pending v values of thread 0 after one instruction (R159). -/
noncomputable def pendAfter (c : Caravan) (i : Instr) : List (Option Word) :=
  match exec i (carState c) with
  | .next s => (s.car? 7 0).elim [] fun d => d.epochs.flatMap fun e => e.pend.map fun p => match p.val with | .v _ x => some (vget x 0) | _ => none
  | _ => []
/-- Two v registers of thread 0. -/
def vv (a b : Word) : Caravan := withV (withV (tCar true) 1 a) 2 b

-- R186: no carry between sub-elements
theorem test_add_wraps : vAfter (vv 0x00000001FFFFFFFF 1) (.add ⟨0, 2, 7, 3, 1, 2⟩) 3 0 = some 0x0000000100000000 := by decide
theorem test_add_inactive : vAfter (vv 5 1) (.add ⟨0, 2, 7, 3, 1, 2⟩) 3 1 = some 0 := by decide
theorem test_sub_bytes : vAfter (vv 0x0100 0x0001) (.sub ⟨0, 0, 7, 3, 1, 2⟩) 3 0 = some 0x01FF := by decide
theorem test_mulhI : vAfter (vv 0x00000000FFFFFFFF 2) (.mulhI ⟨0, 2, 7, 3, 1, 2⟩) 3 0 = some 0x00000000FFFFFFFF := by decide
theorem test_mulhN : vAfter (vv 0x00000000FFFFFFFF 2) (.mulhN ⟨0, 2, 7, 3, 1, 2⟩) 3 0 = some 1 := by decide
theorem test_minI : vAfter (vv 0x00000000FFFFFFFF 2) (.minI ⟨0, 2, 7, 3, 1, 2⟩) 3 0 = some 0xFFFFFFFF := by decide
theorem test_minN : vAfter (vv 0x00000000FFFFFFFF 2) (.minN ⟨0, 2, 7, 3, 1, 2⟩) 3 0 = some 2 := by decide
theorem test_shl_full : vAfter (vv 0x00000000FFFFFFFF 32) (.shl ⟨0, 2, 7, 3, 1, 2⟩) 3 0 = some 0 := by decide
theorem test_shrI_full : vAfter (vv 0x0000000080000000 32) (.shrI ⟨0, 2, 7, 3, 1, 2⟩) 3 0 = some 0xFFFFFFFF := by decide
theorem test_rotl : vAfter (vv 0x81 9) (.rotl ⟨0, 0, 7, 3, 1, 2⟩) 3 0 = some 0x03 := by decide
-- R187's example
theorem test_bfx : vAfter (vv 0x87654321 0x00010814) (.bfx ⟨0, 7, 0, 3, 1, 2⟩) 3 0 = some 0x76 := by decide
theorem test_bfx_sign : vAfter (vv 0x8F654321 0x00010814) (.bfx ⟨0, 7, 0, 3, 1, 2⟩) 3 0 = some 0xFFFFFFF6 := by decide
-- R191: the most negative value gives itself, the width for no bit
theorem test_abs : vAfter (vv 0x80FF 0) (.abs ⟨0, 0, 7, 3, 1⟩) 3 0 = some 0x8001 := by decide
theorem test_clz : vAfter (vv 0x0000000100000000 0) (.clz ⟨0, 2, 7, 3, 1⟩) 3 0 = some 0x0000001F00000020 := by decide
-- R192's example: 300, -5, 127 and -200
theorem test_packl : vAfter (withV (vv 0xFF38007FFFFB012C 0) 3 0xAAAAAAAA00000000) (.packlI ⟨0, 1, 7, 3, 1⟩) 3 0 = some 0xAAAAAAAA807FFB7F := by decide
-- R190
theorem test_lea : vAfter (withS (withV (tCar true) 2 0xFFFFFFFFFFFFFFFF) 4 0x1000) (.lea ⟨0, 2, 7, 3, 4, 2⟩) 3 0 = some 0xFFC := by decide
-- R164's and R195's: the wide immediate of R175, and a two-address subtraction
theorem test_addImm_wide : sAfter { withS (tCar true) 5 1 with hints := [immWord 0x123456] } (.addImm ⟨0, 7, 5, 5, 0x78⟩) 5 = some 0x12345679 := by decide
theorem test_subU : sAfter (withS (withS (tCar true) 5 3) 6 5) (.subU ⟨0, 3, 7, 5, 6⟩) 5 = some 0xFFFFFFFFFFFFFFFE := by decide
theorem test_s0_discards : sAfter (withS (tCar true) 6 5) (.movU ⟨0, 7, 0, 6⟩) 0 = some 0 := by decide
-- R199: 1 + 2^-24 is a tie and rounds to even; infinity times 0
theorem test_fadd_tie : vAfter (vv 0x3F800000 0x33800000) (.fadd ⟨0, 2, 7, 3, 1, 2⟩) 3 0 = some 0x3F800000 := by decide
theorem test_fmul_nan : vAfter (vv 0x7F800000 0x80000000) (.fmul ⟨0, 2, 7, 3, 1, 2⟩) 3 0 = some 0x7FC00000 := by decide
-- R207's and R210's examples: 1.0 to bf16; b8p4n code 0xFE is 57,344 (R125)
theorem test_cvt : vAfter (vv 0x3F800000 0) (.cvtFloat ⟨0, 2, 1, 7, 3, 1, 10⟩) 3 0 = some 0x3F80 := by decide
-- R212's example, b8p4 with shift count 4: 3072.0 and -5.0
theorem test_dqblk : vAfter (withS (withV (tCar true) 10 0x040000000000B27C) 7 4) (.dqblk ⟨0, 7, 11, 10, 7⟩) 11 0 = some 0xC0A0000045400000 := by decide
-- R211's example, thread 0 alone active: 3000.0 and -5.0
theorem test_qblk : pendAfter (withS (withV (tCar true) 6 0xC0A00000453B8000) 7 4) (.qblk ⟨0, 7, 10, 6, 7⟩) = [some 0x040000000000B27C] := by decide
-- R213: byte 7 of A, the sign of byte 0 of A (0x80), zero
theorem test_swz : vAfter (vv 0x1122334455667780 0x0707070707804007) (.swz ⟨0, 7, 3, 1, 2⟩) 3 0 = some 0x111111111100FF11 := by decide
-- R188: lt.i and lt.n of -1 and 0 in sub-element 0
theorem test_setp : (match exec (.setp ⟨0, 2, 7, 2, 3, 1, 2⟩) (carState (vv 0xFFFFFFFF 0)) with | .next s => (s.car? 7 0).map (fun d => vget d.regs.p 3) | _ => none) = some 1 ∧
    (match exec (.setp ⟨0, 2, 7, 4, 3, 1, 2⟩) (carState (vv 0xFFFFFFFF 0)) with | .next s => (s.car? 7 0).map (fun d => vget d.regs.p 3) | _ => none) = some 0 := by decide
-- R199: 2^127 × 2 overflows to infinity; with SAT it is the largest finite value (R131)
theorem test_fmul_overflow : vAfter (vv 0x7F000000 0x40000000) (.fmul ⟨0, 2, 7, 3, 1, 2⟩) 3 0 = some 0x7F800000 ∧
    vAfter { vv 0x7F000000 0x40000000 with hints := [modWord 0 true false] } (.fmul ⟨0, 2, 7, 3, 1, 2⟩) 3 0 = some 0x7F7FFFFF := by decide
-- R202
theorem test_fclass : vAfter (vv 0x7F800000_00000001 0) (.fclass ⟨0, 2, 7, 3, 1⟩) 3 0 = some 0x0000008000000020 := by decide
-- R185: the word IMM before an instruction that takes none is a trap, not a step of the register
theorem test_bad_hint : vAfter { vv 1 1 with hints := [immWord 1] } (.add ⟨0, 2, 7, 3, 1, 2⟩) 3 0 ≠ some 2 := by decide

end Sys2Proof.Tests
end

section
/-! SUPPORT. Memory's canonical form through every operation of the model, in the model's order: `MemoryOk.f` says that the operation `f`
keeps it, so that the proof for an operation names the operations it is made of. -/
namespace Sys2Proof
open Sys2Proof.Machine

/-! ## The rules of the invariant -/

/-- The frame of memory: whatever the other parts of the state become. -/
theorem MemoryOk.same {s : State} (h : MemoryOk s)
    {grade : BitVec 16} {uppers : Vector Bool 4} {upper : Bool} {dieen : Vector Word 4} {serial : W32} {mypkg : Nat} {mypod : Nat}
    {poison : List Poison} {rekeyed : List (Nat × Nat × Nat)} {dir : List DirLine} {cores : List CoreSt} {saved : List Saved}
    {launches : List Launch} {bundles : List Bundle} {bundleReqs : List BundleReq} {bundleNext : Nat} {vfs : List Vf} {tenants : List
    Tenant} {ports : Vector Port 2} {streams : List StreamReq} {ik : Innkeeper} {fw : Firmware} {links : List (Nat × Link)}
    {incarnations : List (Nat × BitVec 16)} {fenced : List Nat} {responses : List Nat} {nacked : List Nat} {cohLog : List (Nat × Nat ×
    Nat)} {pf : PhysFn} {globalWrites : List Nat} {retiring : List Nat} {hostReply : HostReply} {cxl : Bool} {sliceHolder : Nat}
    {sliceOn : Bool} {sliceStart : Nat} {gateCap : Bool} {gateHot : List Nat} {energyWin : Nat} {samples : Nat} {polls : Nat} {meters
    : List Meter} {steward : Nat} {clk : Nat} {ptpSec : Nat} {ptpNs : Nat} {ptpClk : Nat} {agenda : List Instr} {turn : Nat} {cur :
    Who} {nextId : Nat} {free : Nat} :
    MemoryOk { s with
      grade, uppers, upper, dieen, serial, mypkg, mypod, poison, rekeyed, dir, cores, saved, launches, bundles, bundleReqs, bundleNext,
      vfs, tenants, ports, streams, ik, fw, links, incarnations, fenced, responses, nacked, cohLog, pf, globalWrites, retiring,
      hostReply, cxl, sliceHolder, sliceOn, sliceStart, gateCap, gateHot, energyWin, samples, polls, meters, steward, clk, ptpSec,
      ptpNs, ptpClk, agenda, turn, cur, nextId, free } := h


/-- A change of blocks that leaves every local store. -/
theorem MemoryOk.modBlock {s : State} {b : Nat} {f : Block → Block} (h : MemoryOk s)
    (hf : ∀ x, (f x).ls = x.ls := by exact fun _ => rfl) : MemoryOk (s.modBlock b f) :=
  Laws.memoryOk_modBlock h b f fun x hx => by rw [hf]; exact hx

theorem MemoryOk.modCar {s : State} {b n : Nat} {f : Caravan → Caravan} (h : MemoryOk s) : MemoryOk (s.modCar b n f) :=
  Laws.memoryOk_modCar h b n f
theorem MemoryOk.modSeq {s : State} {b : Nat} {f : Sequencer → Sequencer} (h : MemoryOk s) : MemoryOk (s.modSeq b f) :=
  Laws.memoryOk_modSeq h b f
theorem MemoryOk.writeMem {s : State} {a : Nat} {bs : List Byte} (h : MemoryOk s) : MemoryOk (s.writeMem a bs) :=
  Laws.memoryOk_writeMem h a bs
theorem MemoryOk.poke {s : State} {l : Loc} {bs : List Byte} (h : MemoryOk s) : MemoryOk (s.poke l bs) :=
  Laws.memoryOk_poke h l bs

/-- Blocks changed one by one, each local store kept in its form. -/
theorem MemoryOk.mapBlocks {s t : State} {f : Block → Block} (h : MemoryOk s) (hm : t.mem = s.mem) (hf : t.far = s.far)
    (hb : t.blocks = s.blocks.map f) (hl : ∀ x, x.ls.wf = true → (f x).ls.wf = true) : MemoryOk t := by
  obtain ⟨hmem, hfar, hblk⟩ := h
  refine ⟨hm ▸ hmem, hf ▸ hfar, ?_⟩
  rw [hb]
  exact List.forall_mem_map.mpr fun x hx => hl x (hblk x hx)

theorem MemoryOk.filterBlocks {s t : State} {p : Block → Bool} (h : MemoryOk s) (hm : t.mem = s.mem) (hf : t.far = s.far)
    (hb : t.blocks = s.blocks.filter p) : MemoryOk t := by
  obtain ⟨hmem, hfar, hblk⟩ := h
  exact ⟨hm ▸ hmem, hf ▸ hfar, fun x hx => hblk x (List.mem_of_mem_filter (hb ▸ hx))⟩

/-- Device memory of another canonical form. -/
theorem MemoryOk.setMem {s t : State} (h : MemoryOk s) (hm : t.mem.wf = true) (hf : t.far = s.far) (hb : t.blocks = s.blocks) :
    MemoryOk t := by
  obtain ⟨-, hfar, hblk⟩ := h
  exact ⟨hm, hf ▸ hfar, hb ▸ hblk⟩

theorem MemoryOk.ite {c : Prop} [Decidable c] {s t : State} (hs : MemoryOk s) (ht : MemoryOk t) : MemoryOk (if c then s else t) := by
  split <;> assumption

/-- A change made where a condition holds. -/
theorem MemoryOk.changed {c : Prop} [Decidable c] {s t : State} (h : MemoryOk s) (ht : MemoryOk s → MemoryOk t) :
    MemoryOk (if c then t else s) :=
  (ht h).ite h

/-- A change made where a condition fails. -/
theorem MemoryOk.kept {c : Prop} [Decidable c] {s t : State} (h : MemoryOk s) (ht : MemoryOk s → MemoryOk t) :
    MemoryOk (if c then s else t) :=
  h.ite (ht h)

theorem MemoryOk.getD {o : Option State} {s : State} (h : MemoryOk s) (ho : ∀ t, o = some t → MemoryOk t) : MemoryOk (o.getD s) := by
  cases o with
  | none => exact h
  | some t => exact ho t rfl

/-- An invariant of every step of a fold. -/
theorem MemoryOk.foldl {α : Type} {f : State → α → State} {l : List α} {s : State} (h : MemoryOk s)
    (hf : ∀ s a, MemoryOk s → MemoryOk (f s a)) : MemoryOk (l.foldl f s) := by
  induction l generalizing s with
  | nil => exact h
  | cons a l ih => exact ih (hf s a h)

theorem MemoryOk.foldr {α : Type} {f : α → State → State} {l : List α} {s : State} (h : MemoryOk s)
    (hf : ∀ a s, MemoryOk s → MemoryOk (f a s)) : MemoryOk (l.foldr f s) := by
  induction l with
  | nil => exact h
  | cons a l ih => exact hf a _ ih

theorem MemoryOk.foldl_snd {α β : Type} {f : β × State → α → β × State} {l : List α} {p : β × State} (h : MemoryOk p.2)
    (hf : ∀ p a, MemoryOk p.2 → MemoryOk (f p a).2) : MemoryOk (l.foldl f p).2 := by
  induction l generalizing p with
  | nil => exact h
  | cons a l ih => exact ih (hf p a h)

/-- The state of a pair that a match has taken apart. -/
theorem MemoryOk.of_snd {β : Type} {p : β × State} {b : β} {s : State} (h : MemoryOk p.2) (e : p = (b, s)) : MemoryOk s := by
  subst e; exact h

theorem MemoryOk.of_snd_snd {α β : Type} {p : α × β × State} {a : α} {b : β} {s : State} (h : MemoryOk p.2.2) (e : p = (a, b, s)) :
    MemoryOk s := by
  subst e; exact h

theorem MemoryOk.of_snd_snd_snd {α β γ : Type} {p : α × β × γ × State} {a : α} {b : β} {c : γ} {s : State} (h : MemoryOk p.2.2.2)
    (e : p = (a, b, c, s)) : MemoryOk s := by
  subst e; exact h

/-- The states in an instruction's result keep memory in its form. -/
inductive ResOk : Res → Prop
  | ok {s pc ckpt} (h : MemoryOk s) : ResOk (.ok s pc ckpt)
  | trap {t} : ResOk (.trap t)
  | wait {w s} (h : MemoryOk s) : ResOk (.wait w s)
  | stop {f} : ResOk (.stop f)

/-- The state after a step, if there is one, keeps memory in its form. -/
inductive OutOk : Out → Prop
  | next {s} (h : MemoryOk s) : OutOk (.next s)
  | fault {f} : OutOk (.fault f)
  | refused {r} : OutOk (.refused r)

/-- The states in what checking a packet answers. -/
inductive CheckedOk : Checked → Prop
  | bad {code status slot s} (h : MemoryOk s) : CheckedOk (.bad code status slot s)
  | good {l words s} (h : MemoryOk s) : CheckedOk (.good l words s)

/-- The state in what one look at a unit gives. -/
inductive AdmitOk : Admit → Prop
  | done {s} (h : MemoryOk s) : AdmitOk (.done s)
  | blocked {s} (h : MemoryOk s) : AdmitOk (.blocked s)
  | lines {s} (h : MemoryOk s) : AdmitOk (.lines s)

/-- The state in a command's answer. -/
inductive CmdOk : Except Nat (State × Nat) → Prop
  | error {e} : CmdOk (.error e)
  | ok {s r} (h : MemoryOk s) : CmdOk (.ok (s, r))

theorem CmdOk.ite {c : Prop} [Decidable c] {a b : Except Nat (State × Nat)} (ha : CmdOk a) (hb : CmdOk b) : CmdOk (if c then a else b) := by
  split <;> assumption

theorem CmdOk.bind {α : Type} {x : Except Nat α} {f : α → Except Nat (State × Nat)} (hf : ∀ a, CmdOk (f a)) : CmdOk (x >>= f) := by
  cases x with
  | error e => exact .error
  | ok a => exact hf a

theorem CmdOk.pure {s : State} {r : Nat} (h : MemoryOk s) : CmdOk (pure (s, r)) := .ok h

theorem CmdOk.throw {e : Nat} : CmdOk (throw e) := .error

theorem CheckedOk.ite {c : Prop} [Decidable c] {a b : Checked} (ha : CheckedOk a) (hb : CheckedOk b) :
    CheckedOk (if c then a else b) := by
  split <;> assumption

theorem AdmitOk.ite {c : Prop} [Decidable c] {a b : Admit} (ha : AdmitOk a) (hb : AdmitOk b) : AdmitOk (if c then a else b) := by
  split <;> assumption

theorem ResOk.ite {c : Prop} [Decidable c] {a b : Res} (ha : ResOk a) (hb : ResOk b) : ResOk (if c then a else b) := by
  split <;> assumption

theorem OutOk.ite {c : Prop} [Decidable c] {a b : Out} (ha : OutOk a) (hb : OutOk b) : OutOk (if c then a else b) := by
  split <;> assumption

theorem ResOk.andThen {r : Res} {f : State → Res} (h : ResOk r) (hf : ∀ s, MemoryOk s → ResOk (f s)) : ResOk (r.andThen f) := by
  cases h with
  | ok h => exact hf _ h
  | trap => exact .trap
  | wait h => exact .wait h
  | stop => exact .stop


/-! ## The operations of Machine/Base -/

theorem MemoryOk.modCore {s : State} {c : Nat} {f : CoreSt → CoreSt} (h : MemoryOk s) : MemoryOk (s.modCore c f) := h.same

theorem MemoryOk.modLaunch {s : State} {l : Nat} {f : Launch → Launch} (h : MemoryOk s) : MemoryOk (s.modLaunch l f) := h.same

theorem MemoryOk.modVf {s : State} {v : Nat} {f : Vf → Vf} (h : MemoryOk s) : MemoryOk (s.modVf v f) := h.same

theorem MemoryOk.modTenant {s : State} {t : Nat} {f : Tenant → Tenant} (h : MemoryOk s) : MemoryOk (s.modTenant t f) := h.same

theorem MemoryOk.modProc {s : State} {v p : Nat} {f : Proc → Proc} (h : MemoryOk s) : MemoryOk (s.modProc v p f) := h.modVf

theorem MemoryOk.modQueue {s : State} {v q : Nat} {f : Queue → Queue} (h : MemoryOk s) : MemoryOk (s.modQueue v q f) := h.modVf

theorem MemoryOk.modBundle {s : State} {z : Nat} {f : Bundle → Bundle} (h : MemoryOk s) : MemoryOk (s.modBundle z f) := h.same

theorem MemoryOk.queueEvent {s : State} {i : Instr} (h : MemoryOk s) : MemoryOk (s.queueEvent i) := h.same

theorem MemoryOk.noteGate {s : State} {core path : Nat} {gated : Bool} (h : MemoryOk s) : MemoryOk (s.noteGate core path gated) :=
  h.same.modCore.ite h

/-! ## The operations of Machine/Xlate -/

theorem MemoryOk.fillTlb {s : State} {core vf proc va : Nat} (h : MemoryOk s) : MemoryOk (s.fillTlb core vf proc va) := by
  unfold State.fillTlb
  split
  · exact h
  · refine h.ite ?_
    split
    · exact h.modCore
    · exact h

/-! ## The operations of Machine/Image -/

theorem MemoryOk.modGraph {s : State} {tenant slot : Nat} {f : Graph → Graph} (h : MemoryOk s) :
    MemoryOk (s.modGraph tenant slot f) :=
  h.modTenant

/-! ## The operations of Machine/Mem -/

theorem MemoryOk.uwr {s : State} {w : Who} {r : Nat} {x : Word} (h : MemoryOk s) : MemoryOk (s.uwr w r x) := by
  unfold State.uwr
  split
  · exact h.modCar
  · exact h.modSeq

theorem MemoryOk.cwr {s : State} {w : Who} {k : Nat} {x : Bool} (h : MemoryOk s) : MemoryOk (s.cwr w k x) := by
  unfold State.cwr
  split
  · exact h.modCar
  · exact h.modSeq

theorem MemoryOk.setPc {s : State} {w : Who} {pc : Nat} {hints : List W32} (h : MemoryOk s) : MemoryOk (s.setPc w pc hints) := by
  unfold State.setPc
  split
  · exact h.modCar
  · exact h.modSeq

theorem MemoryOk.setStatus {s : State} {w : Who} {x : Status} (h : MemoryOk s) : MemoryOk (s.setStatus w x) := by
  unfold State.setStatus
  split
  · exact h.modCar
  · exact h.modSeq

theorem MemoryOk.putVal {s : State} {w : Who} {r : Reg} {x : PVal} (h : MemoryOk s) : MemoryOk (s.putVal w r x) := by
  unfold State.putVal
  split
  · exact h.uwr
  · exact h.cwr
  · split
    · exact h.modCar
    · exact h
  · split
    · exact h.modCar
    · exact h
  · exact h

theorem MemoryOk.countRollback {s : State} {core : Nat} (h : MemoryOk s) : MemoryOk (s.countRollback core) := h.modCore

theorem MemoryOk.rollMarked {s : State} {b n core : Nat} {c : Caravan} {words : List Loc} (h : MemoryOk s) :
    MemoryOk (s.rollMarked b n core c words) := by
  unfold State.rollMarked
  split
  · exact h
  · exact h.modCar.countRollback

theorem MemoryOk.invalidate {s : State} {by_ : Option Who} {words : List Loc} (h : MemoryOk s) :
    MemoryOk (s.invalidate by_ words) :=
  h.foldl fun _ _ h1 => h1.foldl fun _ _ h2 => h2.ite h2.rollMarked

theorem MemoryOk.wake {s : State} {by_ : Option Who} {chunks : List Loc} (h : MemoryOk s) : MemoryOk (s.wake by_ chunks) :=
  h.mapBlocks rfl rfl rfl fun _ hx => hx

theorem MemoryOk.reachCache {s : State} {cache line : Nat} {m : Word} {but : Option Nat} (h : MemoryOk s) :
    MemoryOk (s.reachCache cache line m but) := h.foldl fun _ _ h1 => h1.foldl fun _ _ h2 => h2.rollMarked

theorem MemoryOk.modLine {s : State} {line : Nat} {f : List Sharer → List Sharer} (h : MemoryOk s) : MemoryOk (s.modLine line f) :=
  h.same

theorem MemoryOk.giveUp {s : State} {cache line : Nat} {m : Word} {but : Option Nat} (h : MemoryOk s) :
    MemoryOk (s.giveUp cache line m but) := h.modLine.reachCache

theorem MemoryOk.dropSharers {s : State} {pa n : Nat} {keep : Option Nat} (h : MemoryOk s) : MemoryOk (s.dropSharers pa n keep) :=
  h.foldl fun _ _ h1 => h1.same

theorem MemoryOk.evictLine {s : State} {core line : Nat} (h : MemoryOk s) : MemoryOk (s.evictLine core line) := h.modCore.giveUp

theorem MemoryOk.evictFor {s : State} {core : Nat} {new : List Nat} (h : MemoryOk s) : MemoryOk (s.evictFor core new) :=
  h.foldl fun _ _ h1 => h1.queueEvent

theorem MemoryOk.recordWords {s : State} {cache line : Nat} {m : Word} {own : Bool} {by_ : Nat} (h : MemoryOk s) :
    MemoryOk (s.recordWords cache line m own by_) := by
  unfold State.recordWords
  extract_lets _ s1 s2
  have h1 : MemoryOk s1 := (h.foldl fun _ _ h1 => h1.evictLine).ite h
  have h2 : MemoryOk s2 := by
    unfold s2
    split
    · exact h1.giveUp.ite h1
    · exact h1
  exact h.modLine.ite (h.ite h2.modLine)

theorem MemoryOk.homePerform {s : State} {cache line first last : Nat} {own : Bool} (h : MemoryOk s) :
    MemoryOk (s.homePerform cache line first last own) := by
  unfold State.homePerform
  extract_lets _ s1 s2
  have h1 : MemoryOk s1 := (h.foldl fun _ _ h1 => h1.giveUp.ite h1).ite h.modLine
  have h2 : MemoryOk s2 := by
    refine h1.ite ?_
    split
    · exact h1.recordWords
    · exact h1
  exact h1.ite h2.recordWords

theorem MemoryOk.ownWords {s : State} {core pa n : Nat} (h : MemoryOk s) : MemoryOk (s.ownWords core pa n) :=
  h.foldl fun _ _ h1 => h1.homePerform

theorem MemoryOk.writeEvent {s : State} {by_ : Option Who} {l : Loc} {bs : List Byte} (h : MemoryOk s) :
    MemoryOk (s.writeEvent by_ l bs) := h.poke.invalidate.wake

theorem MemoryOk.putAt {s : State} {by_ : Option Who} {l : Loc} {bs : List Byte} (h : MemoryOk s) :
    MemoryOk (s.putAt by_ l bs) := by
  unfold State.putAt
  extract_lets s1
  have h1 : MemoryOk s1 := by
    unfold s1
    split
    · exact h.dropSharers
    · exact h
  exact h1.writeEvent

theorem MemoryOk.put {s : State} {by_ : Option Who} {l : Loc} {bs : List Byte} {second : Option Nat} (h : MemoryOk s) :
    MemoryOk (s.put by_ l bs second) := by
  unfold State.put
  extract_lets
  split
  · exact h.putAt.dropSharers.writeEvent
  · exact h.putAt

theorem MemoryOk.storeL1 {s : State} {core pa : Nat} {bs : List Byte} (h : MemoryOk s) : MemoryOk (s.storeL1 core pa bs) :=
  h.modCore

/-! ## The operations of Machine/Graph -/

theorem MemoryOk.dropClosed {s : State} (h : MemoryOk s) : MemoryOk (s.dropClosed) := h.same

theorem MemoryOk.closeSlot {s : State} {tenant slot : Nat} (h : MemoryOk s) : MemoryOk (s.closeSlot tenant slot) := h.modGraph

theorem MemoryOk.unbind {s : State} {tenant slot : Nat} (h : MemoryOk s) : MemoryOk (s.unbind tenant slot) := h.modTenant

theorem MemoryOk.bindImage {s : State} {vf tenant slot : Nat} {img : List Byte} (h : MemoryOk s) :
    MemoryOk (s.bindImage vf tenant slot img).2 := by
  unfold State.bindImage
  extract_lets
  split
  · exact h
  · split
    · exact h.dropClosed
    · exact h.dropClosed.modTenant

theorem MemoryOk.emitTo {s : State} {vf q : Nat} {e : List Byte} (h : MemoryOk s) : MemoryOk (s.emitTo vf q e) := by
  unfold State.emitTo
  split
  · exact h
  · exact h.modQueue.ite h.modQueue.queueEvent

theorem MemoryOk.streamEvent {s : State} {tenant slot : Nat} {places : List (Nat × Nat)} {store : Option (List Byte)} (h : MemoryOk s) :
    MemoryOk (s.streamEvent tenant slot places store).2 := by
  unfold State.streamEvent
  split
  · exact (h.modGraph.ite (h.modGraph.foldl fun _ _ h1 => h1.put)).foldl fun _ _ h1 => h1.emitTo
  · exact h

theorem MemoryOk.streamAccess {s : State} {tenant slot pa page : Nat} {store : Option (List Byte)} {len : Nat} (h : MemoryOk s) :
    MemoryOk (s.streamAccess tenant slot pa page store len).2 := by
  unfold State.streamAccess
  refine h.foldl_snd fun _ _ h1 => ?_
  split
  rename_i e
  exact h1.streamEvent.of_snd e

/-! ## The operations of Machine/Check -/

theorem MemoryOk.requestLine {s : State} {core line first last : Nat} {own : Bool} (h : MemoryOk s) :
    MemoryOk (s.requestLine core line first last own) := h.ite h.queueEvent

theorem MemoryOk.request {s : State} {core : Nat} {g : Seg} {own : Bool} (h : MemoryOk s) : MemoryOk (s.request core g own) := by
  unfold State.request
  split
  · exact (h.foldl fun _ _ h1 => h1.requestLine).ite h
  · exact h

theorem MemoryOk.cleanRoom {s : State} {core line : Nat} {t : State} (h : MemoryOk s) (e : s.cleanRoom core line = some t) :
    MemoryOk t := by
  unfold State.cleanRoom at e
  extract_lets at e
  split at e
  · cases e; exact h.modCore
  · cases e

theorem MemoryOk.keepLine {s : State} {core : Nat} {g : Seg} {bypass : Bool} (h : MemoryOk s) :
    MemoryOk (s.keepLine core g bypass) := by
  unfold State.keepLine
  split
  · refine MemoryOk.ite ?_ h
    refine h.foldl fun _ _ h1 => ?_
    refine h1.modCore.ite ?_
    refine h1.ite ?_
    split
    · rename_i e
      exact (h1.cleanRoom e).modCore
    · exact h1
  · exact h

theorem MemoryOk.cacheRead {s : State} {w : Who} {bypass : Bool} {g : Seg} (h : MemoryOk s) :
    MemoryOk (s.cacheRead w bypass g) := by
  unfold State.cacheRead
  extract_lets
  split
  · split
    exact h.request.keepLine.fillTlb
  · exact h.request.keepLine

theorem MemoryOk.readSeg {s : State} {w : Who} {held : List Held} {g : Seg} (h : MemoryOk s) : MemoryOk (s.readSeg w held g).2 := by
  unfold State.readSeg
  split
  · split
    · exact h.streamAccess
    · exact h.cacheRead
  · exact h.cacheRead

theorem MemoryOk.readUnits {s : State} {w : Who} {held : List Held} {u a : Nat} {n : Nat} (h : MemoryOk s) :
    MemoryOk (s.readUnits w held u a n).2.2 := by
  induction n with
  | zero => exact h
  | succ n ih =>
    unfold State.readUnits
    split
    rename_i e
    split
    · exact ih.of_snd_snd e
    · split
      split
      · exact ih.of_snd_snd e
      · refine MemoryOk.foldl_snd (ih.of_snd_snd e) fun _ _ h1 => ?_
        exact h1.readSeg

theorem MemoryOk.readWords {s : State} {w : Who} {held : List Held} {a n : Nat} (h : MemoryOk s) :
    MemoryOk (s.readWords w held a n).2.2 := h.readUnits

/-- What reading an image comes to, from what reading its first 64 bytes has given. -/
def imageAfter (w : Who) (held : List Held) (a : Nat) : Option Trap × List Byte × State → Option Trap × List Byte × State
  | (some t, bs, s) => (some t, bs, s)
  | (none, head, s) =>
    let len := imgLen head
    if len < 64 ∨ 65536 < len then (none, head, s)
    else
      let (bad, bs, s) := s.readWords w held (a + 64) ((len + 7) / 8 - 8)
      (bad, (head ++ bs).take len, s)

/-- Shown of the function and not of its value, since the kernel would read the eight words to compare the values. -/
theorem readImage_eq (s : State) (w : Who) (held : List Held) (a : Nat) :
    s.readImage w held a = imageAfter w held a (s.readWords w held a 8) := by
  have hfun : @State.readImage = fun s w held a => imageAfter w held a (s.readWords w held a 8) := by
    delta State.readImage
    funext s w held a
    generalize s.readWords w held a 8 = r
    obtain ⟨_ | t, bs, s⟩ := r <;> rfl
  exact congrFun (congrFun (congrFun (congrFun hfun s) w) held) a

theorem MemoryOk.imageAfter {w : Who} {held : List Held} {a : Nat} {r : Option Trap × List Byte × State} (h : MemoryOk r.2.2) :
    MemoryOk (imageAfter w held a r).2.2 := by
  obtain ⟨_ | t, head, s⟩ := r
  · dsimp only [Sys2Proof.imageAfter]
    split
    · exact h
    · exact MemoryOk.readWords h
  · exact h

theorem MemoryOk.readImage {s : State} {w : Who} {held : List Held} {a : Nat} (h : MemoryOk s) :
    MemoryOk (s.readImage w held a).2.2 := by
  rw [readImage_eq]
  exact h.readWords.imageAfter

/-! ## The operations of Machine/Ops -/

theorem MemoryOk.arrive {s : State} {b k : Nat} (h : MemoryOk s) : MemoryOk (s.arrive b k).2 := by
  unfold State.arrive
  split
  · exact h
  · exact h.modBlock

theorem MemoryOk.enterBundle {s : State} {b handle bar : Nat} (h : MemoryOk s) : MemoryOk (s.enterBundle b handle bar) := by
  unfold State.enterBundle
  split
  · exact h.arrive.ite (h.modBlock.ite (h.modBlock.modBundle.queueEvent.ite h.modBlock.same.queueEvent))
  · exact h

theorem MemoryOk.leaveBundle {s : State} {b handle : Nat} (h : MemoryOk s) : MemoryOk (s.leaveBundle b handle) := by
  unfold State.leaveBundle
  extract_lets
  split
  · exact h.modBlock.queueEvent.ite h.modBlock
  · exact h.modBlock

theorem MemoryOk.bindNow {s : State} {w : Who} {vf tenant slot : Nat} {image : Option Nat} (h : MemoryOk s) :
    MemoryOk (s.bindNow w vf tenant slot image).2 := by
  unfold State.bindNow
  split
  · exact h.unbind
  · split
    · exact h
    · split
      · rename_i e
        exact (h.readImage.of_snd_snd e).bindImage
      · rename_i e
        exact h.readImage.of_snd_snd e

theorem MemoryOk.performNow {s : State} {w : Who} {z : Held} (h : MemoryOk s) : MemoryOk (s.performNow w z) := by
  unfold State.performNow
  extract_lets
  split
  · extract_lets s1 s2 s3
    have h1 : MemoryOk s1 := by
      unfold s1
      split
      · exact h.ownWords.ite h
      · exact h
    have h2 : MemoryOk s2 := h1.put
    have h3 : MemoryOk s3 := by
      unfold s3
      split
      · exact h2.same.ite h2
      · exact h2
    split
    · exact h3.ite h3.storeL1
    · exact h3
  · exact h.modCore.queueEvent
  · split
    · exact h.modLaunch
    · exact h
  · exact h.enterBundle
  · exact h.leaveBundle
  · split
    rename_i e
    exact (h.arrive.of_snd e).uwr
  · split
    rename_i e
    exact (h.bindNow.of_snd e).uwr
  · exact h.modBlock
  · exact h.modBlock

theorem MemoryOk.setLate {s : State} {w : Who} {l : List Held} (h : MemoryOk s) : MemoryOk (s.setLate w l) := by
  unfold State.setLate
  split
  · exact h.modCar
  · exact h

theorem MemoryOk.landLate {s : State} {w : Who} {z : Held} (h : MemoryOk s) : MemoryOk (s.landLate w z) := by
  unfold State.landLate
  split
  · exact h.modCar
  · exact h

theorem MemoryOk.serveLate {w : Who} {hs : List Held} {s : State} (h : MemoryOk s) : MemoryOk (State.serveLate w hs s) := by
  induction hs generalizing s with
  | nil => exact h.setLate
  | cons x hs ih =>
    unfold State.serveLate
    refine .ite (ih h.performNow.landLate) ?_
    extract_lets s1
    have h1 : MemoryOk s1 := by
      unfold s1
      split
      · exact h.ite h.closeSlot
      · exact h
    exact h1.setLate

theorem MemoryOk.perform {s : State} {w : Who} {z : Held} (h : MemoryOk s) : MemoryOk (s.perform w z) :=
  h.performNow.ite h.serveLate

theorem MemoryOk.commitOldest {s : State} {b n : Nat} (h : MemoryOk s) : MemoryOk (s.commitOldest b n) := by
  unfold State.commitOldest
  split
  · exact h
  · exact (h.foldl fun _ _ h1 => h1.perform).modCar

theorem MemoryOk.commitAll {s : State} {b n : Nat} (h : MemoryOk s) : MemoryOk (s.commitAll b n) := by
  unfold State.commitAll
  split
  · exact h
  · exact (h.foldl fun _ _ h1 => h1.commitOldest).modCar

theorem MemoryOk.settleWho {s : State} {w : Who} (h : MemoryOk s) : MemoryOk (s.settleWho w) := by
  unfold State.settleWho
  split
  · exact h.commitAll
  · exact h

theorem MemoryOk.afterBinds {s : State} {w : Who} (h : MemoryOk s) : MemoryOk (s.afterBinds w) := h.settleWho.ite h

theorem MemoryOk.modEpoch {s : State} {b n : Nat} {f : Epoch → Epoch} (h : MemoryOk s) : MemoryOk (s.modEpoch b n f) := h.modCar

theorem MemoryOk.hold {s : State} {w : Who} {z : Held} (h : MemoryOk s) : MemoryOk (s.hold w z) := by
  unfold State.hold
  split
  · exact h.modEpoch
  · exact h.perform

theorem MemoryOk.setPend {s : State} {w : Who} {r : Reg} {x : PVal} (h : MemoryOk s) : MemoryOk (s.setPend w r x) := by
  unfold State.setPend
  split
  · exact h.modEpoch.ite h.modEpoch.queueEvent
  · exact h.putVal

theorem MemoryOk.updateDbar {s : State} {launch die : Nat} (h : MemoryOk s) : MemoryOk (s.updateDbar launch die) := by
  unfold State.updateDbar
  extract_lets
  split
  · exact h.modLaunch
  · exact h

theorem MemoryOk.nudgeArrays {s : State} (h : MemoryOk s) : MemoryOk (s.nudgeArrays) := h.foldl fun _ _ h1 => h1.queueEvent.ite h1

theorem MemoryOk.dropOverlays {s : State} (h : MemoryOk s) : MemoryOk (s.dropOverlays) := h.same

theorem MemoryOk.endBlock {s : State} {b : Nat} (h : MemoryOk s) : MemoryOk (s.endBlock b) := by
  unfold State.endBlock
  split
  · exact h
  · refine h.ite ?_
    extract_lets s1 s2 s3
    have h3 : MemoryOk s3 := h.modBlock.modLaunch.dropOverlays.updateDbar.nudgeArrays
    split
    · exact (h3.ite (h3.foldl fun _ _ h1 => h1.queueEvent)).changed fun h1 => h1.queueEvent
    · exact h3

theorem MemoryOk.endMember {s : State} {w : Who} (h : MemoryOk s) : MemoryOk (s.endMember w) := by
  unfold State.endMember
  extract_lets
  split
  · exact h.setStatus.endBlock.ite h.setStatus.updateDbar.nudgeArrays
  · exact h.setStatus

theorem MemoryOk.endYields {s : State} {core : Nat} (h : MemoryOk s) : MemoryOk (s.endYields core) :=
  h.mapBlocks rfl rfl rfl fun _ hx => by split <;> exact hx

theorem MemoryOk.deviceWrite {s : State} {vf proc va : Nat} {bs : List Byte} (h : MemoryOk s) :
    MemoryOk (s.deviceWrite vf proc va bs) := by
  unfold State.deviceWrite
  split
  · exact h.put.ite h
  · exact h

theorem MemoryOk.deliver {s : State} {launch : Nat} {r : Vector Word 8} (h : MemoryOk s) : MemoryOk (s.deliver launch r) := by
  unfold State.deliver
  split
  · exact h
  · exact h.ite ((h.deviceWrite.deviceWrite.ite h.deviceWrite).modLaunch)

theorem MemoryOk.finishClosing {s : State} {b : Nat} (h : MemoryOk s) : MemoryOk (s.finishClosing b) := by
  unfold State.finishClosing
  split
  · exact h
  · split
    · exact h
    · exact h.ite (((h.foldl fun _ _ h1 => h1.leaveBundle).foldl fun _ _ h1 => h1.deliver).endBlock)

theorem MemoryOk.terminate {s : State} {b : Nat} {record : Option (Vector Word 8)} (h : MemoryOk s) :
    MemoryOk (s.terminate b record) := by
  unfold State.terminate
  split
  · exact h
  · exact ((h.foldl fun _ _ h1 => h1.serveLate).modBlock.modCore.foldl fun _ _ h1 =>
      h1.leaveBundle).updateDbar.nudgeArrays.endYields.finishClosing

theorem MemoryOk.haltSteward {s : State} {core : Nat} (h : MemoryOk s) : MemoryOk (s.haltSteward core) := h.modCore.same

theorem MemoryOk.stewardRecord {s : State} {r : Vector Word 8} (h : MemoryOk s) : MemoryOk (s.stewardRecord r) := h.ite h.put.same

theorem MemoryOk.enterLevel {s : State} {b n lvl : Nat} {t : Trap} {r : Vector Word 8} {vector : Word} (h : MemoryOk s) :
    MemoryOk (s.enterLevel b n lvl t r vector) := h.modCar.commitAll

theorem MemoryOk.takeTrap {s : State} {w : Who} {t : Trap} (h : MemoryOk s) : MemoryOk (s.takeTrap w t) := by
  unfold State.takeTrap
  refine h.same.ite ?_
  extract_lets
  split
  · exact h.settleWho
  · exact h.settleWho.terminate
  · split
    · exact h.settleWho
    · split
      · exact h.settleWho.enterLevel
      · exact (((h.settleWho.haltSteward.ite h.settleWho).stewardRecord).endMember).ite h.settleWho.terminate

theorem MemoryOk.settleRegs {s : State} {w : Who} {named : List Reg} (h : MemoryOk s) : MemoryOk (s.settleRegs w named) := by
  unfold State.settleRegs
  split
  · exact h
  · exact (h.commitAll.ite h).ite ((h.commitAll.ite h).modCar)

theorem MemoryOk.setFix {s : State} {w : Who} {f : List Fix} (h : MemoryOk s) : MemoryOk (s.setFix w f) := by
  unfold State.setFix
  split
  · exact h.modCar
  · exact h.modSeq

theorem MemoryOk.closeEpoch {s : State} {b n : Nat} (h : MemoryOk s) : MemoryOk (s.closeEpoch b n) := by
  unfold State.closeEpoch
  split
  · exact h.modCar.queueEvent.ite h
  · exact h

theorem MemoryOk.slotPast {s : State} (h : MemoryOk s) : MemoryOk (s.slotPast) := h.same

theorem MemoryOk.retire {s : State} {w : Who} {o : Op} {hs : List W32} {pc : Nat} {before : State} {ckpt : Bool} (h : MemoryOk s) :
    MemoryOk (s.retire w o hs pc before ckpt) := by
  unfold State.retire
  extract_lets
  split
  · exact h.slotPast.modSeq
  · exact ((h.slotPast.modCar.changed fun h1 => h1.commitAll).changed fun h1 => h1.settleRegs).closeEpoch

theorem MemoryOk.checkpointFor {s : State} {b n : Nat} {o : Op} {hs : List W32} (h : MemoryOk s) :
    MemoryOk (s.checkpointFor b n o hs) := by
  unfold State.checkpointFor
  split
  · exact h
  · exact h.commitAll.ite h

theorem MemoryOk.prepare {s : State} {w : Who} {o : Op} {hs : List W32} (h : MemoryOk s) : MemoryOk (s.prepare w o hs) := by
  unfold State.prepare
  extract_lets
  split
  · exact h.settleRegs
  · exact h.settleRegs.checkpointFor

theorem MemoryOk.seeded {s : State} {w : Who} {hs : List W32} (h : MemoryOk s) : MemoryOk (s.seeded w hs) := by
  unfold State.seeded
  split
  · exact h.modCar
  · exact h

theorem MemoryOk.withOld {s : State} {w : Who} {olds : List Fix} (h : MemoryOk s) : MemoryOk (s.withOld w olds) :=
  h.foldr fun _ _ h1 => h1.putVal

theorem MemoryOk.restoreNew {s : State} {w : Who} {olds : List Fix} {before : State} {written : List Reg} {mask : W32} (h : MemoryOk s) :
    MemoryOk (s.restoreNew w olds before written mask) := by
  unfold State.restoreNew
  refine h.foldl fun _ _ h1 => ?_
  refine MemoryOk.ite ?_ h1.putVal
  split
  · exact h1.putVal
  · exact h1.putVal
  · exact h1

theorem MemoryOk.mendSnap {s : State} {w : Who} {olds : List Fix} {hs : List W32} {before : State} (h : MemoryOk s) :
    MemoryOk (s.mendSnap w olds hs before) := by
  unfold State.mendSnap
  split
  · exact h
  · split
    · exact h
    · exact h.ite h.modEpoch

theorem MemoryOk.undrawn {s : State} {w : Who} {before : State} (h : MemoryOk s) : MemoryOk (s.undrawn w before) := by
  unfold State.undrawn
  split
  · exact h
  · split
    · exact h
    · exact h.modCar

/-- The issue of one word keeps memory's form where its effect does. -/
theorem MemoryOk.issue {o : Op} {eff : Who → List W32 → State → Res} {s : State} (h : MemoryOk s)
    (he : ∀ w hs s, MemoryOk s → ResOk (eff w hs s)) : OutOk (issue o eff s) := by
  unfold Machine.issue
  extract_lets w hs pc s1 fs olds s2 run mask dst
  split
  · exact .fault
  · split
    · exact .next h.takeTrap
    · have h1 : MemoryOk s1 := h.prepare
      have h2 : MemoryOk s2 := h1.same.withOld.seeded
      have hr : ResOk (if run then eff w hs s2 else .ok s2 none false) := .ite (he _ _ _ h2) (.ok h2)
      generalize (if run then eff w hs s2 else .ok s2 none false) = r at hr ⊢
      cases hr with
      | ok h3 => exact .next h3.restoreNew.mendSnap.setStatus.retire
      | trap => exact .next h1.same.takeTrap
      | wait h3 => exact .next h3.restoreNew.mendSnap.undrawn.setFix.setStatus
      | stop => exact .fault

theorem MemoryOk.regEffect {f : Caravan → List W32 → CRegs → CRegs} {w : Who} {hs : List W32} {s : State} (h : MemoryOk s) :
    ResOk (regEffect f w hs s) := by
  unfold Machine.regEffect
  split
  · exact .ok h.modCar
  · exact .ok h

/-! ## The operations of Machine/Ready -/

theorem MemoryOk.noteSlot {s : State} {w : Who} {gated : Bool} (h : MemoryOk s) : MemoryOk (s.noteSlot w gated) := by
  unfold State.noteSlot
  split
  · exact h.noteGate
  · exact h

theorem MemoryOk.yieldsOn {s : State} {w : Who} (h : MemoryOk s) : MemoryOk (s.yieldsOn w) := by
  unfold State.yieldsOn
  split
  · exact h.mapBlocks rfl rfl rfl fun _ hx => by split <;> exact hx
  · exact h

theorem MemoryOk.passGated {s : State} {w : Who} {turn : Nat} (h : MemoryOk s) : MemoryOk (s.passGated w turn) :=
  h.noteSlot.yieldsOn.same

theorem MemoryOk.meter {s : State} {w : Who} (h : MemoryOk s) : MemoryOk (s.meter w) := by
  unfold State.meter
  split
  · exact h.ite (h.same.ite h.same)
  · exact h

theorem MemoryOk.noteIssue {s : State} {w : Who} (h : MemoryOk s) : MemoryOk (s.noteIssue w) := by
  unfold State.noteIssue
  extract_lets
  split
  · split
    · exact h.meter.modCore
    · exact h.meter
  · exact h.meter

theorem MemoryOk.begun {s : State} (h : MemoryOk s) : MemoryOk (s.begun) := by
  unfold State.begun
  split
  · exact h.modCar
  · exact h

/-! ## The operations of Machine/Transfer -/

theorem MemoryOk.ifResult {s : State} {vf r : Nat} (h : MemoryOk s) : MemoryOk (s.ifResult vf r) := h.modVf

theorem MemoryOk.mmioPatch {s : State} {pa : Nat} {bs : List Byte} (h : MemoryOk s) : MemoryOk (s.mmioPatch pa bs) := h.modVf.ite h

theorem MemoryOk.mmioCopy {s : State} {pa : Nat} {bs : List Byte} (h : MemoryOk s) : MemoryOk (s.mmioCopy pa bs) := by
  unfold State.mmioCopy
  extract_lets s1
  have h1 : MemoryOk s1 := by
    unfold s1
    split
    · exact h.queueEvent
    · exact h.queueEvent
    · exact h.queueEvent
    · exact h.ifResult
    · exact h
  exact h1.mmioPatch

theorem MemoryOk.poisonByte {s : State} {l : Loc} {x : Poison} (h : MemoryOk s) : MemoryOk (s.poisonByte l x) := by
  unfold State.poisonByte
  split
  · exact h.same
  · exact h.modBlock

theorem MemoryOk.poisonRun {s : State} {l : Loc} {second : Option Nat} {bad : List (Option Poison)} (h : MemoryOk s) :
    MemoryOk (s.poisonRun l second bad) := by
  unfold State.poisonRun
  refine h.foldl fun _ _ h1 => ?_
  split
  · extract_lets
    split
    · exact h1.poisonByte.poisonByte
    · exact h1.poisonByte
  · exact h1

theorem MemoryOk.pieceWrite {s : State} {p : Piece} {bs : List Byte} {bad : List (Option Poison)} (h : MemoryOk s) :
    MemoryOk (s.pieceWrite p bs bad) := by
  unfold State.pieceWrite
  split
  · obtain ⟨hmem, hfar, hblk⟩ := h
    exact ⟨hmem, Laws.wf_writeN hfar _ _, hblk⟩
  · split
    · exact h.mmioCopy.ite h.put.poisonRun
    · exact h.put.poisonRun

theorem MemoryOk.streamReads {s : State} {tenant : Nat} {here : List Piece} (h : MemoryOk s) :
    MemoryOk (s.streamReads tenant here).2 := by
  unfold State.streamReads
  extract_lets
  refine h.foldl_snd fun _ _ h1 => ?_
  extract_lets
  split
  rename_i e
  exact h1.streamEvent.of_snd e

theorem MemoryOk.streamWrite {s : State} {tenant : Nat} {bs : List StreamByte} (h : MemoryOk s) :
    MemoryOk (s.streamWrite tenant bs) := by
  unfold State.streamWrite
  split
  · exact h
  · exact h.streamEvent

theorem MemoryOk.recordShift {s : State} {tag : Option (Nat × Nat × Nat × Nat)} {p : Piece} (h : MemoryOk s) :
    MemoryOk (s.recordShift tag p) := by
  unfold State.recordShift
  split
  · exact h.modBlock
  · exact h

theorem MemoryOk.transferChunk {s : State} {tenant : Nat} {tag : Option (Nat × Nat × Nat × Nat)} {here : List Piece} (h : MemoryOk s) :
    MemoryOk (s.transferChunk tenant tag here) := by
  unfold State.transferChunk
  split
  rename_i e
  exact ((h.streamReads.of_snd e).foldl fun _ _ h1 => h1.recordShift.pieceWrite.ite h1).streamWrite

theorem MemoryOk.transferRep {s : State} {tenant : Nat} {tag : Option (Nat × Nat × Nat × Nat)} {ps : List Piece} (h : MemoryOk s) :
    MemoryOk (s.transferRep tenant tag ps) := h.foldl fun _ _ h1 => h1.transferChunk

theorem MemoryOk.setTag {s : State} {tag : Option (Nat × Nat × Nat × Nat)} (h : MemoryOk s) : MemoryOk (s.setTag tag) := by
  unfold State.setTag
  split
  · exact h
  · exact h.modBlock

theorem MemoryOk.transfer {s : State} {core id : Nat} (h : MemoryOk s) : MemoryOk (s.transfer core id) := by
  unfold State.transfer
  split
  · exact h
  · extract_lets
    refine h.modCore.dropClosed.finishClosing.ite ?_
    split
    · exact (h.modCore.dropClosed.takeTrap.ite h.modCore.dropClosed).finishClosing
    · exact ((((h.setTag.foldl fun _ _ h1 => h1.transferRep).modCore).arrive).dropClosed).finishClosing

theorem MemoryOk.drainCopies {s : State} {b : Nat} (h : MemoryOk s) : MemoryOk (s.drainCopies b) := by
  unfold State.drainCopies
  split
  · exact h
  · exact h.foldl fun _ _ h1 => h1.transfer

/-! ## The operations of Machine/Array -/

theorem MemoryOk.setTile {s : State} {b n : Nat} {t : Tile} (h : MemoryOk s) : MemoryOk (s.setTile b n t) := h.modBlock

theorem MemoryOk.mxResult {s : State} {m : MxOp} (h : MemoryOk s) : MemoryOk (s.mxResult m) := by
  unfold State.mxResult
  split
  · exact h
  · split
    · exact h.foldl fun _ _ h1 => h1.setTile
    · exact h.modBlock
    · exact h.modBlock
    · exact h.modBlock
    · exact h.setTile
    · exact h.setTile
    · split
      · exact h
      · refine h.foldl fun _ _ h1 => ?_
        extract_lets
        split
        · exact h1.setTile
        · exact h1

/-! ## The operations of Machine/Matrix -/

theorem MemoryOk.modMx {s : State} {core : Nat} {m : MxOp} {f : MxOp → MxOp} (h : MemoryOk s) : MemoryOk (s.modMx core m f) :=
  h.modCore

theorem MemoryOk.countTake {s : State} {core b : Nat} (h : MemoryOk s) : MemoryOk (s.countTake core b) :=
  h.mapBlocks rfl rfl rfl fun _ hx => by split <;> exact hx

theorem MemoryOk.takeMx {s : State} {core : Nat} {m : MxOp} (h : MemoryOk s) : MemoryOk (s.takeMx core m) := by
  unfold State.takeMx
  extract_lets
  refine MemoryOk.ite ?_ h.meter.modCore.countTake.same
  split
  · exact h.meter.modCore.countTake.queueEvent.queueEvent.ite h.meter.modCore.countTake.queueEvent
  · exact h.meter.modCore.countTake.queueEvent

theorem MemoryOk.metAll {s : State} {members : List (Block × MxOp)} (h : MemoryOk s) : MemoryOk (s.metAll members) :=
  (h.foldl fun _ _ h1 => h1.modMx).same

theorem MemoryOk.takeNext {s : State} {core : Nat} {c : CoreSt} (h : MemoryOk s) : MemoryOk (s.takeNext core c) := by
  unfold State.takeNext
  split
  · exact h
  · refine h.takeMx.ite ?_
    split
    · exact h.takeMx
    · extract_lets
      refine (h.foldl fun _ _ h1 => h1.takeTrap).ite ?_
      split
      · exact h.foldl fun _ _ h1 => h1.takeTrap
      · exact h.metAll.takeMx

theorem MemoryOk.arrayTake {s : State} {core : Nat} (h : MemoryOk s) : MemoryOk (s.arrayTake core) := by
  unfold State.arrayTake
  split
  · exact h
  · exact h.ite (h.noteGate.queueEvent.ite h.noteGate.takeNext.endYields)

theorem MemoryOk.multicast {s : State} {x : Block} {m : MxOp} {cols : List (Nat × List MxRow)} (h : MemoryOk s) :
    MemoryOk (s.multicast x m cols) := by
  unfold State.multicast
  split
  · exact h
  · refine h.foldl fun _ _ h1 => ?_
    split
    · exact h1.modMx.queueEvent
    · exact h1

theorem MemoryOk.readMx {s : State} {core : Nat} {m : MxOp} (h : MemoryOk s) : MemoryOk (s.readMx core m) := by
  unfold State.readMx
  split
  · exact h
  · extract_lets m1 scatterBad fail rows cols m2 s1 s2
    have h2 : MemoryOk s2 := h.modMx.multicast.ite h.modMx.queueEvent
    clear_value fail
    cases fail with
    | some t => exact h.modCore.takeTrap
    | none =>
      dsimp only
      split
      · exact h2.queueEvent.ite h2
      · exact h2

theorem MemoryOk.arrayRead {s : State} {core : Nat} (h : MemoryOk s) : MemoryOk (s.arrayRead core) := by
  unfold State.arrayRead
  split
  · exact h.readMx
  · exact h

theorem MemoryOk.arrayComplete {s : State} {core : Nat} (h : MemoryOk s) : MemoryOk (s.arrayComplete core) := by
  unfold State.arrayComplete
  split
  · exact h
  · split
    · exact h
    · exact ((h.mxResult.modCore.queueEvent.ite h.mxResult.modCore).finishClosing).ite h

theorem MemoryOk.pumpArray {s : State} {core : Nat} (h : MemoryOk s) : MemoryOk (s.pumpArray core) := by
  unfold State.pumpArray
  extract_lets s1
  have h1 : MemoryOk s1 := by
    unfold s1
    split
    · refine h.ite ?_
      split
      · exact h.takeMx
      · exact h
    · exact h
  exact h1.arrayRead.arrayComplete

theorem MemoryOk.drainArray {s : State} {b : Nat} (h : MemoryOk s) : MemoryOk (s.drainArray b) :=
  h.foldl fun _ _ h1 => (h1.foldl fun _ _ h2 => h2.pumpArray).ite h1

/-! ## The operations of Machine/Tenant -/

theorem MemoryOk.forgetCore {s : State} {core : Nat} (h : MemoryOk s) : MemoryOk (s.forgetCore core) := h.same

theorem MemoryOk.scrubCore {s : State} {core : Nat} (h : MemoryOk s) : MemoryOk (s.scrubCore core) := by
  unfold State.scrubCore
  extract_lets images s1 wiped s2
  have h2 : MemoryOk s2 := h.forgetCore.mapBlocks rfl rfl rfl fun _ hx => by
    split
    · rfl
    · exact hx
  exact h2.modCore

theorem MemoryOk.killBlock {s : State} {b : Nat} (h : MemoryOk s) : MemoryOk (s.killBlock b) :=
  h.terminate.drainCopies.drainArray.same.modBlock.finishClosing

theorem MemoryOk.noteMoved {s : State} {launch : Nat} (h : MemoryOk s) : MemoryOk (s.noteMoved launch) := by
  unfold State.noteMoved
  split
  · exact h
  · exact h.ite h.same

theorem MemoryOk.dropLaunch {s : State} {launch : Nat} (h : MemoryOk s) : MemoryOk (s.dropLaunch launch) := by
  have hkilled := (h.noteMoved (launch := launch)).modLaunch (l := launch)
    (f := fun l => { l with silent := true, total := 0, chunks := [], unplaced := [] })
  exact (hkilled.foldl fun _ _ h1 => h1.killBlock).filterBlocks rfl rfl rfl

theorem MemoryOk.dropFrames {s : State} {frames : List Nat} (h : MemoryOk s) : MemoryOk (s.dropFrames frames) := h.same

/-- Ranges erased one after another leave the canonical form. -/
theorem MemoryOk.wf_foldl_erase (frames : List Nat) {m : Memory} (h : m.wf = true) :
    (frames.foldl (fun m f => Memory.erase m (f * 0x80000) ((f + 1) * 0x80000)) m).wf = true := by
  induction frames generalizing m with
  | nil => exact h
  | cons f frames ih => exact ih (Laws.wf_erase h _ _)

theorem MemoryOk.tenantReset {s : State} {tenant : Nat} (h : MemoryOk s) : MemoryOk (s.tenantReset tenant) := by
  unfold State.tenantReset
  extract_lets fs s1 s2 frames s3 gen ik s4
  have h2 : MemoryOk s2 := (h.foldl fun _ _ h1 => h1.dropLaunch).foldl fun _ _ h1 => h1.ite h1.scrubCore
  have h3 : MemoryOk s3 := h2.dropFrames
  have h4 : MemoryOk s4 := h3.setMem (wf_foldl_erase _ h3.1) rfl rfl
  exact h4.modTenant

theorem MemoryOk.stopFunction {s : State} {vf : Nat} (h : MemoryOk s) : MemoryOk (s.stopFunction vf) := by
  unfold State.stopFunction
  extract_lets
  split
  · exact ((h.foldl fun _ _ h1 => h1.dropLaunch).foldl fun _ _ h1 => h1.ite h1.scrubCore).dropFrames
  · exact (h.foldl fun _ _ h1 => h1.dropLaunch).foldl fun _ _ h1 => h1.ite h1.scrubCore

theorem MemoryOk.transition {s : State} {vf state cause : Nat} (h : MemoryOk s) : MemoryOk (s.transition vf state cause) := by
  unfold State.transition
  extract_lets
  split
  · exact h.modVf.ite h.modVf.put
  · exact h.modVf

theorem MemoryOk.unmapAll {s : State} {vf : Nat} (h : MemoryOk s) : MemoryOk (s.unmapAll vf) := h.modVf

theorem MemoryOk.ifLock {s : State} {vf : Nat} (h : MemoryOk s) : MemoryOk (s.ifLock vf) := by
  unfold State.ifLock
  split
  · exact h
  · exact h.ifResult.ite (h.ifResult.ite h.unmapAll.put.transition.ifResult)

theorem MemoryOk.ifStart {s : State} {vf : Nat} (h : MemoryOk s) : MemoryOk (s.ifStart vf) := by
  unfold State.ifStart
  split
  · exact h
  · exact h.transition.ifResult.ite h.ifResult

theorem MemoryOk.ifStop {s : State} {vf : Nat} (h : MemoryOk s) : MemoryOk (s.ifStop vf) := by
  unfold State.ifStop
  split
  · exact h
  · exact h.ifResult.ite h.tenantReset.transition.ifResult

theorem MemoryOk.ifCommand {s : State} {vf cmd : Nat} (h : MemoryOk s) : MemoryOk (s.ifCommand vf cmd) := by
  unfold State.ifCommand
  split
  · exact h.ifLock
  · exact h.ifStart
  · exact h.ifStop
  · exact h.ifResult

theorem MemoryOk.ifError {s : State} {vf cause : Nat} {lkaddr : W32} (h : MemoryOk s) : MemoryOk (s.ifError vf cause lkaddr) := by
  unfold State.ifError
  split
  · exact h
  · exact h.stopFunction.modVf.transition.ite h

theorem MemoryOk.mmioWrite {s : State} {pa : Nat} {bs : List Byte} (h : MemoryOk s) : MemoryOk (s.mmioWrite pa bs) := by
  unfold State.mmioWrite
  extract_lets s1
  have h1 : MemoryOk s1 := by
    unfold s1
    split
    · exact h.ifCommand
    · exact h
  exact h1.mmioPatch

/-! ## The operations of Machine/Access -/

theorem MemoryOk.afterRead {s : State} {w : Who} {bypass : Bool} {g : Seg} (h : MemoryOk s) :
    MemoryOk (s.afterRead w bypass g) := by
  unfold State.afterRead
  extract_lets s1
  have h1 : MemoryOk s1 := by
    refine MemoryOk.ite ?_ h
    split
    · exact h.modEpoch
    · exact h
  exact h1.cacheRead

theorem MemoryOk.holdStore {s : State} {w : Who} {g : Seg} {bs : List Byte} (h : MemoryOk s) : MemoryOk (s.holdStore w g bs) := by
  unfold State.holdStore
  extract_lets
  split
  · split
    exact h.hold.request.fillTlb
  · exact h.hold.request

theorem MemoryOk.setIo {s : State} {w : Who} {x : Option IoWait} (h : MemoryOk s) : MemoryOk (s.setIo w x) := by
  unfold State.setIo
  split
  · exact h.modCar
  · exact h

theorem MemoryOk.sendStream {s : State} {w : Who} {d : Dest} {whole : Bool} {lanes : List (Nat × List Seg)}
    {store : Option (List (Nat × List Byte))} {decode bypass : Bool} (h : MemoryOk s) :
    MemoryOk (s.sendStream w d whole lanes store decode bypass) := h.setIo.same.queueEvent

theorem MemoryOk.writeDest {s : State} {w : Who} {d : Dest} {vals : List (Nat × Nat)} (h : MemoryOk s) :
    MemoryOk (s.writeDest w d vals) := by
  unfold State.writeDest
  split
  · exact h.uwr
  · extract_lets
    split
    · exact h.modCar
    · exact h
  · exact h

theorem MemoryOk.writeIo {s : State} {w : Who} {io : IoWait} (h : MemoryOk s) : MemoryOk (s.writeIo w io) := h.setIo.writeDest

theorem MemoryOk.loadAt {want : Want} {lanes : List (Nat × Nat)} {d : Dest} {bypass : Bool} {w : Who} {s : State} (h : MemoryOk s) :
    ResOk (loadAt want lanes d bypass w s) := by
  unfold Machine.loadAt
  split
  · exact (ResOk.wait h).ite (.ok h.writeIo)
  · extract_lets
    split
    split
    · exact .trap
    · extract_lets
      split
      · exact .trap
      · refine (ResOk.wait (h.afterBinds.changed fun h1 => h1.settleWho).sendStream).ite (.ok (MemoryOk.writeDest ?_))
        exact (h.afterBinds.changed fun h1 => h1.settleWho).foldl fun _ _ h1 => h1.foldl fun _ _ h2 => h2.afterRead

theorem MemoryOk.storeAt {want : Want} {lanes : List (Nat × Nat)} {data : Nat → Nat} {whole : Bool} {w : Who} {s : State} (h : MemoryOk s)
    : ResOk (storeAt want lanes data whole w s) := by
  unfold Machine.storeAt
  split
  · exact (ResOk.wait h).ite (.ok h.writeIo)
  · extract_lets
    split
    split
    · exact .trap
    · split
      · exact .trap
      · extract_lets _ _ _ _ s1 s2
        have h1 : MemoryOk s1 := h.afterBinds.settleWho.ite h.afterBinds
        have h2 : MemoryOk s2 := by
          refine h1.foldl fun _ _ h2 => ?_
          refine h2.foldl fun _ _ h3 => ?_
          extract_lets
          split
          · exact h3.mmioWrite.ite h3.holdStore
          · exact h3.holdStore
        exact (ResOk.wait h1.sendStream).ite (.ok h2.evictFor)

/-! ## The operations of Machine/LoadStore -/

theorem MemoryOk.loadReg {word : W32} {f : FmtR} {want : Want} {s : State} (h : MemoryOk s) : OutOk (loadReg word f want s) := by
  refine h.issue fun _ _ _ h1 => ?_
  exact h1.loadAt

theorem MemoryOk.loadOff {word : W32} {f : FmtR} {want : Want} {s : State} (h : MemoryOk s) : OutOk (loadOff word f want s) := by
  refine h.issue fun _ _ _ h1 => ?_
  exact h1.loadAt

theorem MemoryOk.storeRegs {word : W32} {f : FmtR} {want : Want} {s : State} (h : MemoryOk s) : OutOk (storeReg word f want s) := by
  refine h.issue fun _ _ _ h1 => ?_
  exact h1.storeAt

theorem MemoryOk.storeOff {word : W32} {f : FmtR} {want : Want} {s : State} (h : MemoryOk s) : OutOk (storeOff word f want s) := by
  refine h.issue fun _ _ _ h1 => ?_
  exact h1.storeAt

theorem MemoryOk.keepConst {s : State} {core launch line : Nat} (h : MemoryOk s) : MemoryOk (s.keepConst core launch line) :=
  h.modCore

theorem MemoryOk.keepConstSeg {s : State} {w : Who} {launch : Nat} {g : Seg} (h : MemoryOk s) :
    MemoryOk (s.keepConstSeg w launch g) := by
  unfold State.keepConstSeg
  split
  · exact h.ite (h.foldl fun _ _ h1 => h1.keepConst.ite h1)
  · exact h

theorem MemoryOk.constAt {size : Nat} {lanes : List (Nat × Nat)} {d : Dest} {w : Who} {s : State} (h : MemoryOk s) :
    ResOk (constAt size lanes d w s) := by
  unfold Machine.constAt
  extract_lets
  split
  split
  · exact .trap
  · split
    · exact .trap
    · exact .ok (((h.afterBinds.settleWho.ite h.afterBinds).foldl fun _ _ h1 => h1.foldl fun _ _ h2 => h2.keepConstSeg).writeDest)

theorem MemoryOk.execLdu {f : FmtR} {s : State} (h : MemoryOk s) : OutOk (execLdu f s) := by
  refine h.issue fun _ _ _ h1 => ?_
  exact h1.loadAt

theorem MemoryOk.execStu {f : FmtR} {s : State} (h : MemoryOk s) : OutOk (execStu f s) := by
  refine h.issue fun _ _ _ h1 => ?_
  exact h1.storeAt

theorem MemoryOk.execLdc {f : FmtR} {s : State} (h : MemoryOk s) : OutOk (execLdc f s) := by
  refine h.issue fun _ _ _ h1 => ?_
  exact h1.constAt

theorem MemoryOk.execLdcU {f : FmtR} {s : State} (h : MemoryOk s) : OutOk (execLdcU f s) := by
  refine h.issue fun _ _ _ h1 => ?_
  exact h1.constAt

/-! ## The operations of Machine/Operands -/

theorem MemoryOk.vecOp {o : Op} {d a b : Nat} {f : Word → Word → Word → Word} {s : State} (h : MemoryOk s) :
    OutOk (vecOp o d a b f s) := by
  refine h.issue fun _ _ _ h1 => ?_
  exact h1.regEffect

theorem MemoryOk.cmpOp {o : Op} {q : Nat} {f : CRegs → Nat → Bool} {s : State} (h : MemoryOk s) : OutOk (cmpOp o q f s) := by
  refine h.issue fun _ _ _ h1 => ?_
  exact h1.regEffect

theorem MemoryOk.uniOp {o : Op} {d : Nat} {f : (Nat → Word) → List W32 → Word} {s : State} (h : MemoryOk s) :
    OutOk (uniOp o d f s) := by
  refine h.issue fun _ _ _ h1 => ?_
  exact .ok h1.uwr

theorem MemoryOk.condOp {o : Op} {k : Nat} {f : State → Who → List W32 → Bool} {s : State} (h : MemoryOk s) :
    OutOk (condOp o k f s) := by
  refine h.issue fun _ _ _ h1 => ?_
  exact .ok h1.cwr

/-! ## The operations of Machine/Atomic -/

theorem MemoryOk.putAtomic {s : State} {w : Who} {g : Seg} {bs : List Byte} (h : MemoryOk s) : MemoryOk (s.putAtomic w g bs) := by
  unfold State.putAtomic
  extract_lets s1 _
  have h1 : MemoryOk s1 := by
    unfold s1
    split
    · exact h.dropSharers
    · exact h
  exact h1.put

theorem MemoryOk.amoStep {s : State} {w : Who} {op bytes : Nat} {g : Seg} {d swap : Nat} (h : MemoryOk s) :
    MemoryOk (s.amoStep w op bytes g d swap).2 := by
  unfold State.amoStep
  extract_lets
  split
  · exact h.putAtomic
  · exact h

theorem MemoryOk.amoLanes {w : Who} {op bytes : Nat} {lanes : List AmoLane} {s : State} (h : MemoryOk s) :
    MemoryOk (amoLanes w op bytes lanes s).2 := by
  unfold Machine.amoLanes
  refine h.foldl_snd fun _ _ h1 => ?_
  split
  rename_i e
  exact h1.amoStep.of_snd e

theorem MemoryOk.amoPerform {op bytes : Nat} {report : Option W32} {lanes : List AmoLane} {d : Dest}
    {sums : Option (Nat × List (Nat × Nat))} {w : Who} {s : State} (h : MemoryOk s) :
    ResOk (amoPerform op bytes report lanes d sums w s) := by
  unfold Machine.amoPerform
  refine (ResOk.wait h.setIo).ite ?_
  split
  rename_i e
  exact .ok ((h.amoLanes.of_snd e).writeIo)

theorem MemoryOk.amoCheck {op bytes : Nat} {lanes : List (Nat × Nat)} {whole : Bool} {w : Who}
    {act : List (Nat × List Seg) → State → Res} {s : State} (h : MemoryOk s) (ha : ∀ segs s, MemoryOk s → ResOk (act segs s)) :
    ResOk (amoCheck op bytes lanes whole w act s) := by
  unfold Machine.amoCheck
  split
  · exact (ResOk.wait h).ite (.ok h.writeIo)
  · extract_lets
    split
    split
    · exact .trap
    · split
      · exact .trap
      · exact ha _ _ h.afterBinds.settleWho

theorem MemoryOk.amoAt {op bytes : Nat} {lanes : List (Nat × Nat)} {data : Nat → Nat × Nat} {d : Dest} {w : Who} {s : State}
    (h : MemoryOk s) : ResOk (amoAt op bytes lanes data d w s) := h.amoCheck fun _ _ h1 => h1.amoPerform

theorem MemoryOk.amoV {word : W32} {f : FmtZ1DA} {op : Nat} {s : State} (h : MemoryOk s) : OutOk (amoV word f op s) := by
  unfold Machine.amoV
  refine h.issue fun _ _ _ h1 => ?_
  exact h1.amoAt

theorem MemoryOk.amoU {word : W32} {f : FmtZ1DA} {op : Nat} {s : State} (h : MemoryOk s) : OutOk (amoU word f op s) := by
  unfold Machine.amoU
  refine h.issue fun _ _ _ h1 => ?_
  exact h1.amoAt

theorem MemoryOk.appendAt {bytes a : Nat} {inc : Nat → Nat} {d : Nat} {m : W32} {w : Who} {s : State} (h : MemoryOk s) :
    ResOk (appendAt bytes a inc d m w s) := by
  unfold Machine.appendAt
  extract_lets lanes n sum
  split
  · exact .ok h
  · refine h.amoCheck fun segs s h1 => ?_
    split
    · exact h1.amoPerform
    · exact .ok h1

theorem MemoryOk.execAappend {f : FmtZ1} {s : State} (h : MemoryOk s) : OutOk (execAappend f s) := by
  unfold Machine.execAappend
  refine h.issue fun _ _ _ h1 => ?_
  exact h1.appendAt

/-! ## The operations of Machine/Copy -/

theorem MemoryOk.copyAt {k : CopyKind} {n bar : Nat} {lanes : List CopyLane} {w : Who} {s : State} (h : MemoryOk s) :
    ResOk (copyAt k n bar lanes w s) := by
  unfold Machine.copyAt
  extract_lets
  split
  · exact .stop
  · refine ResOk.trap.ite ?_
    split
    · exact .trap
    · split
      · exact .trap
      · split
        · exact .trap
        · exact (ResOk.wait h.afterBinds.settleWho).ite (.ok (((h.afterBinds.settleWho.ite h.afterBinds).same).hold))

theorem MemoryOk.copyOp {word : W32} {f : FmtR} {k : CopyKind} {s : State} (h : MemoryOk s) : OutOk (copyOp word f k s) := by
  unfold Machine.copyOp
  refine h.issue fun _ _ _ h1 => ?_
  exact h1.copyAt

/-! ## The operations of Machine/Sync -/

theorem ResOk.ringTrap {k : Nat} : ResOk (ringTrap k) := .trap

theorem MemoryOk.modRing {s : State} {w : Who} {k : Nat} {f : Ring → Ring} (h : MemoryOk s) : MemoryOk (s.modRing w k f) :=
  h.modBlock

theorem MemoryOk.ringInitAt {k : Nat} {v : Word} {w : Who} {s : State} (h : MemoryOk s) : ResOk (ringInitAt k v w s) := by
  unfold Machine.ringInitAt
  split
  · exact .stop
  · exact ResOk.ringTrap.ite (ResOk.trap.ite (ResOk.ringTrap.ite (.ok h.settleWho.modRing)))

theorem MemoryOk.claimSlot {s : State} {w : Who} {k d st : Nat} (h : MemoryOk s) : MemoryOk (s.claimSlot w k d st) := by
  unfold State.claimSlot
  split
  · exact h
  · exact h.modRing.uwr

theorem MemoryOk.ringGetAt {k d st : Nat} {w : Who} {s : State} (h : MemoryOk s) : ResOk (ringGetAt k d st w s) := by
  unfold Machine.ringGetAt
  extract_lets
  split
  · exact .stop
  · exact ResOk.ringTrap.ite ((ResOk.ok h.settleWho.claimSlot).ite (.wait (h.settleWho.ite h.settleWho.same)))

theorem MemoryOk.ringPutAt {k : Nat} {off : Nat} {st : Nat} {w : Who} {s : State} (h : MemoryOk s) :
    ResOk (ringPutAt k off st w s) := by
  unfold Machine.ringPutAt
  split
  · exact .stop
  · extract_lets
    split
    · exact .ringTrap
    · exact ResOk.ringTrap.ite (.ok h.hold)

theorem ResOk.uninitTrap {k : Nat} : ResOk (uninitTrap k) := .trap

theorem MemoryOk.afterReads {w : Who} {s : State} {r : State → Res} (h : MemoryOk s) (hr : ∀ s, MemoryOk s → ResOk (r s)) :
    ResOk (afterReads w s r) := by
  unfold Machine.afterReads
  split
  · exact (hr _ h).ite (.wait h)
  · exact hr _ h

theorem MemoryOk.barSetAt {k n : Nat} {w : Who} {s : State} (h : MemoryOk s) : ResOk (barSetAt k n w s) := by
  unfold Machine.barSetAt
  refine h.settleWho.afterReads fun _ h1 => ?_
  split
  · exact .stop
  · exact ResOk.trap.ite (.ok h1.modBlock)

theorem MemoryOk.setPhase {s : State} {w : Who} {p : Option PhaseWait} (h : MemoryOk s) : MemoryOk (s.setPhase w p) := by
  unfold State.setPhase
  split
  · exact h.modCar
  · exact h.modSeq

theorem MemoryOk.barArvAt {k d : Nat} {w : Who} {s : State} (h : MemoryOk s) : ResOk (barArvAt k d w s) := by
  unfold Machine.barArvAt
  refine ResOk.uninitTrap.ite ?_
  refine h.afterReads fun _ h1 => ?_
  extract_lets
  split
  · exact .ok (h1.hold.ite h1.hold.setPend)
  · exact .ok h1.hold

theorem MemoryOk.barWaitAt {k : Nat} {ph : W32} {w : Who} {s : State} (h : MemoryOk s) : ResOk (barWaitAt k ph w s) :=
  ResOk.uninitTrap.ite (h.settleWho.afterReads fun _ h1 => (ResOk.ok h1).ite (.wait h1))

theorem MemoryOk.barArwAt {k d : Nat} {w : Who} {s : State} (h : MemoryOk s) : ResOk (barArwAt k d w s) := by
  refine ResOk.uninitTrap.ite (h.settleWho.afterReads fun s hs => ?_)
  have hp : MemoryOk (match s.phaseOf w with
      | some p => (p, s)
      | none => let (ph, s) := s.arrive (blkOf w) k; (({ arg := k, d := d, ph := ph } : PhaseWait), s)).2 := by
    split
    · exact hs
    · exact hs.arrive
  split
  rename_i e
  exact .ite (.ok (hp.of_snd e).setPhase.uwr) (.wait (hp.of_snd e).setPhase)

theorem MemoryOk.bumpScope {s : State} {w : Who} {i : Nat} (h : MemoryOk s) : MemoryOk (s.bumpScope w i) := by
  unfold State.bumpScope
  split
  · exact h.modCar
  · exact h.modSeq

theorem MemoryOk.scopeAt {i arg d : Nat} {w : Who} {s : State} (h : MemoryOk s) : ResOk (scopeAt i arg d w s) := by
  unfold Machine.scopeAt
  extract_lets none_
  refine ResOk.uninitTrap.ite (h.settleWho.afterReads fun s hs => ?_)
  have hp : MemoryOk (match s.phaseOf w with
      | some p => (p, s)
      | none =>
        let p : PhaseWait := { arg := arg, d := d, ph := s.scopeOf w i }
        let s := s.bumpScope w i
        (p, match s.block? (blkOf w) with | some x => s.updateDbar x.launch (dieOf x.core) | none => s)).2 := by
    split
    · exact hs
    · dsimp only
      split
      · exact hs.bumpScope.updateDbar
      · exact hs.bumpScope
  split
  rename_i e
  extract_lets
  exact .ite (.ok (hp.of_snd e).setPhase.uwr) (.wait (hp.of_snd e).setPhase)

theorem MemoryOk.fenceAt {w : Who} {s : State} (h : MemoryOk s) : ResOk (fenceAt w s) :=
  (ResOk.wait h.settleWho).ite (.ok h.settleWho.modCore)

theorem MemoryOk.execRingInit {f : FmtDA} {s : State} (h : MemoryOk s) : OutOk (execRingInit f s) := by
  refine h.issue fun _ _ _ h1 => ?_
  exact h1.ringInitAt

theorem MemoryOk.execRingAcq {f : FmtDA} {s : State} (h : MemoryOk s) : OutOk (execRingAcq f s) := by
  refine h.issue fun _ _ _ h1 => ?_
  exact h1.ringGetAt

theorem MemoryOk.execRingPub {f : FmtDA} {s : State} (h : MemoryOk s) : OutOk (execRingPub f s) := by
  refine h.issue fun _ _ _ h1 => ?_
  exact h1.ringPutAt

theorem MemoryOk.execRingTake {f : FmtDA} {s : State} (h : MemoryOk s) : OutOk (execRingTake f s) := by
  refine h.issue fun _ _ _ h1 => ?_
  exact h1.ringGetAt

theorem MemoryOk.execRingRel {f : FmtDA} {s : State} (h : MemoryOk s) : OutOk (execRingRel f s) := by
  refine h.issue fun _ _ _ h1 => ?_
  exact h1.ringPutAt

theorem MemoryOk.execBarInit {f : FmtDA} {s : State} (h : MemoryOk s) : OutOk (execBarInit f s) := by
  refine h.issue fun _ _ _ h1 => ?_
  exact ResOk.uninitTrap.ite h1.barSetAt

theorem MemoryOk.execBarArv {f : FmtDA} {s : State} (h : MemoryOk s) : OutOk (execBarArv f s) := by
  refine h.issue fun _ _ _ h1 => ?_
  exact h1.barArvAt

theorem MemoryOk.execBarWait {f : FmtDA} {s : State} (h : MemoryOk s) : OutOk (execBarWait f s) := by
  refine h.issue fun _ _ _ h1 => ?_
  exact h1.barWaitAt

theorem MemoryOk.execBarArw {f : FmtDA} {s : State} (h : MemoryOk s) : OutOk (execBarArw f s) := by
  refine h.issue fun _ _ _ h1 => ?_
  exact h1.barArwAt

theorem MemoryOk.execBarInval {f : FmtA} {s : State} (h : MemoryOk s) : OutOk (execBarInval f s) := by
  refine h.issue fun _ _ _ h1 => ?_
  exact h1.barSetAt

theorem MemoryOk.execBbar {f : FmtD} {s : State} (h : MemoryOk s) : OutOk (execBbar f s) := by
  refine h.issue fun _ _ _ h1 => ?_
  exact h1.scopeAt

theorem MemoryOk.execDbar {f : FmtD} {s : State} (h : MemoryOk s) : OutOk (execDbar f s) := by
  refine h.issue fun _ _ _ h1 => ?_
  exact h1.scopeAt

theorem MemoryOk.execCbar {f : FmtCb} {s : State} (h : MemoryOk s) : OutOk (execCbar f s) := by
  refine h.issue fun _ _ _ h1 => ?_
  exact h1.scopeAt

theorem MemoryOk.execFenceIo {f : FmtN} {s : State} (h : MemoryOk s) : OutOk (execFenceIo f s) := by
  refine h.issue fun _ _ _ h1 => ?_
  exact h1.fenceAt

/-! ## The operations of Machine/Queue -/

theorem MemoryOk.declareBundle {s : State} {launch tenant : Nat} {look : Nat → Walk} {ranges : List (Nat × Nat)} (h : MemoryOk s) :
    MemoryOk (s.declareBundle launch tenant look ranges).2 := by
  unfold State.declareBundle
  split
  · exact h
  · split
    · exact h
    · extract_lets
      split
      · exact h
      · split
        · exact h
        · extract_lets
          split
          · exact h
          · split
            · exact h
            · exact h.same

theorem MemoryOk.bdeclAt {d a : Nat} {w : Who} {s : State} (h : MemoryOk s) : ResOk (bdeclAt d a w s) := by
  unfold Machine.bdeclAt
  refine ResOk.trap.ite ?_
  extract_lets
  split
  · rename_i e
    exact .trap
  · rename_i e
    extract_lets
    refine (ResOk.ok ((h.settleWho.readWords.of_snd_snd e).uwr)).ite ?_
    split
    · rename_i e1
      exact .trap
    · rename_i e1
      split
      extract_lets
      split
      rename_i e2
      exact .ok ((((((h.settleWho.readWords.of_snd_snd e).readWords).of_snd_snd e1).declareBundle).of_snd e2).uwr)

theorem MemoryOk.bentrAt {z bar : Nat} {w : Who} {s : State} (h : MemoryOk s) : ResOk (bentrAt z bar w s) := by
  unfold Machine.bentrAt
  split
  · exact .stop
  · refine ResOk.uninitTrap.ite ?_
    split
    · exact .trap
    · exact ResOk.trap.ite (.ok h.hold)

theorem MemoryOk.bleavAt {z : Nat} {w : Who} {s : State} (h : MemoryOk s) : ResOk (bleavAt z w s) := by
  unfold Machine.bleavAt
  split
  · exact .trap
  · exact .ok h.hold

theorem ResOk.queueTrap {sub q : Nat} : ResOk (queueTrap sub q) := .trap

theorem MemoryOk.refeed {s : State} {l : Launch} {p : Pipe} (h : MemoryOk s) : MemoryOk (s.refeed l p) := h.queueEvent.ite h

theorem MemoryOk.qpopAt {try_ : Bool} {q d c : Nat} {w : Who} {s : State} (h : MemoryOk s) : ResOk (qpopAt try_ q d c w s) := by
  unfold Machine.qpopAt
  extract_lets
  split
  · exact .queueTrap
  · split
    · exact .ok (((h.settleWho.modLaunch.foldl fun _ _ h1 => h1.uwr).cwr).refeed)
    · exact (ResOk.ok h.settleWho.cwr).ite (.wait h.settleWho)

theorem MemoryOk.qpushAt {q d : Nat} {w : Who} {s : State} (h : MemoryOk s) : ResOk (qpushAt q d w s) := by
  unfold Machine.qpushAt
  split
  · exact .queueTrap
  · exact ResOk.queueTrap.ite (ResOk.queueTrap.ite ((ResOk.wait h.settleWho).ite
      ((ResOk.ok h.settleWho.perform.queueEvent).ite (.ok h.hold))))

theorem MemoryOk.holdBind {d slot : Nat} {image : Option Nat} {w : Who} {s : State} (h : MemoryOk s) :
    ResOk (holdBind d slot image w s) := .ok (h.hold.ite h.hold.setPend)

theorem MemoryOk.sgbindAt {word : W32} {place d : Nat} {slot a : Nat} {w : Who} {s : State} (h : MemoryOk s) :
    ResOk (sgbindAt word place d slot a w s) := by
  unfold Machine.sgbindAt
  refine ResOk.trap.ite ?_
  refine h.holdBind.ite ?_
  refine ResOk.trap.ite ?_
  extract_lets
  refine h.afterBinds.holdBind.ite ?_
  split
  · exact .trap
  · exact h.afterBinds.holdBind

theorem MemoryOk.execBdecl {f : FmtDA} {s : State} (h : MemoryOk s) : OutOk (execBdecl f s) := by
  refine h.issue fun _ _ _ h1 => ?_
  exact h1.bdeclAt

theorem MemoryOk.execBentr {f : FmtDA} {s : State} (h : MemoryOk s) : OutOk (execBentr f s) := by
  refine h.issue fun _ _ _ h1 => ?_
  exact h1.bentrAt

theorem MemoryOk.execBleav {f : FmtA} {s : State} (h : MemoryOk s) : OutOk (execBleav f s) := by
  refine h.issue fun _ _ _ h1 => ?_
  exact h1.bleavAt

theorem MemoryOk.execBstat {f : FmtDA} {s : State} (h : MemoryOk s) : OutOk (execBstat f s) := by
  refine h.issue fun _ _ _ h1 => ?_
  exact .ok h1.uwr

theorem MemoryOk.execQpop {f : FmtQ} {s : State} (h : MemoryOk s) : OutOk (execQpop f s) := by
  refine h.issue fun _ _ _ h1 => ?_
  exact h1.qpopAt

theorem MemoryOk.execQpopTry {f : FmtQ} {s : State} (h : MemoryOk s) : OutOk (execQpopTry f s) := by
  refine h.issue fun _ _ _ h1 => ?_
  exact h1.qpopAt

theorem MemoryOk.execQpush {f : FmtDA} {s : State} (h : MemoryOk s) : OutOk (execQpush f s) := by
  refine h.issue fun _ _ _ h1 => ?_
  exact h1.qpushAt

theorem MemoryOk.execSgbind {f : FmtDA} {s : State} (h : MemoryOk s) : OutOk (execSgbind f s) := by
  refine h.issue fun _ _ _ h1 => ?_
  exact h1.sgbindAt

theorem MemoryOk.execSgstat {f : FmtDA} {s : State} (h : MemoryOk s) : OutOk (execSgstat f s) := by
  refine h.issue fun _ _ _ h1 => ?_
  exact .ok h1.uwr

theorem MemoryOk.execRdclk {f : FmtD} {s : State} (h : MemoryOk s) : OutOk (execRdclk f s) := by
  refine h.issue fun _ _ _ h1 => ?_
  exact .ok h1.uwr

theorem MemoryOk.execRdptp {f : FmtD} {s : State} (h : MemoryOk s) : OutOk (execRdptp f s) := by
  refine h.issue fun _ _ _ h1 => ?_
  exact .ok h1.uwr

theorem MemoryOk.execRdenergy {f : FmtD} {s : State} (h : MemoryOk s) : OutOk (execRdenergy f s) := by
  refine h.issue fun _ _ _ h1 => ?_
  exact .ok h1.uwr

/-! ## The operations of Machine/Control -/

theorem MemoryOk.goto {a : Nat} {land : Bool} {w : Who} {s : State} (h : MemoryOk s) : ResOk (goto a land w s) := by
  unfold Machine.goto
  split
  · exact .trap
  · exact .ok h

theorem MemoryOk.setPaths {s : State} {w : Who} {m : W32} {stack : List StackEntry} (h : MemoryOk s) :
    MemoryOk (s.setPaths w m stack) := by
  unfold State.setPaths
  split
  · exact h.modCar
  · exact h

theorem ResOk.overflowTrap {depth : Nat} : ResOk (overflowTrap depth) := .trap

theorem MemoryOk.brdAt {off pr : Nat} {w : Who} {hs : List W32} {s : State} (h : MemoryOk s) : ResOk (brdAt off pr w hs s) := by
  unfold Machine.brdAt
  split
  · exact .ok h
  · split
    · exact .stop
    · extract_lets x y t f partner
      refine .ite (.ok h) ?_
      clear_value partner
      split
      · refine ResOk.trap.ite ?_
        split
        · exact .trap
        · exact (ResOk.ok h).ite (ResOk.overflowTrap.ite (.ok h.setPaths))
      · exact .trap

theorem MemoryOk.resumeAt {w : Who} {e : W32} {stack : List StackEntry} {s : State} (h : MemoryOk s) :
    ResOk (resumeAt w e stack s) := by
  unfold Machine.resumeAt
  split
  · exact .ok h.settleWho.endMember
  · split
    · exact .trap
    · exact .ok h.setPaths

theorem MemoryOk.joinAt {off : Nat} {w : Who} {s : State} (h : MemoryOk s) : ResOk (joinAt off w s) := by
  unfold Machine.joinAt
  split
  · exact .ok h
  · split
    · exact .stop
    · extract_lets
      split
      · exact h.goto
      · exact h.resumeAt.ite h.goto

theorem MemoryOk.brxAt {a pr : Nat} {w : Who} {hs : List W32} {s : State} (h : MemoryOk s) : ResOk (brxAt a pr w hs s) := by
  unfold Machine.brxAt
  split
  · exact .ok h
  · split
    · exact .stop
    · extract_lets
      refine (ResOk.trap.ite .trap).ite ?_
      refine ResOk.trap.ite ?_
      split
      · exact .ok h
      · exact .ok h
      · exact ResOk.overflowTrap.ite (.ok h.setPaths)

theorem MemoryOk.exitAt {pr : Nat} {w : Who} {hs : List W32} {s : State} (h : MemoryOk s) : ResOk (exitAt pr w hs s) := by
  unfold Machine.exitAt
  split
  · split
    · exact .stop
    · exact (ResOk.ok h.endMember).ite (.wait h)
  · split
    · exact .stop
    · exact (ResOk.ok h).ite ((ResOk.ok h.settleWho.modCar).ite h.settleWho.modCar.resumeAt)

theorem MemoryOk.loopAt {d i : Nat} {w : Who} {hs : List W32} {s : State} (h : MemoryOk s) : ResOk (loopAt d i w hs s) :=
  (ResOk.ok h.uwr).ite (h.goto.andThen fun _ h1 => .ok h1.uwr)

theorem MemoryOk.execBra {f : FmtB} {s : State} (h : MemoryOk s) : OutOk (execBra f s) := by
  refine h.issue fun _ _ _ h1 => ?_
  exact h1.goto

theorem MemoryOk.execBrd {f : FmtB} {s : State} (h : MemoryOk s) : OutOk (execBrd f s) := by
  refine h.issue fun _ _ _ h1 => ?_
  exact h1.brdAt

theorem MemoryOk.execJoin {f : FmtBn} {s : State} (h : MemoryOk s) : OutOk (execJoin f s) := by
  refine h.issue fun _ _ _ h1 => ?_
  exact h1.joinAt

theorem MemoryOk.execBrx {f : FmtA} {s : State} (h : MemoryOk s) : OutOk (execBrx f s) := by
  refine h.issue fun _ _ _ h1 => ?_
  exact h1.brxAt

theorem MemoryOk.execBrxU {f : FmtA} {s : State} (h : MemoryOk s) : OutOk (execBrxU f s) := by
  refine h.issue fun _ _ _ h1 => ?_
  exact h1.goto

theorem MemoryOk.execRet {f : FmtA} {s : State} (h : MemoryOk s) : OutOk (execRet f s) := by
  refine h.issue fun _ _ _ h1 => ?_
  exact h1.goto

theorem MemoryOk.execLand {f : FmtBn} {s : State} (h : MemoryOk s) : OutOk (execLand f s) := by
  refine h.issue fun _ _ _ h1 => ?_
  exact .ok h1

theorem MemoryOk.execCall {f : FmtB} {s : State} (h : MemoryOk s) : OutOk (execCall f s) := by
  refine h.issue fun _ _ _ h1 => ?_
  exact h1.goto.andThen fun _ h2 => .ok h2.uwr

theorem MemoryOk.execLoop {f : FmtDI} {s : State} (h : MemoryOk s) : OutOk (execLoop f s) := by
  refine h.issue fun _ _ _ h1 => ?_
  exact h1.loopAt

theorem MemoryOk.execExit {f : FmtN} {s : State} (h : MemoryOk s) : OutOk (execExit f s) := by
  refine h.issue fun _ _ _ h1 => ?_
  exact h1.exitAt

/-! ## The operations of Machine/Tile -/

theorem MemoryOk.matrixAt {m : Nat → Sequencer → MxOp} {w : Who} {s : State} (h : MemoryOk s) : ResOk (matrixAt m w s) := by
  unfold Machine.matrixAt
  split
  · exact .ok h
  · split
    · extract_lets
      refine ((ResOk.ok h.modSeq).ite (.wait h)).ite ?_
      split
      · exact .trap
      · exact .wait h.modCore.modSeq.queueEvent
    · exact .stop

theorem MemoryOk.mmaOp {word : W32} {f : FmtW} {k : MxKind} {s : State} (h : MemoryOk s) : OutOk (mmaOp word f k s) := by
  unfold Machine.mmaOp
  refine h.issue fun _ _ _ h1 => ?_
  exact h1.matrixAt

theorem MemoryOk.mstOp {word : W32} {f : FmtW} {k : MxKind} {s : State} (h : MemoryOk s) : OutOk (mstOp word f k s) := by
  refine h.issue fun _ _ _ h1 => ?_
  exact h1.matrixAt

theorem MemoryOk.tileReady {f : FmtT} {w : Who} {hs : List W32} {s : State} {go : Block → W32 → Res} (h : MemoryOk s)
    (hgo : ∀ x m, ResOk (go x m)) : ResOk (tileReady f w hs s go) := by
  unfold Machine.tileReady
  split
  · exact .stop
  · exact (ResOk.ok h).ite (ResOk.trap.ite ((ResOk.wait h).ite (hgo _ _)))

theorem MemoryOk.sliceRead {word : W32} {f : FmtT} {col : Bool} {s : State} (h : MemoryOk s) : OutOk (sliceRead word f col s) := by
  unfold Machine.sliceRead
  refine h.issue fun _ _ _ h1 => ?_
  refine h1.tileReady fun _ _ => ?_
  extract_lets
  split
  · exact .ok h1.modCar
  · exact .ok h1

theorem MemoryOk.sliceWrite {word : W32} {f : FmtT} {col : Bool} {s : State} (h : MemoryOk s) :
    OutOk (sliceWrite word f col s) := by
  refine h.issue fun _ _ _ h1 => ?_
  exact h1.tileReady fun _ _ => .ok h1.settleWho.modBlock

theorem MemoryOk.setvbAt {n : Nat} {w : Who} {s : State} (h : MemoryOk s) : ResOk (setvbAt n w s) := by
  unfold Machine.setvbAt
  split
  · exact .ok h
  · extract_lets
    split
    · extract_lets
      refine ResOk.trap.ite ?_
      split
      · exact .trap
      · exact .ok (h.settleWho.settleRegs.modCar.foldl fun _ _ h1 => h1.setTile)
    · exact .stop

theorem MemoryOk.execMzero {f : FmtDA} {s : State} (h : MemoryOk s) : OutOk (execMzero f s) := by
  refine h.issue fun _ _ _ h1 => ?_
  exact h1.matrixAt

theorem MemoryOk.execSetvb {f : FmtVb} {s : State} (h : MemoryOk s) : OutOk (execSetvb f s) := by
  refine h.issue fun _ _ _ h1 => ?_
  exact h1.setvbAt

/-! ## The operations of Machine/Coherence -/

theorem MemoryOk.writeback {s : State} {w : Who} (h : MemoryOk s) : MemoryOk (s.writeback w) := by
  unfold State.writeback
  split
  · exact h
  · split
    · exact h
    · split
      · exact h.settleRegs
      · exact h

theorem MemoryOk.lateRecord {s : State} {w : Who} {t : Trap} (h : MemoryOk s) : MemoryOk (s.lateRecord w t) :=
  h.modBlock fun x => by split <;> rfl

theorem MemoryOk.hostDone {s : State} {b n : Nat} {ok performed : Bool} (h : MemoryOk s) :
    MemoryOk (s.hostDone b n ok performed) := by
  unfold State.hostDone
  split
  · exact h
  · split
    · exact h
    · extract_lets
      refine MemoryOk.ite ?_ ?_
      · refine h.modCar.ite ?_
        split
        rename_i e
        exact (h.amoLanes.of_snd e).modCar
      · split
        · exact h.modCar
        · extract_lets
          split
          rename_i e
          exact (((h.amoLanes.of_snd e).modCar).takeTrap).ite (((h.amoLanes.of_snd e).modCar).lateRecord)

theorem MemoryOk.serveSeg {s : State} {r : StreamReq} {g : Seg} {data : Option (List Byte)} (h : MemoryOk s) :
    MemoryOk (s.serveSeg r g data).2 := by
  unfold State.serveSeg
  extract_lets plain
  have hplain : ∀ second tracked, MemoryOk (plain second tracked).2 := fun second tracked => by
    unfold plain
    split
    · exact h.cacheRead
    · dsimp only
      split
      · exact h.mmioWrite.ite h.perform
      · exact h.perform
  split
  · split
    · exact h.streamAccess
    · exact hplain _ _
  · exact hplain _ _

theorem MemoryOk.serveLane {s : State} {r : StreamReq} {l : Nat × List Seg} (h : MemoryOk s) : MemoryOk (s.serveLane r l).2 := by
  unfold State.serveLane
  extract_lets
  split
  · exact h.foldl fun _ _ h1 => h1.cacheRead
  · exact MemoryOk.foldl_snd h fun _ _ h1 => h1.serveSeg

theorem MemoryOk.streamServe {s : State} {id : Nat} (h : MemoryOk s) : MemoryOk (s.streamServe id) := by
  unfold State.streamServe
  split
  · exact h
  · refine h.ite ?_
    extract_lets s1 read s2
    have h1 : MemoryOk s1 := h.same
    have h2 : MemoryOk s2 := by
      unfold s2
      split
      · exact h1.setIo.takeTrap.ite h1.lateRecord
      · split
        rename_i s3 e
        have h3 : MemoryOk s3 := by
          refine MemoryOk.of_snd ?_ e
          exact MemoryOk.foldl_snd h1 fun _ _ h2 => h2.serveLane
        split
        · exact h3.setIo
        · exact h3
    exact h2.dropClosed.finishClosing

theorem MemoryOk.eccError {s : State} {e : EccError} (h : MemoryOk s) : MemoryOk (s.eccError e) := by
  unfold State.eccError
  split
  · exact h.modCar.modCore
  · exact h.ite h.takeTrap
  · exact h.foldl fun _ _ h1 => h1.ite h1.poisonByte

theorem MemoryOk.keepResponse {s : State} {tag : Nat} (h : MemoryOk s) : MemoryOk (s.keepResponse tag) := h.same.ite h

theorem MemoryOk.cutOff {s : State} (h : MemoryOk s) : MemoryOk (s.cutOff) := by
  unfold State.cutOff
  refine h.foldl fun _ _ h1 => ?_
  refine h1.foldl fun _ _ h2 => ?_
  split
  · exact h2.modCar.countRollback
  · exact h2

theorem MemoryOk.remoteRequest {s : State} {src : Requester} {line first last : Nat} {own : Bool} (h : MemoryOk s) :
    MemoryOk (s.remoteRequest src line first last own) := by
  unfold State.remoteRequest
  extract_lets
  split
  · exact h.homePerform.writeEvent.ite h.homePerform
  · exact h.homePerform

theorem MemoryOk.messageWrite {s : State} {src : Requester} {line first last : Nat} (h : MemoryOk s) :
    MemoryOk (s.messageWrite src line first last) := by
  unfold State.messageWrite
  split
  · exact h.put
  · exact h

theorem MemoryOk.closeHolders {s : State} {core line : Nat} (h : MemoryOk s) : MemoryOk (s.closeHolders core line) :=
  h.foldl fun _ _ h1 => h1.foldl fun _ _ h2 => h2.modCar.queueEvent.ite h2

theorem MemoryOk.commitNext {s : State} {b n : Nat} {c : Caravan} (h : MemoryOk s) : MemoryOk (s.commitNext b n c) := by
  unfold State.commitNext
  extract_lets
  refine h.serveLate.finishClosing.ite ?_
  refine MemoryOk.ite ?_ (h.commitOldest.ite h)
  split
  · exact h.modCar.countRollback
  · exact h.commitAll

theorem MemoryOk.execEpochCommit {blk car : Nat} {s : State} (h : MemoryOk s) : OutOk (execEpochCommit blk car s) := by
  unfold Machine.execEpochCommit
  split
  · exact .next h
  · exact .next h.commitNext

theorem MemoryOk.execCoreEscortEnd {core : Nat} {s : State} (h : MemoryOk s) : OutOk (execCoreEscortEnd core s) := by
  unfold Machine.execCoreEscortEnd
  split
  · exact .fault
  · exact .next (h.modCore.ite h)

theorem MemoryOk.execUncorrectableError {e : EccError} {s : State} (h : MemoryOk s) : OutOk (execUncorrectableError e s) := by
  unfold Machine.execUncorrectableError
  split
  · exact .next (h.eccError.ite h)
  · exact .next (h.eccError.ite h)
  · exact .next h.eccError

theorem MemoryOk.execCopyTransfer {id : Nat} {s : State} (h : MemoryOk s) : OutOk (execCopyTransfer id s) := by
  unfold Machine.execCopyTransfer
  split
  · exact .next h
  · exact .next h.transfer.keepResponse

theorem MemoryOk.execWfeTimeout {blk car : Nat} {s : State} (h : MemoryOk s) : OutOk (execWfeTimeout blk car s) := by
  unfold Machine.execWfeTimeout
  split
  · exact .next h
  · exact .next (h.modCar.ite h)

/-! ## The operations of Machine/Float -/

theorem MemoryOk.roundedOp {o : Op} {d n : Nat} {f : CRegs → Nat → List W32 → (Nat → Nat) → Word} {s : State} (h : MemoryOk s) :
    OutOk (roundedOp o d n f s) := by
  refine h.issue fun _ _ _ h1 => ?_
  exact h1.regEffect

/-! ## The operations of Machine/VecFloat -/

theorem MemoryOk.vecArith {word : W32} {fm : Fmt} {st : BitVec 2} {pr : BitVec 3} {ok : Bool} {d a b : BitVec 6} {three : Bool}
    {g : Bool → Machine.Num → Machine.Num → Machine.Num → Machine.Num} {s : State} (h : MemoryOk s) :
    OutOk (vecArith word fm st pr ok d a b three g s) := h.roundedOp

theorem MemoryOk.vecPick {word : W32} {fm : Fmt} {st : BitVec 2} {pr : BitVec 3} {ok : Bool} {d a b : BitVec 6} {greatest : Bool}
    {s : State} (h : MemoryOk s) : OutOk (vecPick word fm st pr ok d a b greatest s) := h.vecOp

theorem MemoryOk.vecSetp {word : W32} {fm : Fmt} {st : BitVec 2} {pr : BitVec 3} {ok : Bool} {cond : Nat} {q : BitVec 3} {a b : BitVec 6}
    {s : State} (h : MemoryOk s) : OutOk (vecSetp word fm st pr ok cond q a b s) := h.cmpOp

theorem MemoryOk.vecFun {word : W32} {fm : Fmt} {st : BitVec 2} {pr : BitVec 3} {ok : Bool} {d a : BitVec 6} {g : Nat → Nat} {s : State}
    (h : MemoryOk s) : OutOk (vecFun word fm st pr ok d a g s) := h.vecOp

theorem MemoryOk.execFadd {f : FmtR} {s : State} (h : MemoryOk s) : OutOk (execFadd f s) := h.vecArith

theorem MemoryOk.execFsub {f : FmtR} {s : State} (h : MemoryOk s) : OutOk (execFsub f s) := h.vecArith

theorem MemoryOk.execFmul {f : FmtR} {s : State} (h : MemoryOk s) : OutOk (execFmul f s) := h.vecArith

theorem MemoryOk.execFma {f : FmtR} {s : State} (h : MemoryOk s) : OutOk (execFma f s) := h.vecArith

theorem MemoryOk.execFaddBf16 {f : FmtW} {s : State} (h : MemoryOk s) : OutOk (execFaddBf16 f s) := h.vecArith

theorem MemoryOk.execFsubBf16 {f : FmtW} {s : State} (h : MemoryOk s) : OutOk (execFsubBf16 f s) := h.vecArith

theorem MemoryOk.execFmulBf16 {f : FmtW} {s : State} (h : MemoryOk s) : OutOk (execFmulBf16 f s) := h.vecArith

theorem MemoryOk.execFmaBf16 {f : FmtW} {s : State} (h : MemoryOk s) : OutOk (execFmaBf16 f s) := h.vecArith

/-! ## The operations of Machine/Convert -/

theorem MemoryOk.convertOp {word : W32} {st : BitVec 2} {pr : BitVec 3} {sz : BitVec 2} {d a : BitVec 6} {dest : Elem} {src : Option Elem}
    {s : State} (h : MemoryOk s) : OutOk (convertOp word st pr sz d a dest src s) := by
  unfold Machine.convertOp
  exact h.roundedOp

theorem MemoryOk.formatOp {o : Op} {b : Nat} {block : Bool} {eff : Elem → Who → List W32 → State → Res} {s : State} (h : MemoryOk s)
    (he : ∀ e w hs s, MemoryOk s → ResOk (eff e w hs s)) : OutOk (formatOp o b block eff s) := by
  refine h.issue fun w hs s h1 => ?_
  extract_lets
  refine .ite ?_ (.ok h1)
  split
  · exact he _ _ _ _ h1
  · exact .trap

theorem MemoryOk.execCvtXF32 {f : FmtW} {s : State} (h : MemoryOk s) : OutOk (execCvtXF32 f s) :=
  h.formatOp fun _ _ _ _ h1 => h1.regEffect

theorem MemoryOk.execCvtF32X {f : FmtW} {s : State} (h : MemoryOk s) : OutOk (execCvtF32X f s) :=
  h.formatOp fun _ _ _ _ h1 => h1.regEffect

theorem MemoryOk.execQblk {f : FmtW} {s : State} (h : MemoryOk s) : OutOk (execQblk f s) := by
  unfold Machine.execQblk
  refine h.formatOp fun _ _ _ _ h1 => ?_
  split
  · exact .ok h1
  · split
    · exact .ok h1
    · extract_lets
      split
      exact .ok h1.modCar.setPend

theorem MemoryOk.execDqblk {f : FmtW} {s : State} (h : MemoryOk s) : OutOk (execDqblk f s) :=
  h.formatOp fun _ _ _ _ h1 => h1.regEffect

theorem MemoryOk.execSwz {f : FmtW} {s : State} (h : MemoryOk s) : OutOk (execSwz f s) := h.vecOp

/-! ## The operations of Machine/System -/

theorem ResOk.levelTrap : ResOk levelTrap := .trap

theorem MemoryOk.sysWrite {s : State} {w : Who} {r : Nat} {x : Word} (h : MemoryOk s) : MemoryOk (s.sysWrite w r x) := by
  unfold State.sysWrite
  split
  extract_lets core car
  have hcar : ∀ g, MemoryOk (car g) := fun g => by
    unfold car
    split
    · exact h.modCar
    · exact h
  split
  · exact hcar _
  · exact hcar _
  · exact hcar _
  · exact hcar _
  · exact h.modVf
  · exact h.modVf
  · exact h.modVf
  · exact h.modVf
  · exact h.modCore
  · exact h.queueEvent
  · exact h.modProc
  · exact h.modProc
  · exact h.queueEvent
  · exact h.queueEvent
  · exact h.queueEvent
  · exact h.same
  · exact h.queueEvent
  · exact h.queueEvent.ite h

theorem MemoryOk.mfsrAt {d r : Nat} {w : Who} {s : State} (h : MemoryOk s) : ResOk (mfsrAt d r w s) := by
  unfold Machine.mfsrAt
  split
  · exact .ok h
  · split
    · exact .stop
    · exact .ok h.uwr

theorem MemoryOk.mtsrAt {word : W32} {place r : Nat} {x : Word} {w : Who} {s : State} (h : MemoryOk s) :
    ResOk (mtsrAt word place r x w s) := ResOk.trap.ite (.ok h.settleWho.sysWrite)

theorem MemoryOk.eretAt {word : W32} {place : Nat} {nobp term : Bool} {w : Who} {s : State} (h : MemoryOk s) :
    ResOk (eretAt word place nobp term w s) := by
  unfold Machine.eretAt
  split
  · exact .ok h
  · split
    · exact .stop
    · extract_lets
      refine ResOk.trap.ite ?_
      refine (ResOk.ok (h.settleWho.stewardRecord.endMember.ite h.settleWho.terminate)).ite ?_
      split
      · exact .trap
      · exact .ok h.settleWho.modCar

theorem MemoryOk.tlbiDo {s : State} {w : Who} {kind ten va : Nat} (h : MemoryOk s) : MemoryOk (s.tlbiDo w kind ten va) := by
  unfold State.tlbiDo
  extract_lets _ _ s1 s2 s3 _
  have h1 : MemoryOk s1 := by
    refine h.foldl fun _ _ h1 => ?_
    split
    · exact h1.foldl fun _ _ h2 => h2.ite h2.commitAll
    · exact h1
  have h2 : MemoryOk s2 := h1.foldl fun _ _ h2 => h2.drainCopies
  have h3 : MemoryOk s3 := h2.foldl fun _ _ h3 => h3.streamServe
  exact h3.same

theorem MemoryOk.tlbiAt {word : W32} {place scope va : Nat} {w : Who} {s : State} (h : MemoryOk s) :
    ResOk (tlbiAt word place scope va w s) := ResOk.trap.ite (ResOk.levelTrap.ite ((ResOk.wait h.settleWho).ite (.ok h.settleWho.tlbiDo)))

theorem MemoryOk.flushLine {s : State} {line : Nat} (h : MemoryOk s) : MemoryOk (s.flushLine line) :=
  (h.foldl fun _ _ h1 => h1.giveUp).same

theorem MemoryOk.cacheopAt {word : W32} {place op va : Nat} {w : Who} {s : State} (h : MemoryOk s) :
    ResOk (cacheopAt word place op va w s) := by
  unfold Machine.cacheopAt
  refine ResOk.trap.ite ?_
  extract_lets s1 core
  have h1 : MemoryOk s1 := h.settleWho
  split
  extract_lets line s2
  refine .ok ?_
  unfold s2
  clear_value line
  split
  · exact h1.modCore
  · exact h1.flushLine
  · exact h1.modCore
  · exact h1

theorem MemoryOk.scrubAt {d x : Nat} {w : Who} {s : State} (h : MemoryOk s) : ResOk (scrubAt d x w s) := by
  unfold Machine.scrubAt
  extract_lets
  split
  · exact .ok h.settleWho.writeIo
  · exact (ResOk.ok h.settleWho.uwr).ite ((ResOk.ok h.settleWho.uwr).ite ((ResOk.ok h.settleWho.uwr).ite
      (.wait h.settleWho.scrubCore.setIo)))

theorem MemoryOk.ovldAt {d addr desc : Nat} {w : Who} {s : State} (h : MemoryOk s) : ResOk (ovldAt d addr desc w s) := by
  unfold Machine.ovldAt
  extract_lets
  split
  · exact .stop
  · refine (ResOk.ok h.settleWho.uwr).ite ?_
    refine (ResOk.ok h.settleWho.uwr).ite ?_
    split
    · exact .ok h.settleWho.uwr
    · split
      · rename_i e
        exact .trap
      · rename_i e
        exact .ok (((h.settleWho.readUnits.of_snd_snd e).modCore).uwr)

theorem MemoryOk.wfeAt {d va timeout : Nat} {w : Who} {s : State} (h : MemoryOk s) : ResOk (wfeAt d va timeout w s) := by
  unfold Machine.wfeAt
  -- named first, so that no check of the branches below computes the place
  obtain ⟨place, hplace⟩ : ∃ p, p = s.wfePlace w va := ⟨_, rfl⟩
  rw [← hplace]
  split
  · exact .ok h
  · split
    · exact .stop
    · extract_lets done s1
      have h1 : MemoryOk s1 := h.settleWho
      split
      · exact .ok h.modCar.uwr
      · split
        · exact .trap
        · split
          · exact .trap
          · extract_lets s2
            have h2 : MemoryOk s2 := h1.request
            split
            extract_lets s3
            have h3 : MemoryOk s3 := h2.fillTlb.ite h2
            exact .ite (.ok h3.modCar.uwr) (.wait h3.modCar)

theorem MemoryOk.hintWord {word : W32} {s : State} (h : MemoryOk s) : OutOk (hintWord word s) :=
  OutOk.fault.ite (.next h.setPc.setFix.same)

theorem MemoryOk.execSvc {f : FmtS} {s : State} (h : MemoryOk s) : OutOk (execSvc f s) := by
  refine h.issue fun _ _ _ h1 => ?_
  exact .trap

theorem MemoryOk.execEret {f : FmtN} {s : State} (h : MemoryOk s) : OutOk (execEret f s) := by
  refine h.issue fun _ _ _ h1 => ?_
  exact h1.eretAt

theorem MemoryOk.execEretNobp {f : FmtN} {s : State} (h : MemoryOk s) : OutOk (execEretNobp f s) := by
  refine h.issue fun _ _ _ h1 => ?_
  exact h1.eretAt

theorem MemoryOk.execEretTerm {f : FmtTm} {s : State} (h : MemoryOk s) : OutOk (execEretTerm f s) := by
  refine h.issue fun _ _ _ h1 => ?_
  exact h1.eretAt

theorem MemoryOk.execMfsr {f : FmtDI} {s : State} (h : MemoryOk s) : OutOk (execMfsr f s) := by
  refine h.issue fun _ _ _ h1 => ?_
  exact h1.mfsrAt

theorem MemoryOk.execMtsr {f : FmtAI} {s : State} (h : MemoryOk s) : OutOk (execMtsr f s) := by
  refine h.issue fun _ _ _ h1 => ?_
  exact h1.mtsrAt

theorem MemoryOk.execTlbiPage {f : FmtDA} {s : State} (h : MemoryOk s) : OutOk (execTlbiPage f s) := by
  refine h.issue fun _ _ _ h1 => ?_
  exact h1.tlbiAt

theorem MemoryOk.execTlbiSpace {f : FmtDA} {s : State} (h : MemoryOk s) : OutOk (execTlbiSpace f s) := by
  refine h.issue fun _ _ _ h1 => ?_
  exact h1.tlbiAt

theorem MemoryOk.execTlbiTenant {f : FmtDA} {s : State} (h : MemoryOk s) : OutOk (execTlbiTenant f s) := by
  refine h.issue fun _ _ _ h1 => ?_
  exact h1.tlbiAt

theorem MemoryOk.execScrub {f : FmtDA} {s : State} (h : MemoryOk s) : OutOk (execScrub f s) := by
  refine h.issue fun _ _ _ h1 => ?_
  exact h1.scrubAt

theorem MemoryOk.execOvld {f : FmtDA} {s : State} (h : MemoryOk s) : OutOk (execOvld f s) := by
  refine h.issue fun _ _ _ h1 => ?_
  exact h1.ovldAt

theorem MemoryOk.execCacheopDropLine {f : FmtDA} {s : State} (h : MemoryOk s) : OutOk (execCacheopDropLine f s) := by
  refine h.issue fun _ _ _ h1 => ?_
  exact h1.cacheopAt

theorem MemoryOk.execCacheopWriteback {f : FmtDA} {s : State} (h : MemoryOk s) : OutOk (execCacheopWriteback f s) := by
  refine h.issue fun _ _ _ h1 => ?_
  exact h1.cacheopAt

theorem MemoryOk.execCacheopDropAll {f : FmtDA} {s : State} (h : MemoryOk s) : OutOk (execCacheopDropAll f s) := by
  refine h.issue fun _ _ _ h1 => ?_
  exact h1.cacheopAt

theorem MemoryOk.execWfe {f : FmtW} {s : State} (h : MemoryOk s) : OutOk (execWfe f s) := by
  refine h.issue fun _ _ _ h1 => ?_
  exact h1.wfeAt

theorem MemoryOk.execHalt {f : FmtN} {s : State} (h : MemoryOk s) : OutOk (execHalt f s) := by
  refine h.issue fun _ _ _ h1 => ?_
  exact .wait h1.settleWho

/-! ## The operations of Machine/Boot -/

/-- A reset builds its state anew, whatever the state before it was (R430). -/
theorem MemoryOk.packageReset {s : State} {bootwhy : Word} : MemoryOk (s.packageReset bootwhy) :=
  Laws.memoryOk_reset.same

theorem MemoryOk.failWith {s : State} {x : Word} : MemoryOk (s.failWith x) :=
  packageReset.same.ite packageReset

theorem MemoryOk.failStart {s : State} {reason : Nat} : MemoryOk (s.failStart reason) := failWith

theorem MemoryOk.enterImage {s : State} {bytes : List Byte} {entry : Word} (h : MemoryOk s) : MemoryOk (s.enterImage bytes entry) :=
  (h.writeMem (a := Config.imageBase) (bs := bytes)).mapBlocks rfl rfl rfl fun _ hx => by split <;> exact hx

theorem MemoryOk.bootRom {s : State} (h : MemoryOk s) : MemoryOk (s.bootRom) :=
  failStart.ite (failStart.ite (failStart.ite h.enterImage.same))

theorem MemoryOk.trapFetch {s : State} {t : Trap} (h : MemoryOk s) : MemoryOk (s.trapFetch t) := h.setPc.takeTrap.ite h.takeTrap

theorem MemoryOk.pass {s : State} {w : Who} {turn : Nat} (h : MemoryOk s) : MemoryOk (s.pass w turn) := h.same.noteSlot.noteIssue

/-! ## The operations of Machine/Place -/

theorem MemoryOk.tick {s : State} (h : MemoryOk s) : MemoryOk (s.tick).2 := h.same

theorem MemoryOk.evictBundle {s : State} {r : BundleReq} {v : Bundle} (h : MemoryOk s) : MemoryOk (s.evictBundle r v) :=
  h.modBundle.same

theorem MemoryOk.roomFor {s : State} {r : BundleReq} {n : Nat} (h : MemoryOk s) : MemoryOk (s.roomFor r n) := by
  induction n generalizing s with
  | zero => exact h
  | succ n ih =>
    unfold State.roomFor
    refine h.ite ?_
    split
    · exact h
    · exact ih h.evictBundle

theorem MemoryOk.serveBundles {s : State} {tenant die : Nat} (h : MemoryOk s) : MemoryOk (s.serveBundles tenant die) := by
  unfold State.serveBundles
  split
  · exact h
  · exact (h.same.changed fun h1 => h1.queueEvent).ite (h.roomFor.ite
      ((h.roomFor.foldl fun _ _ h1 => h1.modBundle.queueEvent).same.changed fun h1 => h1.queueEvent))

theorem MemoryOk.recallAway {s : State} {u : Bundle} (h : MemoryOk s) : MemoryOk (s.recallAway u) :=
  (h.foldl fun _ _ h1 => h1.foldl fun _ _ h2 => h2.ite h2.giveUp).same

theorem MemoryOk.enterAt {s : State} {handle : Nat} (h : MemoryOk s) : MemoryOk (s.enterAt handle) := by
  unfold State.enterAt
  split
  rename_i e
  extract_lets
  split
  · exact ((h.tick.of_snd e).modBundle).recallAway
  · exact (h.tick.of_snd e).modBundle

theorem MemoryOk.completeEntry {s : State} {b handle : Nat} (h : MemoryOk s) : MemoryOk (s.completeEntry b handle) := by
  unfold State.completeEntry
  extract_lets
  refine (h.modBundle.foldl fun _ _ h1 => h1.queueEvent).ite ?_
  refine h.modBundle.modBlock.enterAt.foldl fun _ _ h1 => ?_
  split
  · exact h1.arrive
  · exact h1

theorem MemoryOk.readyCore {s : State} {core tenant : Nat} {l : Launch} (h : MemoryOk s) :
    MemoryOk (s.readyCore core tenant l) := by
  unfold State.readyCore
  extract_lets _ s1
  have h1 : MemoryOk s1 := by
    unfold s1
    split
    · exact h.modCore
    · exact h
  exact h1.modCore

/-- A block whose local store is in its form takes its place on a core. -/
theorem MemoryOk.putBlock {s : State} {x : Block} {tenant : Nat} {l : Launch} (h : MemoryOk s) (hx : x.ls.wf = true) :
    MemoryOk (s.putBlock x tenant l) := by
  obtain ⟨hmem, hfar, hblk⟩ : MemoryOk (s.readyCore x.core tenant l) := h.readyCore
  refine ⟨hmem, hfar, fun y hy => ?_⟩
  rcases List.mem_append.mp hy with hy | hy
  · exact hblk y hy
  · rw [List.mem_singleton.mp hy]; exact hx

theorem MemoryOk.enterNow {s : State} {x : Block} (h : MemoryOk s) : MemoryOk (s.enterNow x) := h.foldl fun _ _ h1 => h1.enterAt

theorem MemoryOk.startBlock {s t : State} {launch : Nat} {dies : List Nat} {c : Cand} (h : MemoryOk s)
    (e : s.startBlock launch dies c = some t) : MemoryOk t := by
  unfold State.startBlock at e
  split at e
  · cases e
  · split at e
    · split at e
      · cases e
      · cases e; exact (h.putBlock rfl).enterNow
    · cases e

theorem MemoryOk.startAll {s t : State} {launch : Nat} {dies : List Nat} {cs : List Cand} (h : MemoryOk s)
    (e : s.startAll launch dies cs = some t) : MemoryOk t := by
  induction cs generalizing s with
  | nil => cases e; exact h
  | cons c cs ih =>
    unfold State.startAll at e
    split at e
    · cases e
    · rename_i e1; exact ih (h.startBlock e1) e

/-! ## The operations of Machine/Preempt -/

theorem MemoryOk.stopCaravan {s : State} {b n : Nat} (h : MemoryOk s) : MemoryOk (s.stopCaravan b n) := by
  unfold State.stopCaravan
  split
  · exact h
  · exact h.ite (h.modCar.ite ((h.modCar.countRollback.ite h.modCar.commitAll).modCar))

theorem MemoryOk.stopBlock {s : State} {b : Nat} (h : MemoryOk s) : MemoryOk (s.stopBlock b) := by
  unfold State.stopBlock
  split
  · exact h
  · exact ((((h.modCore.same.foldl fun _ _ h1 => h1.stopCaravan).drainArray).modBlock).drainCopies).finishClosing

theorem MemoryOk.saveBlock {s t : State} {b : Nat} (h : MemoryOk s) (e : s.saveBlock b = some t) : MemoryOk t := by
  unfold State.saveBlock at e
  split at e
  · cases e; exact h
  · split at e
    · cases e
    · dsimp only at e
      split at e
      · cases e
      · cases e
        refine MemoryOk.dropOverlays (.filterBlocks (h.writeMem.foldl fun _ _ h1 => h1.poisonByte) rfl rfl rfl)

theorem MemoryOk.saveBlocks {ids : List Nat} {acc : Option State} (h : ∀ s, acc = some s → MemoryOk s) {t : State}
    (e : ids.foldl (fun (acc : Option State) b => acc.bind fun st => st.saveBlock b) acc = some t) : MemoryOk t := by
  induction ids generalizing acc with
  | nil => exact h t e
  | cons b ids ih =>
    refine ih (fun u hu => ?_) e
    obtain ⟨v, hv, hu⟩ := Option.bind_eq_some_iff.mp hu
    exact (h v hv).saveBlock hu

theorem MemoryOk.preempt {s t : State} {ids : List Nat} (h : MemoryOk s) (e : s.preempt ids = some t) : MemoryOk t := by
  obtain ⟨u, hu, rfl⟩ := Option.map_eq_some_iff.mp e
  have h1 : MemoryOk (ids.foldl State.stopBlock s) := h.foldl fun _ _ h1 => h1.stopBlock
  have h2 : MemoryOk u := .saveBlocks (fun v hv => by cases hv; exact h1) hu
  exact MemoryOk.foldl (MemoryOk.nudgeArrays (h2.foldl fun _ _ h3 => h3.updateDbar.endYields)) fun _ _ h4 => h4.queueEvent

/-- A block read back has a local store written afresh. -/
theorem MemoryOk.wf_readBack (s : State) (l : Launch) (k : Kernel) (sv : Saved) (core : Nat) :
    (s.readBack l k sv core).ls.wf = true :=
  Laws.wf_writeN (m := []) rfl _ _

theorem MemoryOk.restoreOne {s t : State} {sv : Saved} (h : MemoryOk s) (e : s.restoreOne sv = some t) : MemoryOk t := by
  unfold State.restoreOne at e
  split at e
  · cases e
  · split at e
    · split at e
      · cases e
      · split at e
        · cases e
        · cases e
          exact MemoryOk.foldl (h.same.putBlock (wf_readBack ..)).updateDbar fun _ _ h1 => h1.queueEvent.ite h1
    · cases e

theorem MemoryOk.restoreAll {s t : State} {vs : List Saved} (h : MemoryOk s) (e : s.restoreAll vs = some t) : MemoryOk t := by
  induction vs generalizing s with
  | nil => cases e; exact h
  | cons v vs ih =>
    unfold State.restoreAll at e
    split at e
    · cases e
    · rename_i e1; exact ih (h.restoreOne e1) e

/-! ## The operations of Machine/Launch -/

theorem MemoryOk.withProc {s : State} {vf p : Nat} (h : MemoryOk s) : MemoryOk (s.withProc vf p) := by
  unfold State.withProc
  split
  · split
    · exact h
    · exact h.modVf
  · exact h

theorem MemoryOk.queueError {s : State} {vf q code : Nat} (h : MemoryOk s) : MemoryOk (s.queueError vf q code) := h.modQueue

theorem MemoryOk.noteServed {s : State} {vf p q pri : Nat} (h : MemoryOk s) : MemoryOk (s.noteServed vf p q pri) := h.modVf

theorem MemoryOk.pollSemaphore {s : State} {vf q : Nat} (h : MemoryOk s) : MemoryOk (s.pollSemaphore vf q) := by
  unfold State.pollSemaphore
  split
  · exact h
  · split
    · exact h
    · extract_lets
      split
      · exact h.modQueue
      · extract_lets
        refine h.modQueue.ite ?_
        split
        · exact h.withProc.queueError
        · exact h.withProc.modQueue.modQueue.queueEvent.ite h.withProc.modQueue

theorem MemoryOk.declareAll {s : State} {l : Launch} {tenant : Nat} {ds : List BundleDecl} (h : MemoryOk s) :
    MemoryOk (s.declareAll l tenant ds).2 := by
  induction ds generalizing s with
  | nil => exact h
  | cons d ds ih => exact ih h.declareBundle

theorem MemoryOk.bindDirective {s : State} {l : Launch} {tenant slot a : Nat} (h : MemoryOk s) :
    MemoryOk (s.bindDirective l tenant slot a).2 := by
  unfold State.bindDirective
  split
  · exact h
  · split
    · exact h
    · extract_lets
      split
      · exact h
      · split
        · exact h.bindImage
        · exact h

theorem MemoryOk.bindAll {s : State} {l : Launch} {tenant : Nat} {done : List Nat} {bs : List (Nat × Nat)} (h : MemoryOk s) :
    MemoryOk (s.bindAll l tenant done bs).2 := by
  induction bs generalizing s done with
  | nil => exact h
  | cons b bs ih =>
    unfold State.bindAll
    split
    · rename_i e; exact ih (h.bindDirective.of_snd e)
    · rename_i e; exact (h.bindDirective.of_snd e).foldl fun _ _ h1 => h1.unbind

theorem MemoryOk.checkLaunch {s : State} {f : Vf} {k : Packet} {binds : List (Nat × Nat)} (h : MemoryOk s) :
    CheckedOk (s.checkLaunch f k binds) := by
  unfold State.checkLaunch
  extract_lets l code0 slice step
  have hstep : ∀ descs : List KernelDesc, MemoryOk (descs.foldl step ([], s)).2 := fun descs => by
    refine MemoryOk.foldl_snd ?_ fun _ _ h1 => ?_
    · exact h
    · exact h1.declareAll
  split
  · exact .bad h
  · split
    · exact .bad h
    · refine .ite (.bad h) ?_
      split
      · exact .bad h
      · split
        rename_i e
        have h1 := (hstep k.descs).of_snd e
        dsimp only
        refine .ite (.bad h) (.ite (.bad h) ?_)
        split
        · exact .bad h
        · split
          · exact .bad h
          · rename_i e1
            exact .good (MemoryOk.of_snd h1.same.bindAll e1).modLaunch

theorem MemoryOk.signalEnd {s : State} {l : Launch} {status code b2 b3 : Nat} (h : MemoryOk s) :
    MemoryOk (s.signalEnd l status code b2 b3) := by
  unfold State.signalEnd
  extract_lets
  refine (h.put.ite h.deviceWrite).ite ?_
  split
  · exact (h.put.ite h.deviceWrite).put
  · exact h.put.ite h.deviceWrite

theorem MemoryOk.lookAgain {s : State} (h : MemoryOk s) : MemoryOk (s.lookAgain) := h.queueEvent.foldl fun _ _ h1 => h1.queueEvent

theorem MemoryOk.removeLaunch {s : State} {id : Nat} (h : MemoryOk s) : MemoryOk (s.removeLaunch id) := by
  unfold State.removeLaunch
  extract_lets s1 tenants s2
  have h2 : MemoryOk s2 := h.noteMoved.filterBlocks rfl rfl rfl
  exact MemoryOk.lookAgain (h2.foldl fun _ _ h3 => h3.queueEvent)

theorem MemoryOk.completeLaunch {s : State} {id : Nat} (h : MemoryOk s) : MemoryOk (s.completeLaunch id) := by
  unfold State.completeLaunch
  split
  · exact h
  · exact h.ite (((h.signalEnd.foldl fun _ _ h1 => h1.modCore).ite h.signalEnd).removeLaunch)

theorem MemoryOk.failGang {s : State} {l : Launch} (h : MemoryOk s) : MemoryOk (s.failGang l) :=
  ((h.foldl fun _ _ h1 => h1.unbind).signalEnd).removeLaunch

theorem MemoryOk.runtimeWrite {s : State} {vf proc va : Nat} {bs : List Byte} (h : MemoryOk s) :
    MemoryOk (s.runtimeWrite vf proc va bs) := by
  unfold State.runtimeWrite
  split
  · exact h.put
  · exact h

theorem MemoryOk.beginLaunch {s : State} {f : Vf} {l : Launch} {words : List (Nat × Nat)} (h : MemoryOk s) :
    MemoryOk (s.beginLaunch f l words) := ((h.foldl fun _ _ h1 => h1.runtimeWrite).modLaunch).foldl fun _ _ h1 => h1.queueEvent

theorem MemoryOk.takePacket {s : State} {vf q : Nat} (h : MemoryOk s) : MemoryOk (s.takePacket vf q) := h.modQueue.queueEvent

theorem MemoryOk.dispatch {s : State} (h : MemoryOk s) : MemoryOk s.dispatch := by
  unfold State.dispatch
  split
  · exact h
  · refine h.same.ite ?_
    extract_lets s1 s2
    have h1 : MemoryOk s1 := h.withProc.noteServed
    have h2 : MemoryOk s2 := h1.queueEvent
    split
    · exact h1
    · split
      · exact h1
      · split
        · exact h2.queueError
        · extract_lets
          split
          · rename_i e
            have hc : CheckedOk (.bad _ _ _ _) := e ▸ h2.checkLaunch
            cases hc with
            | bad h3 => exact h3.takePacket.signalEnd
          · rename_i e
            have hc : CheckedOk (.good _ _ _) := e ▸ h2.checkLaunch
            cases hc with
            | good h3 => exact h3.takePacket.beginLaunch

theorem MemoryOk.pushEntry {s : State} {launch pipe : Nat} {e : List Byte} (h : MemoryOk s) :
    MemoryOk (s.pushEntry launch pipe e) :=
  h.modLaunch

theorem MemoryOk.serveFeeds {s : State} {l : Launch} (h : MemoryOk s) : MemoryOk (s.serveFeeds l) :=
  h.foldl fun _ _ h1 => h1.queueEvent.ite h1

theorem MemoryOk.feedPush {s : State} {vf q : Nat} (h : MemoryOk s) : MemoryOk (s.feedPush vf q) := by
  unfold State.feedPush
  split
  · split
    · refine h.ite ?_
      split
      · exact h.modQueue.pushEntry.queueEvent
      · refine h.ite ?_
        split
        · exact h.queueError
        · exact h.modQueue.pushEntry.queueEvent
    · exact h
  · exact h

/-! ## The operations of Machine/Sched -/

theorem MemoryOk.scrubFor {s : State} {tenant core : Nat} (h : MemoryOk s) : MemoryOk (s.scrubFor tenant core) :=
  h.scrubCore.modCore

theorem MemoryOk.askBundles {s : State} {tenant : Nat} {l : Launch} {lacking : List Bundle} (h : MemoryOk s) :
    MemoryOk (s.askBundles tenant l lacking) := h.foldl fun _ _ h1 => h1.ite h1.same.queueEvent

theorem MemoryOk.started {s : State} {l : Launch} {c : Cand} (h : MemoryOk s) : MemoryOk (s.started l c) :=
  h.modLaunch.same.serveFeeds

theorem MemoryOk.admitCand {s : State} {l : Launch} {f : Vf} {dense : Nat} {c : Cand} {ask : Bool} (h : MemoryOk s) :
    AdmitOk (s.admitCand l f dense c ask) := by
  unfold State.admitCand
  refine (AdmitOk.done h.failGang).ite ?_
  split
  · exact .blocked h
  · rename_i e
    exact (AdmitOk.lines (h.askBundles.ite h)).ite
      ((AdmitOk.blocked (h.foldl fun _ _ h1 => h1.scrubFor)).ite (.done (h.startAll e).started))

theorem MemoryOk.issueNext {s : State} {l : Launch} {c : Chunk} (h : MemoryOk s) : MemoryOk (s.issueNext l c) := h.modLaunch

theorem MemoryOk.admitUnit {s : State} {f : Vf} {dense : Nat} {u : Unit_} {ask : Bool} (h : MemoryOk s) :
    AdmitOk (s.admitUnit f dense u ask) := by
  unfold State.admitUnit
  split
  · split
    · rename_i e
      extract_lets
      refine AdmitOk.ite ?_ (AdmitOk.blocked (h.foldl fun _ _ h1 => h1.scrubFor))
      refine .done ?_
      refine (h.restoreAll e).foldl fun _ _ h1 => ?_
      split
      · exact h1.serveFeeds
      · exact h1
    · exact .blocked h
  · split
    · exact h.admitCand
    · exact .blocked h
  · split
    · exact .done h.issueNext
    · exact .blocked h

theorem MemoryOk.admitList {s : State} {f : Vf} {dense : Nat} {ask : Bool} {us : List Unit_} (h : MemoryOk s) :
    MemoryOk (s.admitList f dense ask us).2 := by
  induction us generalizing s ask with
  | nil => exact h
  | cons u us ih =>
    unfold State.admitList
    have hu : AdmitOk (s.admitUnit f dense u ask) := h.admitUnit
    generalize s.admitUnit f dense u ask = a at hu ⊢
    cases hu with
    | done h1 => exact h1
    | blocked h1 => exact h1
    | lines h1 => exact ih h1

theorem MemoryOk.seekSteal {s : State} {f : Vf} {dense : Nat} (h : MemoryOk s) : MemoryOk (s.seekSteal f dense) := by
  unfold State.seekSteal
  extract_lets
  refine h.ite ?_
  split
  · exact h.queueEvent
  · exact h

theorem MemoryOk.admitFunctions {s : State} {die : Nat} {fs : List Vf} (h : MemoryOk s) : MemoryOk (s.admitFunctions die fs).2 := by
  induction fs generalizing s with
  | nil => exact h
  | cons f fs ih =>
    unfold State.admitFunctions
    split
    · exact ih h
    · split
      rename_i e
      have h1 := h.admitList.of_snd e
      split
      · exact h1
      · exact ih h1.seekSteal

theorem MemoryOk.admission {s : State} {die : Nat} (h : MemoryOk s) : MemoryOk (s.admission die) := by
  unfold State.admission
  split
  rename_i e
  exact ((h.admitFunctions.of_snd e).queueEvent).ite (h.admitFunctions.of_snd e)

theorem MemoryOk.steal {s : State} {launch dense : Nat} (h : MemoryOk s) : MemoryOk (s.steal launch dense) := by
  unfold State.steal
  split
  · exact h
  · extract_lets
    refine h.ite ?_
    split
    · exact h
    · extract_lets
      split
      · exact h.modLaunch.queueEvent
      · exact h.modLaunch

theorem MemoryOk.writeEvents {s : State} {vf : Nat} {n : Nat} (h : MemoryOk s) : MemoryOk (s.writeEvents vf n) := by
  induction n generalizing s with
  | zero => exact h
  | succ n ih =>
    unfold State.writeEvents
    split
    · exact h
    · dsimp only
      split
      · exact h
      · exact h.ite (ih (h.put.ite h).modVf)

theorem MemoryOk.raiseEvent {s : State} {vf : Nat} {e : List Byte} (h : MemoryOk s) : MemoryOk (s.raiseEvent vf e) :=
  h.modVf.writeEvents

theorem MemoryOk.beginStalls {s : State} {f : Vf} (h : MemoryOk s) : MemoryOk (s.beginStalls f) := h.foldl fun _ _ h1 => h1.modQueue

theorem MemoryOk.countStalls {s : State} {f : Vf} (h : MemoryOk s) : MemoryOk (s.countStalls f) := by
  unfold State.countStalls
  refine h.foldl fun _ _ h1 => ?_
  split
  · exact h1.modQueue
  · exact h1.ite (h1.modQueue.ite h1.modQueue.modQueue.raiseEvent)

theorem MemoryOk.endSlice {s : State} {f : Vf} (h : MemoryOk s) : MemoryOk (s.endSlice f) := by
  unfold State.endSlice
  extract_lets s1
  have h1 : MemoryOk s1 := h.countStalls
  refine h1.ite ?_
  split
  · exact h1
  · exact h1.getD fun _ e => h1.preempt e

theorem MemoryOk.sliceEnd {s : State} (h : MemoryOk s) : MemoryOk (s.sliceEnd) := by
  unfold State.sliceEnd
  split
  · exact h
  · extract_lets s1 _ s2 s3
    have h1 : MemoryOk s1 := h.endSlice.ite h
    have h2 : MemoryOk s2 := h1.same
    have h3 : MemoryOk s3 := by
      unfold s3
      split
      · exact h2.beginStalls
      · exact h2
    exact h3.lookAgain

theorem MemoryOk.chargeUnit {s : State} {unit : Nat} (h : MemoryOk s) : MemoryOk (s.chargeUnit unit) :=
  (h.foldl fun _ _ h1 => h1.modLaunch.modVf).same

theorem MemoryOk.sampleEnergy {s : State} (h : MemoryOk s) : MemoryOk (s.sampleEnergy) := (h.foldl fun _ _ h1 => h1.chargeUnit).same

theorem MemoryOk.startWindow {s : State} (h : MemoryOk s) : MemoryOk (s.startWindow) := h.same.queueEvent

/-! ## The operations of Machine/Window -/

theorem MemoryOk.setDhstat {s : State} {vf proc st reason lines : Nat} (h : MemoryOk s) :
    MemoryOk (s.setDhstat vf proc st reason lines) := h.modProc

theorem MemoryOk.syncWindow {s : State} {vf proc : Nat} (h : MemoryOk s) : MemoryOk (s.syncWindow vf proc) := by
  unfold State.syncWindow
  split
  · exact h.setDhstat
  · exact h.setDhstat.ite h.setDhstat.queueEvent

theorem MemoryOk.copyLine {s : State} {vf proc : Nat} (h : MemoryOk s) : MemoryOk (s.copyLine vf proc) := by
  unfold State.copyLine
  split
  · exact h
  · refine h.ite ?_
    split
    · exact h.setDhstat
    · split
      · exact h
      · exact h.writeMem.same.setDhstat.queueEvent.ite h.writeMem.same.setDhstat

theorem MemoryOk.recallRange {s : State} {lo hi : Nat} (h : MemoryOk s) : MemoryOk (s.recallRange lo hi) := h.invalidate.same

theorem MemoryOk.moveAccesses {s : State} {vf proc : Nat} {l : Leaf} {second : Nat} (h : MemoryOk s) :
    MemoryOk (s.moveAccesses vf proc l second) :=
  h.mapBlocks rfl rfl rfl fun _ hx => hx

theorem MemoryOk.switchWindow {s : State} {vf proc : Nat} (h : MemoryOk s) : MemoryOk (s.switchWindow vf proc) := by
  unfold State.switchWindow
  split
  · refine h.setDhstat.ite ?_
    extract_lets s1 s2 s3 _
    have h1 : MemoryOk s1 := h.recallRange
    have h2 : MemoryOk s2 := h1.modProc.setDhstat
    have h3 : MemoryOk s3 := by
      unfold s3
      split
      · exact h2.moveAccesses
      · exact h2
    exact h3.same
  · exact h.setDhstat
  · exact h

/-! ## The operations of Machine/Ingest -/

theorem MemoryOk.modPort {s : State} {i : Nat} {f : Port → Port} (h : MemoryOk s) : MemoryOk (s.modPort i f) := h.same

theorem MemoryOk.deviceStore {s : State} {vf proc va : Nat} {bs : List Byte} (h : MemoryOk s) :
    MemoryOk (s.deviceStore vf proc va bs) :=
  (h.ite h.deviceWrite).ite ((h.ite h.deviceWrite).deviceWrite)

theorem MemoryOk.dropFrame {s : State} {i : Nat} (h : MemoryOk s) : MemoryOk (s.dropFrame i) := h.modPort.deviceStore

theorem MemoryOk.frameGraph {s : State} {tenant slot : Nat} {bs : List Byte} (h : MemoryOk s) :
    MemoryOk (s.frameGraph tenant slot bs).2.2.2 := by
  unfold State.frameGraph
  split
  · exact h.modGraph
  · exact h

theorem MemoryOk.ingest {s : State} {i : Nat} {bytes : List Byte} (h : MemoryOk s) : MemoryOk (s.ingest i bytes) := by
  unfold State.ingest
  extract_lets p seq s1 tenant wire need input pipe start bound
  refine h.ite (h.modPort.ite ?_)
  have h1 : MemoryOk s1 := h.modPort
  clear_value pipe start bound
  split
  · split
    rename_i e
    have h2 := h1.frameGraph.of_snd_snd_snd e
    exact h2.deviceStore.deviceStore.modPort.pushEntry
  · exact h1.dropFrame

theorem MemoryOk.transmit {s : State} {i : Nat} (h : MemoryOk s) : MemoryOk (s.transmit i) := by
  unfold State.transmit
  split
  · exact h
  · split
    · exact h
    · extract_lets
      split
      · exact h.modLaunch
      · exact h.modLaunch.modPort.deviceStore.ite h.modLaunch.modPort

/-! ## The operations of Machine/Links -/

theorem MemoryOk.modLink {s : State} {i : Nat} {f : Link → Link} (h : MemoryOk s) : MemoryOk (s.modLink i f) := h.same

theorem MemoryOk.loseSpan {s : State} {line first last cause : Nat} (h : MemoryOk s) :
    MemoryOk (s.loseSpan line first last cause) :=
  (h.foldl fun _ _ h1 => h1.giveUp).same

theorem MemoryOk.receive {s : State} {i : Nat} {x : Flit} {l : Link} (h : MemoryOk s) : MemoryOk (s.receive i x l) :=
  h.modLink.ite (h.modLink.ite (((h.modLink.loseSpan.ite h.modLink).queueEvent).ite (h.modLink.loseSpan.ite h.modLink)))

theorem MemoryOk.failLink {s : State} {i : Nat} (h : MemoryOk s) : MemoryOk (s.failLink i) :=
  (h.same.modLink.foldl fun _ _ h1 => h1.ite h1.same.queueEvent).cutOff

theorem MemoryOk.reissue {s : State} {tag : Nat} (h : MemoryOk s) : MemoryOk (s.reissue tag) :=
  h.ite (h.same.ite (h.same.queueEvent.ite h.same.queueEvent))

theorem MemoryOk.fence {s : State} {pkg : Nat} (h : MemoryOk s) : MemoryOk (s.fence pkg) := by
  unfold State.fence
  refine h.ite ?_
  extract_lets
  refine h.same.recallRange.cutOff.foldl fun _ _ h1 => ?_
  split
  · exact h1
  · exact h1.modLine.foldl fun _ _ h2 => h2.loseSpan

theorem MemoryOk.readmit {s : State} {source : Nat} (h : MemoryOk s) : MemoryOk (s.readmit source) := h.same

theorem MemoryOk.execFlitReceive {link : Nat} {x : Flit} {s : State} (h : MemoryOk s) : OutOk (execFlitReceive link x s) := by
  unfold Machine.execFlitReceive
  split
  · exact .next h.receive
  · exact .fault

theorem MemoryOk.execLinkHeartbeat {link : Nat} {s : State} (h : MemoryOk s) : OutOk (execLinkHeartbeat link s) := by
  unfold Machine.execLinkHeartbeat
  split
  · exact .next h.receive
  · exact .fault

/-! ## The operations of Machine/Innkeeper -/

theorem MemoryOk.respond {s : State} {c : Command} {status result : Nat} (h : MemoryOk s) : MemoryOk (s.respond c status result) :=
  (((h.put.ite h).same).queueEvent).ite ((h.put.ite h).same)

theorem MemoryOk.doorbell {s : State} (h : MemoryOk s) : MemoryOk (s.doorbell) := by
  unfold State.doorbell
  refine h.ite ?_
  refine h.same.ite ?_
  extract_lets
  split
  · exact h.same.respond
  · extract_lets
    split
    · exact h.same.queueEvent
    · exact h.same.respond

theorem MemoryOk.command {s : State} {op : Nat} {c : Command} {f : Vf → Tenant → Except Nat (State × Nat)} (h : MemoryOk s)
    (hf : ∀ v t, CmdOk (f v t)) : MemoryOk (s.command op c f) := by
  unfold State.command
  refine h.ite ?_
  split
  · exact h.respond
  · split
    · exact h.respond
    · rename_i v t _ _ _ _ e
      have hc : CmdOk (.ok _) := e ▸ hf v t
      cases hc with
      | ok h1 => exact h1.respond

theorem MemoryOk.mapQueue {s : State} {c : Command} (h : MemoryOk s) : MemoryOk (s.mapQueue c) :=
  h.command fun _ _ => .bind fun _ => .bind fun _ => .bind fun _ => .pure h.modVf.queueEvent.queueEvent.queueEvent

theorem MemoryOk.unmapQueue {s : State} {c : Command} (h : MemoryOk s) : MemoryOk (s.unmapQueue c) :=
  h.command fun _ _ => .bind fun _ => .bind fun _ => .pure h.modQueue

theorem MemoryOk.resetQueue {s : State} {c : Command} (h : MemoryOk s) : MemoryOk (s.resetQueue c) :=
  h.command fun _ _ => .bind fun _ => .bind fun _ => .pure h.modQueue

theorem MemoryOk.pauseAll {s t : State} {ls : List Nat} (h : MemoryOk s) (e : s.pauseAll ls = some t) : MemoryOk t := by
  obtain ⟨u, hu, rfl⟩ := Option.map_eq_some_iff.mp e
  exact (h.preempt hu).foldl fun _ _ h1 => h1.modLaunch

theorem MemoryOk.pauseCmd {s : State} {c : Command} (h : MemoryOk s) : MemoryOk (s.pauseCmd c) := by
  unfold State.pauseCmd
  refine h.command fun _ _ => ?_
  refine .bind fun _ => ?_
  split
  · rename_i e
    exact .pure (h.pauseAll e)
  · exact .throw

theorem MemoryOk.resumeCmd {s : State} {c : Command} (h : MemoryOk s) : MemoryOk (s.resumeCmd c) :=
  h.command fun _ _ => .bind fun _ => .bind fun _ => .pure ((h.foldl fun _ _ h1 => h1.modLaunch).lookAgain)

theorem MemoryOk.setWeight {s : State} {c : Command} (h : MemoryOk s) : MemoryOk (s.setWeight c) :=
  h.command fun _ _ => .bind fun _ => .pure h.withProc.modProc

theorem MemoryOk.endGang {s : State} {c : Command} (h : MemoryOk s) : MemoryOk (s.endGang c) :=
  h.command fun _ _ => .bind fun _ => .bind fun _ => .pure h.modLaunch

theorem MemoryOk.discardLaunch {s : State} {c : Command} (h : MemoryOk s) : MemoryOk (s.discardLaunch c) :=
  h.command fun _ _ => .bind fun _ => .pure (((h.modLaunch.foldl fun _ _ h1 => h1.killBlock).same).queueEvent)

theorem MemoryOk.evictCmd {s : State} {c : Command} (h : MemoryOk s) : MemoryOk (s.evictCmd c) := by
  unfold State.evictCmd
  refine h.command fun _ _ => ?_
  refine .bind fun _ => ?_
  split
  · exact .throw
  · rename_i e
    exact .bind fun _ => .bind fun _ => .pure ((((h.pauseAll e).put).modTenant).same)

theorem MemoryOk.importBlob {s : State} {f : Vf} {tenant at_ : Nat} {count : Option Nat} (h : MemoryOk s) :
    CmdOk (s.importBlob f tenant at_ count) := by
  unfold State.importBlob
  split
  · extract_lets
    refine .bind fun _ => ?_
    split
    · exact .throw
    · extract_lets
      split
      · exact .bind fun _ => .pure h.writeMem.modTenant.same
      · exact .throw
      · exact .throw
  · exact .throw

theorem MemoryOk.importBlobs {s t : State} {f : Vf} {tenant at_ count n : Nat} (h : MemoryOk s)
    (e : s.importBlobs f tenant at_ count n = .ok t) : MemoryOk t := by
  induction n generalizing s at_ count with
  | zero => cases e; exact h
  | succ n ih =>
    unfold State.importBlobs at e
    split at e
    · cases e
    · rename_i e1
      have hc : CmdOk (.ok _) := e1 ▸ h.importBlob
      cases hc with
      | ok h1 => exact ih h1 e

/-- Taking in several blobs, or one, is a command's work where each keeps memory's form. -/
theorem CmdOk.bind_eq {α : Type} {x : Except Nat α} {f : α → Except Nat (State × Nat)} (hf : ∀ a, x = .ok a → CmdOk (f a)) :
    CmdOk (x >>= f) := by
  cases x with
  | error e => exact .error
  | ok a => exact hf a rfl

theorem MemoryOk.importCmd {s : State} {c : Command} (h : MemoryOk s) : MemoryOk (s.importCmd c) := by
  refine h.command fun f t => ?_
  split
  · exact .bind fun _ => .bind_eq fun _ e => .pure (h.importBlobs e)
  · refine .bind fun _ => .bind_eq fun p e => ?_
    have hc : CmdOk (.ok p) := e ▸ h.importBlob
    cases hc with
    | ok h1 => exact .pure h1

theorem MemoryOk.setCores {s : State} {vf : Nat} {cores : List Nat} {image : List W32} (h : MemoryOk s) :
    MemoryOk (s.setCores vf cores image) := h.same.modVf.same.lookAgain

theorem MemoryOk.setSlice {s : State} {c : Command} (h : MemoryOk s) : MemoryOk (s.setSlice c) := by
  unfold State.setSlice
  refine h.command fun _ _ => ?_
  refine .bind fun _ => ?_
  refine .bind fun _ => ?_
  extract_lets
  refine .bind fun _ => ?_
  refine .bind fun _ => ?_
  split
  · exact .throw
  · exact .bind fun _ => .bind fun _ => .pure h.modVf.setCores

theorem MemoryOk.reassign {s : State} {c : Command} (h : MemoryOk s) : MemoryOk (s.reassign c) := by
  unfold State.reassign
  refine h.command fun _ _ => ?_
  refine .bind fun _ => ?_
  refine .bind fun _ => ?_
  split
  refine .bind fun _ => ?_
  split
  refine .bind fun _ => ?_
  extract_lets
  refine .bind fun _ => ?_
  refine .bind fun _ => ?_
  refine .bind fun _ => ?_
  split
  · exact .throw
  · rename_i e
    exact .bind fun _ => .pure ((h.preempt e).setCores.setCores.kept fun h1 => h1.foldl fun _ _ h2 => h2.scrubFor)

theorem MemoryOk.migrate {s : State} {c : Command} (h : MemoryOk s) : MemoryOk (s.migrate c) := by
  unfold State.migrate
  refine h.command fun _ _ => ?_
  refine .bind fun _ => ?_
  refine .bind fun _ => ?_
  extract_lets
  split
  · exact .throw
  · rename_i e
    exact .bind fun _ => .pure ((h.preempt e).setCores)

theorem MemoryOk.attachPort {s : State} {c : Command} (h : MemoryOk s) : MemoryOk (s.attachPort c) :=
  h.command fun _ _ => .bind fun _ => .bind fun _ => .bind fun _ => .pure
    ((h.modTenant.ite h).kept fun h1 => h1.modTenant).withProc.modPort.deviceStore.deviceStore.deviceStore

theorem MemoryOk.resetTenantCmd {s : State} {c : Command} (h : MemoryOk s) : MemoryOk (s.resetTenantCmd c) :=
  h.command fun _ _ => .bind fun _ => .pure h.tenantReset

theorem MemoryOk.applyPolicy {s : State} {t : Tenant} {p : List Byte} (h : MemoryOk s) : MemoryOk (s.applyPolicy t p) :=
  h.modTenant.same

theorem MemoryOk.installPolicy {s : State} {c : Command} (h : MemoryOk s) : MemoryOk (s.installPolicy c) := by
  unfold State.installPolicy
  refine h.ite ?_
  split
  · exact h.respond
  · split
    · exact h.respond
    · exact h.respond.ite (h.respond.ite (h.respond.ite (h.respond.ite (h.respond.ite h.applyPolicy.respond))))

theorem MemoryOk.assignMemory {s : State} {c : Command} (h : MemoryOk s) : MemoryOk (s.assignMemory c) := by
  refine h.command fun _ _ => ?_
  split
  · exact .throw
  · exact .bind fun _ => .pure (h.setMem (Laws.wf_erase h.1 _ _) rfl rfl)

theorem MemoryOk.releaseMemory {s : State} {c : Command} (h : MemoryOk s) : MemoryOk (s.releaseMemory c) := by
  refine h.command fun _ t => ?_
  split
  · exact .throw
  · refine .bind fun _ => ?_
    have h1 : MemoryOk ((s.tlbiDo (.car 0 0) 2 t.id 0).recallRange (argOf c 0) (argOf c 1)) := h.tlbiDo.recallRange
    exact .pure (h1.setMem (Laws.wf_erase h1.1 _ _) rfl rfl)

theorem MemoryOk.setPodWindow {s : State} {c : Command} (h : MemoryOk s) : MemoryOk (s.setPodWindow c) :=
  h.command fun _ _ => .bind fun _ => .bind fun _ => .pure h.modTenant

theorem MemoryOk.retireCore {s : State} {core : Nat} (h : MemoryOk s) : MemoryOk (s.retireCore core) := by
  unfold State.retireCore
  split
  · exact h.same
  · rename_i e
    extract_lets s1 images new entry s2 s3 s4
    have h1 : MemoryOk s1 := (h.preempt e).same
    have h3 : MemoryOk s3 := h1.same.modCore
    have h4 : MemoryOk s4 := by
      unfold s4
      clear_value new
      split
      · exact h3.modCore
      · exact h3
    exact h4.lookAgain

/-! ## The operations of Machine/Interface -/

theorem MemoryOk.setQcount {s : State} {f : Vf} {n : Nat} (h : MemoryOk s) : MemoryOk (s.setQcount f n) := h.ite h.modVf

theorem MemoryOk.lookQueue {s : State} {vf q : Nat} (h : MemoryOk s) : MemoryOk (s.lookQueue vf q) :=
  h.queueEvent.queueEvent.queueEvent

theorem MemoryOk.storeReg {s : State} {f : Vf} {r : HostReg} {x : Word} (h : MemoryOk s) : MemoryOk (s.storeReg f r x) := by
  unfold State.storeReg
  extract_lets
  split
  · exact h.setQcount
  · exact h.modVf.writeEvents
  · exact h.modQueue.lookQueue
  · exact h.modQueue.lookQueue
  · exact h.modQueue
  · exact h.modVf
  · exact h.modVf
  · exact h.modVf.ite h
  · exact h.modVf.ite h
  · exact h.modVf
  · exact h.same
  · exact h.same.ite h
  · exact h.same
  · exact h.same
  · exact h.same
  · exact h.same
  · exact h.same
  · exact h
  · exact h
  · exact h

theorem MemoryOk.hostWrite {s : State} {f : Vf} {r : HostReg} {x : Word} (h : MemoryOk s) : MemoryOk (s.hostWrite f r x) :=
  (h.foldl fun _ _ h1 => h1.ifError).ite (h.ifError.ite (h.same.ite h.storeReg))

theorem MemoryOk.hostWriteTo {s : State} {z : HostFrom} {r : HostReg} {x : Word} (h : MemoryOk s) :
    MemoryOk (s.hostWriteTo z r x) := by
  unfold State.hostWriteTo
  split
  · exact h.hostWrite
  · exact h

theorem MemoryOk.ringQueue {s : State} {z : HostFrom} {q : Nat} {x : W32} (h : MemoryOk s) : MemoryOk (s.ringQueue z q x) := by
  unfold State.ringQueue
  extract_lets
  split
  · exact h
  · refine h.same.ite ?_
    split
    · exact h
    · exact h.modQueue.queueError.ite h.modQueue.lookQueue

theorem MemoryOk.setEvhead {s : State} {z : HostFrom} {x : W32} (h : MemoryOk s) : MemoryOk (s.setEvhead z x) := by
  unfold State.setEvhead
  extract_lets
  split
  · exact h
  · exact h.same.ite h.modVf.writeEvents

theorem MemoryOk.hostAccess {s : State} {a : HostAccess} (h : MemoryOk s) : MemoryOk (s.hostAccess a) := by
  unfold State.hostAccess
  extract_lets
  refine MemoryOk.ite ?_ ?_
  · split
    · exact (h.same.ite h).put
    · exact (h.same.ite h).same
  · split
    · exact (h.same.ite h).same
    · exact (h.same.ite h).ite ((h.same.ite h).same)

theorem MemoryOk.message {s : State} {i : Instr} {f : State → State} (h : MemoryOk s) (hf : ∀ s, MemoryOk s → MemoryOk (f s)) :
    MemoryOk (s.message i f) :=
  h.same.ite (h.ite (hf s h))

theorem MemoryOk.answer {s : State} {bs : List Byte} (h : MemoryOk s) : MemoryOk (s.answer bs) := h.same

theorem MemoryOk.tdisp {s : State} {m : TdispMsg} {i : Instr} {f : State → State} (h : MemoryOk s)
    (hf : ∀ s, MemoryOk s → MemoryOk (f s)) : MemoryOk (s.tdisp m i f) :=
  h.message fun _ h1 => (hf _ h1).ite h1.answer

theorem MemoryOk.tdispCommand {s : State} {vf cmd : Nat} (h : MemoryOk s) : MemoryOk (s.tdispCommand vf cmd) := by
  unfold State.tdispCommand
  extract_lets
  split
  · exact h.ifCommand.answer
  · exact h.ifCommand

theorem MemoryOk.tdispReport {s : State} {m : TdispMsg} (h : MemoryOk s) : MemoryOk (s.tdispReport m) := by
  unfold State.tdispReport
  split
  · exact h.answer.ite h.answer
  · exact h

theorem MemoryOk.dropStream {s : State} {vf : Nat} (h : MemoryOk s) : MemoryOk (s.dropStream vf) := h.same.ite h.modVf

theorem MemoryOk.execLockInterface {m : TdispMsg} {s : State} (h : MemoryOk s) : OutOk (execLockInterface m s) :=
  .next (h.tdisp fun _ h1 => h1.tdispCommand)

theorem MemoryOk.execStartInterface {m : TdispMsg} {s : State} (h : MemoryOk s) : OutOk (execStartInterface m s) :=
  .next (h.tdisp fun _ h1 => h1.tdispCommand)

theorem MemoryOk.execStopInterface {m : TdispMsg} {s : State} (h : MemoryOk s) : OutOk (execStopInterface m s) :=
  .next (h.tdisp fun _ h1 => h1.tdispCommand)

theorem MemoryOk.execGetDeviceInterfaceReport {m : TdispMsg} {s : State} (h : MemoryOk s) :
    OutOk (execGetDeviceInterfaceReport m s) :=
  .next (h.tdisp fun _ h1 => h1.tdispReport)

theorem MemoryOk.execGetDeviceInterfaceState {m : TdispMsg} {s : State} (h : MemoryOk s) :
    OutOk (execGetDeviceInterfaceState m s) :=
  .next (h.tdisp fun _ h1 => h1.answer)

theorem MemoryOk.execTdispGetVersion {m : TdispMsg} {s : State} (h : MemoryOk s) : OutOk (execTdispGetVersion m s) :=
  .next (h.tdisp fun _ h1 => h1.answer)

theorem MemoryOk.execTdispGetCapabilities {m : TdispMsg} {s : State} (h : MemoryOk s) : OutOk (execTdispGetCapabilities m s) :=
  .next (h.tdisp fun _ h1 => h1.answer)

/-! ## The operations of Machine/Spdm -/

theorem MemoryOk.setStage {s : State} {n : Nat} (h : MemoryOk s) : MemoryOk (s.setStage n) := h.same

theorem MemoryOk.spdm {s : State} {i : Instr} {stage : Nat} {minimal : Bool} {f : State → State} (h : MemoryOk s)
    (hf : ∀ s, MemoryOk s → MemoryOk (f s)) : MemoryOk (s.spdm i stage minimal f) :=
  h.message fun _ h1 => h1.answer.ite (hf _ h1)

theorem MemoryOk.secured {s : State} {i : Instr} {id : Nat} {f : Session → State → State} (h : MemoryOk s)
    (hf : ∀ x s, MemoryOk s → MemoryOk (f x s)) : MemoryOk (s.secured i id f) := by
  refine h.spdm fun s h1 => ?_
  split
  · exact (hf _ _ h1).ite h1.answer
  · exact h1.answer

theorem MemoryOk.modSession {s : State} {id : Nat} {f : Session → Session} (h : MemoryOk s) : MemoryOk (s.modSession id f) := h.same

theorem MemoryOk.keyExchange {s : State} {m : SpdmMsg} (h : MemoryOk s) : MemoryOk (s.keyExchange m) := h.answer.ite h.same.answer

theorem MemoryOk.finishSession {s : State} {m : SpdmMsg} (h : MemoryOk s) : MemoryOk (s.finishSession m) := by
  unfold State.finishSession
  split
  · exact h.modSession.answer.ite h.answer
  · exact h.answer

theorem MemoryOk.registerKey {s : State} {m : SpdmMsg} {x : Session} (h : MemoryOk s) : MemoryOk (s.registerKey m x) := by
  unfold State.registerKey
  extract_lets
  split
  · exact ((h.ite h.same).modTenant).answer
  · exact ((h.ite h.same).modTenant).answer
  · exact (h.ite h.same).answer

theorem MemoryOk.negotiate {s : State} {m : SpdmMsg} (h : MemoryOk s) : MemoryOk (s.negotiate m) := h.setStage.answer.ite h.answer

theorem MemoryOk.programIde {s : State} {m : SpdmMsg} {x : Session} (h : MemoryOk s) : MemoryOk (s.programIde m x) := by
  unfold State.programIde
  refine (h.answer.ite h.same.answer).ite ?_
  split
  · exact h.modVf.answer.ite h.answer
  · exact h.answer

theorem MemoryOk.execSpdmGetVersion {m : SpdmMsg} {s : State} (h : MemoryOk s) : OutOk (execSpdmGetVersion m s) :=
  .next (h.spdm fun _ h1 => h1.setStage.answer)

theorem MemoryOk.execSpdmGetCapabilities {m : SpdmMsg} {s : State} (h : MemoryOk s) : OutOk (execSpdmGetCapabilities m s) :=
  .next (h.spdm fun _ h1 => h1.setStage.answer)

theorem MemoryOk.execNegotiateAlgorithms {m : SpdmMsg} {s : State} (h : MemoryOk s) : OutOk (execNegotiateAlgorithms m s) :=
  .next (h.spdm fun _ h1 => h1.negotiate)

theorem MemoryOk.execGetDigests {m : SpdmMsg} {s : State} (h : MemoryOk s) : OutOk (execGetDigests m s) :=
  .next (h.spdm fun _ h1 => h1.answer)

theorem MemoryOk.execGetCertificate {m : SpdmMsg} {s : State} (h : MemoryOk s) : OutOk (execGetCertificate m s) :=
  .next (h.spdm fun _ h1 => h1.answer.ite h1.answer)

theorem MemoryOk.execChallenge {m : SpdmMsg} {s : State} (h : MemoryOk s) : OutOk (execChallenge m s) :=
  .next (h.spdm fun _ h1 => h1.answer.ite h1.answer)

theorem MemoryOk.execGetMeasurements {m : SpdmMsg} {s : State} (h : MemoryOk s) : OutOk (execGetMeasurements m s) := by
  unfold Machine.execGetMeasurements
  refine .next ?_
  refine h.spdm fun _ h1 => ?_
  split <;> exact h1.answer

theorem MemoryOk.execKeyExchange {m : SpdmMsg} {s : State} (h : MemoryOk s) : OutOk (execKeyExchange m s) :=
  .next (h.spdm fun _ h1 => h1.keyExchange)

theorem MemoryOk.execFinish {m : SpdmMsg} {s : State} (h : MemoryOk s) : OutOk (execFinish m s) :=
  .next (h.spdm fun _ h1 => h1.finishSession)

theorem MemoryOk.execSpdmHeartbeat {m : SpdmMsg} {s : State} (h : MemoryOk s) : OutOk (execSpdmHeartbeat m s) :=
  .next (h.secured fun _ _ h1 => h1.answer)

theorem MemoryOk.execKeyUpdate {m : SpdmMsg} {s : State} (h : MemoryOk s) : OutOk (execKeyUpdate m s) :=
  .next (h.secured fun _ _ h1 => h1.modSession.answer)

theorem MemoryOk.execEndSession {m : SpdmMsg} {s : State} (h : MemoryOk s) : OutOk (execEndSession m s) :=
  .next (h.secured fun _ _ h1 => h1.same.answer)

theorem MemoryOk.execPolicyKeyRegistration {m : SpdmMsg} {s : State} (h : MemoryOk s) : OutOk (execPolicyKeyRegistration m s) :=
  .next (h.secured fun _ _ h1 => h1.registerKey)

theorem MemoryOk.execIdeKmKeyProgramming {m : SpdmMsg} {s : State} (h : MemoryOk s) : OutOk (execIdeKmKeyProgramming m s) :=
  .next (h.secured fun _ _ h1 => h1.programIde)

/-! ## The operations of Machine/Firmware -/

theorem MemoryOk.resetPackage {s : State} {why : Nat} : MemoryOk (s.resetPackage why) :=
  packageReset.ite (packageReset.ite failWith)

theorem MemoryOk.watchdogFires {s : State} (h : MemoryOk s) : MemoryOk (s.watchdogFires) := failStart.ite h

theorem MemoryOk.firmwareReady {s : State} (h : MemoryOk s) : MemoryOk (s.firmwareReady) := failStart.ite (h.ite h.same)

theorem MemoryOk.activate {s : State} (h : MemoryOk s) : MemoryOk (s.activate) := h.ite h.same.queueEvent

theorem MemoryOk.verified {s : State} (h : MemoryOk s) : MemoryOk (s.verified) := h.ite (h.same.ite (h.same.ite h.same.queueEvent))

theorem MemoryOk.settleBoot {s : State} (h : MemoryOk s) : MemoryOk (s.settleBoot) :=
  h.foldl fun _ _ h1 => h1.foldl fun _ _ h2 => h2.commitAll

theorem MemoryOk.install {s : State} (h : MemoryOk s) : MemoryOk (s.install) :=
  ((h.settleBoot.enterImage.same.foldl fun _ _ h1 => h1.queueEvent).changed fun h1 => h1.queueEvent).same

theorem MemoryOk.pauseStep {s : State} (h : MemoryOk s) : MemoryOk (s.pauseStep) := h.ite ((h.install.ite h).ite (h.ite h.same))

theorem MemoryOk.writeImage {s : State} {bytes : List Byte} (h : MemoryOk s) : MemoryOk (s.writeImage bytes) := h.ite h.same

theorem MemoryOk.wakeCaravan {s : State} {value : Word} (h : MemoryOk s) : MemoryOk (s.wakeCaravan value) := by
  unfold State.wakeCaravan
  extract_lets
  split
  · exact h
  · exact h.setPc.setStatus.commitAll

theorem MemoryOk.setStlaunch {s : State} {core n : Nat} (h : MemoryOk s) : MemoryOk (s.setStlaunch core n) := h.modCore

theorem MemoryOk.startKernel {s : State} {core : Nat} {value : Word} (h : MemoryOk s) : MemoryOk (s.startKernel core value) := by
  unfold State.startKernel
  extract_lets refuse
  have hrefuse : MemoryOk refuse := h.setStlaunch
  split
  · refine hrefuse.ite ?_
    split
    · exact hrefuse
    · rename_i e
      have hc : CheckedOk (.good _ _ _) := e ▸ h.checkLaunch
      cases hc with
      | good h1 =>
        split
        · refine hrefuse.ite ?_
          exact ((h1.foldl fun _ _ h2 => h2.runtimeWrite).putBlock rfl).enterNow.setStlaunch
        · exact hrefuse
  · exact hrefuse

theorem MemoryOk.setCap {s : State} {value : Word} (h : MemoryOk s) : MemoryOk (s.setCap value) := h.same

theorem MemoryOk.thermalTrip {s : State} : MemoryOk (s.thermalTrip) := failWith.ite packageReset

/-! ## The operations of Machine/Lane -/

theorem MemoryOk.laneResult {o : Op} {d : Nat} {f : CRegs → W32 → VReg} {s : State} (h : MemoryOk s) :
    OutOk (laneResult o d f s) := by
  unfold Machine.laneResult
  refine h.issue fun _ _ _ h1 => ?_
  split
  · exact .ok h1
  · split
    · exact .ok h1
    · exact (ResOk.ok h1).ite (.ok h1.setPend)

theorem MemoryOk.reduce {word : W32} {st : BitVec 2} {pr : BitVec 3} {ok : Bool} {w : Nat} {d a : BitVec 6} {fo : Fold} {along : Bool}
    {s : State} (h : MemoryOk s) : OutOk (reduce word st pr ok w d a fo along s) := h.laneResult

theorem MemoryOk.reduceIdx {word : W32} {st : BitVec 2} {pr : BitVec 3} {ok : Bool} {w : Nat} {d a : BitVec 6} {unit : Nat}
    {counts : Nat → Bool} {better : Nat → Nat → Bool} {wide : Nat → Nat} {s : State} (h : MemoryOk s) :
    OutOk (reduceIdx word st pr ok w d a unit counts better wide s) := h.laneResult

theorem MemoryOk.reduceIdxInt {word : W32} {f : FmtZDA} {op : IOp} {s : State} (h : MemoryOk s) :
    OutOk (reduceIdxInt word f op s) := by
  unfold Machine.reduceIdxInt
  exact h.reduceIdx

theorem MemoryOk.reduceIdxFlt {word : W32} {st : BitVec 2} {pr : BitVec 3} {ok : Bool} {fm : Fmt} {d a : BitVec 6} {greatest : Bool}
    {s : State} (h : MemoryOk s) : OutOk (reduceIdxFlt word st pr ok fm d a greatest s) := h.reduceIdx

theorem MemoryOk.scan {word : W32} {st : BitVec 2} {pr : BitVec 3} {ok : Bool} {w : Nat} {d a : BitVec 6} {excl : Bool} {fo : Fold}
    {s : State} (h : MemoryOk s) : OutOk (scan word st pr ok w d a excl fo s) := h.laneResult

theorem MemoryOk.matchOp {word : W32} {st : BitVec 2} {pr : BitVec 3} {ok : Bool} {w : Nat} {d a : BitVec 6} {same : Nat → Nat → Bool}
    {s : State} (h : MemoryOk s) : OutOk (matchOp word st pr ok w d a same s) := h.laneResult

theorem MemoryOk.exchange {o : Op} {d a w : Nat} {from_ : CRegs → Nat → Nat → Nat} {s : State} (h : MemoryOk s) :
    OutOk (exchange o d a w from_ s) := by
  refine h.issue fun _ _ _ h1 => ?_
  exact h1.regEffect

theorem MemoryOk.execLxch {f : FmtR} {s : State} (h : MemoryOk s) : OutOk (execLxch f s) := h.exchange

theorem MemoryOk.execLbcast {f : FmtR} {s : State} (h : MemoryOk s) : OutOk (execLbcast f s) := h.exchange

theorem MemoryOk.execLballot {f : FmtDA} {s : State} (h : MemoryOk s) : OutOk (execLballot f s) := by
  refine h.issue fun _ _ _ h1 => ?_
  exact h1.regEffect

theorem MemoryOk.execLcount {f : FmtDA} {s : State} (h : MemoryOk s) : OutOk (execLcount f s) := by
  refine h.issue fun _ _ _ h1 => ?_
  exact h1.regEffect

/-! ## The operations of Machine/Special -/

theorem MemoryOk.specialOp {word : W32} {f : FmtDA} {op : Nat} {s : State} (h : MemoryOk s) : OutOk (specialOp word f op s) :=
  h.vecOp

/-! ## The operations of Machine/Uniform -/

theorem MemoryOk.uniBin {word : W32} {st : BitVec 2} {pr : BitVec 3} {sz : Nat} {d a : BitVec 6} {op : IOp} {s : State} (h : MemoryOk s) :
    OutOk (uniBin word st pr sz d a op s) := h.uniOp

theorem MemoryOk.uniImm {word : W32} {f : FmtI} {g : Nat → Nat → Nat} {s : State} (h : MemoryOk s) : OutOk (uniImm word f g s) :=
  h.uniOp

theorem MemoryOk.uniUn {word : W32} {st : BitVec 2} {pr : BitVec 3} {sz : Nat} {d a : BitVec 6} {op : UOp} {s : State} (h : MemoryOk s) :
    OutOk (uniUn word st pr sz d a op s) := h.uniOp

theorem MemoryOk.uniPack {word : W32} {f : FmtZDA} {signed high : Bool} {s : State} (h : MemoryOk s) :
    OutOk (uniPack word f signed high s) := h.uniOp

theorem MemoryOk.uniUnpack {word : W32} {f : FmtZDA} {signed high : Bool} {s : State} (h : MemoryOk s) :
    OutOk (uniUnpack word f signed high s) := h.uniOp

theorem MemoryOk.execLeaU {f : FmtZDA} {s : State} (h : MemoryOk s) : OutOk (execLeaU f s) := h.uniOp

theorem MemoryOk.execShlImm {f : FmtI} {s : State} (h : MemoryOk s) : OutOk (execShlImm f s) := h.uniImm

theorem MemoryOk.execShrNImm {f : FmtI} {s : State} (h : MemoryOk s) : OutOk (execShrNImm f s) := h.uniImm

theorem MemoryOk.execShrIImm {f : FmtI} {s : State} (h : MemoryOk s) : OutOk (execShrIImm f s) := h.uniImm

theorem MemoryOk.execCnot {f : FmtDA} {s : State} (h : MemoryOk s) : OutOk (execCnot f s) := h.condOp

theorem MemoryOk.execCsetp {f : FmtCs} {s : State} (h : MemoryOk s) : OutOk (execCsetp f s) := h.condOp

theorem MemoryOk.execCsetpImm {f : FmtCsI} {s : State} (h : MemoryOk s) : OutOk (execCsetpImm f s) := h.condOp

theorem MemoryOk.execMadUniform {f : FmtR} {s : State} (h : MemoryOk s) : OutOk (execMadUniform f s) := h.uniOp

theorem MemoryOk.execRdid {f : FmtDI} {s : State} (h : MemoryOk s) : OutOk (execRdid f s) := by
  refine h.issue fun _ _ _ h1 => ?_
  exact .ok h1.uwr

theorem MemoryOk.execBfiU {f : FmtZ1} {s : State} (h : MemoryOk s) : OutOk (execBfiU f s) := h.uniOp

theorem MemoryOk.execSelU {f : FmtW} {s : State} (h : MemoryOk s) : OutOk (execSelU f s) := h.uniOp

/-! ## The operations of Machine/VecInt -/

theorem MemoryOk.vecInt {word : W32} {st : BitVec 2} {pr : BitVec 3} {sz : Nat} {d a b : BitVec 6} {op : IOp} {three : Bool} {s : State}
    (h : MemoryOk s) : OutOk (vecInt word st pr sz d a b op three s) := h.vecOp

theorem MemoryOk.vecUn {word : W32} {st : BitVec 2} {pr : BitVec 3} {sz : Nat} {d a : BitVec 6} {op : UOp} {s : State} (h : MemoryOk s) :
    OutOk (vecUn word st pr sz d a op s) := h.vecOp

theorem MemoryOk.vecPack {word : W32} {f : FmtZDA} {signed high : Bool} {s : State} (h : MemoryOk s) :
    OutOk (vecPack word f signed high s) := h.vecOp

theorem MemoryOk.vecUnpack {word : W32} {f : FmtZDA} {signed high : Bool} {s : State} (h : MemoryOk s) :
    OutOk (vecUnpack word f signed high s) := h.vecOp

theorem MemoryOk.execSel {f : FmtW} {s : State} (h : MemoryOk s) : OutOk (execSel f s) := h.vecOp

theorem MemoryOk.execLea {f : FmtR} {s : State} (h : MemoryOk s) : OutOk (execLea f s) := by
  refine h.issue fun _ _ _ h1 => ?_
  exact h1.regEffect

theorem MemoryOk.execBcast {f : FmtDA} {s : State} (h : MemoryOk s) : OutOk (execBcast f s) := by
  refine h.issue fun _ _ _ h1 => ?_
  exact h1.regEffect

theorem MemoryOk.execPmask {f : FmtDA} {s : State} (h : MemoryOk s) : OutOk (execPmask f s) := by
  refine h.issue fun _ _ _ h1 => ?_
  exact h1.regEffect

theorem MemoryOk.execRdtid {f : FmtD} {s : State} (h : MemoryOk s) : OutOk (execRdtid f s) := by
  refine h.issue fun _ _ _ h1 => ?_
  exact h1.regEffect

/-! ## The operations of Machine/Due -/

theorem MemoryOk.stepPtp {s : State} (h : MemoryOk s) : MemoryOk (s.stepPtp) := by
  unfold State.stepPtp
  refine MemoryOk.ite ?_ h
  split
  · exact h.same
  · exact h

theorem MemoryOk.noteDue {s : State} (h : MemoryOk s) : MemoryOk (s.noteDue) := h.stepPtp.same

/-- The meaning of every instruction and event. -/
theorem MemoryOk.exec {i : Instr} {s : State} (h : MemoryOk s) : OutOk (exec i s) :=
  match i with
  | .add _ => h.vecInt
  | .sub _ => h.vecInt
  | .mul _ => h.vecInt
  | .mulhI _ => h.vecInt
  | .mulhN _ => h.vecInt
  | .mad _ => h.vecInt
  | .sad _ => h.vecInt
  | .minI _ => h.vecInt
  | .minN _ => h.vecInt
  | .maxI _ => h.vecInt
  | .maxN _ => h.vecInt
  | .and _ => h.vecInt
  | .or _ => h.vecInt
  | .xor _ => h.vecInt
  | .shl _ => h.vecInt
  | .shrN _ => h.vecInt
  | .shrI _ => h.vecInt
  | .rotl _ => h.vecInt
  | .bfx _ => h.vecInt
  | .bfi _ => h.vecInt
  | .setp _ => h.cmpOp
  | .sel _ => h.execSel
  | .lea _ => h.execLea
  | .mov _ => h.vecUn
  | .not _ => h.vecUn
  | .neg _ => h.vecUn
  | .abs _ => h.vecUn
  | .popc _ => h.vecUn
  | .clz _ => h.vecUn
  | .ctz _ => h.vecUn
  | .brev _ => h.vecUn
  | .packlI _ => h.vecPack
  | .packhI _ => h.vecPack
  | .packlN _ => h.vecPack
  | .packhN _ => h.vecPack
  | .unpklI _ => h.vecUnpack
  | .unpkhI _ => h.vecUnpack
  | .unpklN _ => h.vecUnpack
  | .unpkhN _ => h.vecUnpack
  | .bcast _ => h.execBcast
  | .pmask _ => h.execPmask
  | .rdtid _ => h.execRdtid
  | .pnot _ => h.cmpOp
  | .addU _ => h.uniBin
  | .subU _ => h.uniBin
  | .mulU _ => h.uniBin
  | .mulhIU _ => h.uniBin
  | .mulhNU _ => h.uniBin
  | .madU _ => h.uniBin
  | .sadU _ => h.uniBin
  | .minIU _ => h.uniBin
  | .minNU _ => h.uniBin
  | .maxIU _ => h.uniBin
  | .maxNU _ => h.uniBin
  | .andU _ => h.uniBin
  | .orU _ => h.uniBin
  | .xorU _ => h.uniBin
  | .shlU _ => h.uniBin
  | .shrNU _ => h.uniBin
  | .shrIU _ => h.uniBin
  | .rotlU _ => h.uniBin
  | .bfxU _ => h.uniBin
  | .leaU _ => h.execLeaU
  | .addImm _ => h.uniImm
  | .shlImm _ => h.execShlImm
  | .shrNImm _ => h.execShrNImm
  | .shrIImm _ => h.execShrIImm
  | .andImm _ => h.uniImm
  | .orImm _ => h.uniImm
  | .xorImm _ => h.uniImm
  | .mulImm _ => h.uniImm
  | .movU _ => h.uniUn
  | .notU _ => h.uniUn
  | .negU _ => h.uniUn
  | .absU _ => h.uniUn
  | .popcU _ => h.uniUn
  | .clzU _ => h.uniUn
  | .ctzU _ => h.uniUn
  | .brevU _ => h.uniUn
  | .packlIU _ => h.uniPack
  | .packhIU _ => h.uniPack
  | .packlNU _ => h.uniPack
  | .packhNU _ => h.uniPack
  | .unpklIU _ => h.uniUnpack
  | .unpkhIU _ => h.uniUnpack
  | .unpklNU _ => h.uniUnpack
  | .unpkhNU _ => h.uniUnpack
  | .cnot _ => h.execCnot
  | .csetp _ => h.execCsetp
  | .csetpImm _ => h.execCsetpImm
  | .madUniform _ => h.execMadUniform
  | .rdid _ => h.execRdid
  | .bfiU _ => h.execBfiU
  | .selU _ => h.execSelU
  | .fadd _ => h.execFadd
  | .fsub _ => h.execFsub
  | .fmul _ => h.execFmul
  | .fma _ => h.execFma
  | .fmin _ => h.vecPick
  | .fmax _ => h.vecPick
  | .fsetp _ => h.vecSetp
  | .fneg _ => h.vecFun
  | .fabs _ => h.vecFun
  | .fclass _ => h.vecFun
  | .faddBf16 _ => h.execFaddBf16
  | .fsubBf16 _ => h.execFsubBf16
  | .fmulBf16 _ => h.execFmulBf16
  | .fmaBf16 _ => h.execFmaBf16
  | .fminBf16 _ => h.vecPick
  | .fmaxBf16 _ => h.vecPick
  | .fsetpBf16 _ => h.vecSetp
  | .fnegBf16 _ => h.vecFun
  | .fabsBf16 _ => h.vecFun
  | .fclassBf16 _ => h.vecFun
  | .rcp _ => h.specialOp
  | .rsq _ => h.specialOp
  | .sqrt _ => h.specialOp
  | .ex2 _ => h.specialOp
  | .lg2 _ => h.specialOp
  | .sinpi _ => h.specialOp
  | .cospi _ => h.specialOp
  | .tanh _ => h.specialOp
  | .cvtFloat _ => h.convertOp
  | .cvtInt _ => h.convertOp
  | .cvtXF32 _ => h.execCvtXF32
  | .cvtF32X _ => h.execCvtF32X
  | .qblk _ => h.execQblk
  | .dqblk _ => h.execDqblk
  | .swz _ => h.execSwz
  | .lxch _ => h.execLxch
  | .lbcast _ => h.execLbcast
  | .lredAdd _ => h.reduce
  | .lredMinI _ => h.reduce
  | .lredMinN _ => h.reduce
  | .lredMaxI _ => h.reduce
  | .lredMaxN _ => h.reduce
  | .lredAnd _ => h.reduce
  | .lredOr _ => h.reduce
  | .lredXor _ => h.reduce
  | .lredMinIdxI _ => h.reduceIdxInt
  | .lredMinIdxN _ => h.reduceIdxInt
  | .lredMaxIdxI _ => h.reduceIdxInt
  | .lredMaxIdxN _ => h.reduceIdxInt
  | .lredFadd _ => h.reduce
  | .lredFmin _ => h.reduce
  | .lredFmax _ => h.reduce
  | .lredFminIdx _ => h.reduceIdxFlt
  | .lredFmaxIdx _ => h.reduceIdxFlt
  | .lredFaddBf16 _ => h.reduce
  | .lredFminBf16 _ => h.reduce
  | .lredFmaxBf16 _ => h.reduce
  | .lredFminIdxBf16 _ => h.reduceIdxFlt
  | .lredFmaxIdxBf16 _ => h.reduceIdxFlt
  | .lscanAdd _ => h.scan
  | .lscanMinI _ => h.scan
  | .lscanMinN _ => h.scan
  | .lscanMaxI _ => h.scan
  | .lscanMaxN _ => h.scan
  | .lscanAnd _ => h.scan
  | .lscanOr _ => h.scan
  | .lscanXor _ => h.scan
  | .lscanFadd _ => h.scan
  | .lscanFmin _ => h.scan
  | .lscanFmax _ => h.scan
  | .lscanFaddBf16 _ => h.scan
  | .lscanFminBf16 _ => h.scan
  | .lscanFmaxBf16 _ => h.scan
  | .lballot _ => h.execLballot
  | .lmatch _ => h.matchOp
  | .lmatchF _ => h.matchOp
  | .lmatchBf16 _ => h.matchOp
  | .lcount _ => h.execLcount
  | .ld _ => h.loadReg
  | .ldOffset _ => h.loadOff
  | .st _ => h.storeRegs
  | .stOffset _ => h.storeOff
  | .ldu _ => h.execLdu
  | .stu _ => h.execStu
  | .ldl _ => h.loadReg
  | .ldlOffset _ => h.loadOff
  | .stl _ => h.storeRegs
  | .stlOffset _ => h.storeOff
  | .ldc _ => h.execLdc
  | .ldcU _ => h.execLdcU
  | .amoAdd _ => h.amoV
  | .amoMinI _ => h.amoV
  | .amoMinN _ => h.amoV
  | .amoMaxI _ => h.amoV
  | .amoMaxN _ => h.amoV
  | .amoAnd _ => h.amoV
  | .amoOr _ => h.amoV
  | .amoXor _ => h.amoV
  | .amoExch _ => h.amoV
  | .amoCas _ => h.amoV
  | .amouAdd _ => h.amoU
  | .amouMinI _ => h.amoU
  | .amouMinN _ => h.amoU
  | .amouMaxI _ => h.amoU
  | .amouMaxN _ => h.amoU
  | .amouAnd _ => h.amoU
  | .amouOr _ => h.amoU
  | .amouXor _ => h.amoU
  | .amouExch _ => h.amoU
  | .amouCas _ => h.amoU
  | .aappend _ => h.execAappend
  | .cpyG2l _ => h.copyOp
  | .cpyL2g _ => h.copyOp
  | .cpyL2l _ => h.copyOp
  | .cpyG2g _ => h.copyOp
  | .ringInit _ => h.execRingInit
  | .ringAcq _ => h.execRingAcq
  | .ringPub _ => h.execRingPub
  | .ringTake _ => h.execRingTake
  | .ringRel _ => h.execRingRel
  | .barInit _ => h.execBarInit
  | .barArv _ => h.execBarArv
  | .barWait _ => h.execBarWait
  | .barArw _ => h.execBarArw
  | .barInval _ => h.execBarInval
  | .bbar _ => h.execBbar
  | .dbar _ => h.execDbar
  | .cbar _ => h.execCbar
  | .fenceIo _ => h.execFenceIo
  | .bdecl _ => h.execBdecl
  | .bentr _ => h.execBentr
  | .bleav _ => h.execBleav
  | .bstat _ => h.execBstat
  | .qpop _ => h.execQpop
  | .qpopTry _ => h.execQpopTry
  | .qpush _ => h.execQpush
  | .sgbind _ => h.execSgbind
  | .sgstat _ => h.execSgstat
  | .rdclk _ => h.execRdclk
  | .rdptp _ => h.execRdptp
  | .rdenergy _ => h.execRdenergy
  | .bra _ => h.execBra
  | .brd _ => h.execBrd
  | .join _ => h.execJoin
  | .brx _ => h.execBrx
  | .brxU _ => h.execBrxU
  | .ret _ => h.execRet
  | .land _ => h.execLand
  | .call _ => h.execCall
  | .loop _ => h.execLoop
  | .exit _ => h.execExit
  | .mma _ => h.mmaOp
  | .mzero _ => h.execMzero
  | .mmag _ => h.mmaOp
  | .mstS _ => h.mstOp
  | .mstSAddF32 _ => h.mstOp
  | .mstSAddI32 _ => h.mstOp
  | .mmaCv _ => h.mmaOp
  | .mrowRead _ => h.sliceRead
  | .mcolRead _ => h.sliceRead
  | .mrowWrite _ => h.sliceWrite
  | .mcolWrite _ => h.sliceWrite
  | .setvb _ => h.execSetvb
  | .svc _ => h.execSvc
  | .eret _ => h.execEret
  | .eretNobp _ => h.execEretNobp
  | .eretTerm _ => h.execEretTerm
  | .mfsr _ => h.execMfsr
  | .mtsr _ => h.execMtsr
  | .tlbiPage _ => h.execTlbiPage
  | .tlbiSpace _ => h.execTlbiSpace
  | .tlbiTenant _ => h.execTlbiTenant
  | .scrub _ => h.execScrub
  | .ovld _ => h.execOvld
  | .cacheopDropLine _ => h.execCacheopDropLine
  | .cacheopWriteback _ => h.execCacheopWriteback
  | .cacheopDropAll _ => h.execCacheopDropAll
  | .wfe _ => h.execWfe
  | .halt _ => h.execHalt
  | .imm _ => h.hintWord
  | .rep _ => h.hintWord
  | .mod _ => h.hintWord
  | .sched _ => h.hintWord
  | .scoreboardWriteback _ => .next h.writeback
  | .hostAtomicCompletion _ _ _ _ => .next h.hostDone.finishClosing
  | .homeRequest _ _ _ _ _ => OutOk.fault.ite ((OutOk.next h).ite ((OutOk.next (h.ite h.messageWrite)).ite
      ((OutOk.next (h.ite h.remoteRequest)).ite ((OutOk.next h.reachCache).ite (.next h.homePerform)))))
  | .invalidation _ _ _ => OutOk.fault.ite ((OutOk.next h).ite ((OutOk.next h.closeHolders.modCore.giveUp).ite (.next h.giveUp)))
  | .epochCommit _ _ => h.execEpochCommit
  | .coreEscortEnd _ => h.execCoreEscortEnd
  | .uncorrectableError _ => h.execUncorrectableError
  | .copyTransfer _ => h.execCopyTransfer
  | .matrixTake _ => (OutOk.next h.arrayTake).ite .fault
  | .matrixOperandRead _ => (OutOk.next h.arrayRead).ite .fault
  | .matrixComplete _ => (OutOk.next h.arrayComplete).ite .fault
  | .trapEntry _ _ => .next (h.takeTrap.ite h)
  | .wfeTimeout _ _ => h.execWfeTimeout
  | .bundleRequestServe _ _ => .next h.serveBundles
  | .bundleEntryComplete _ _ => .next (h.completeEntry.ite h)
  | .streamAccess _ => .next (h.streamServe.keepResponse.ite h)
  | .dhLineCopy _ _ => .next h.copyLine
  | .ingestFrame _ _ => (OutOk.next h.ingest).ite .fault
  | .transmitFrame _ => (OutOk.next h.transmit).ite .fault
  | .packetDispatch => .next h.dispatch
  | .semaphorePoll _ _ => .next h.pollSemaphore
  | .sliceEnd => .next h.sliceEnd
  | .feedQueuePush _ _ => .next h.feedPush
  | .launchCompletion _ => .next h.completeLaunch
  | .chunkSteal _ _ => .next h.steal
  | .blockAdmission _ => (OutOk.next h.admission).ite .fault
  | .energyMeterSample => .next h.sampleEnergy
  | .energyWindowStart => .next h.startWindow
  | .flitReceive _ _ => h.execFlitReceive
  | .linkHeartbeat _ => h.execLinkHeartbeat
  | .linkFailed _ => (OutOk.next h.failLink).ite .fault
  | .requestReissue _ => .next h.reissue
  | .packageFenced _ => (OutOk.next h.fence).ite .fault
  | .hostAccess _ => .next h.hostAccess
  | .hostLkWrite _ _ _ => .next h.hostWriteTo
  | .ideStreamFailure _ => .next h.dropStream.ifError
  | .functionLevelReset _ => .next h.ifError
  | .qtailDoorbell _ _ _ => .next h.ringQueue
  | .evheadWrite _ _ => .next h.setEvhead
  | .registerWrite _ _ _ => .next h.hostWriteTo
  | .mapQueue _ => .next h.mapQueue
  | .unmapQueue _ => .next h.unmapQueue
  | .pause _ => .next h.pauseCmd
  | .resume _ => .next h.resumeCmd
  | .evict _ => .next h.evictCmd
  | .importContext _ => .next h.importCmd
  | .setSlice _ => .next h.setSlice
  | .reassignCores _ => .next h.reassign
  | .migrate _ => .next h.migrate
  | .setWeight _ => .next h.setWeight
  | .endGang _ => .next h.endGang
  | .discardLaunch _ => .next h.discardLaunch
  | .resetQueue _ => .next h.resetQueue
  | .attachPort _ => .next h.attachPort
  | .resetTenant _ => .next h.resetTenantCmd
  | .installPolicy _ => .next h.installPolicy
  | .assignMemory _ => .next h.assignMemory
  | .releaseMemory _ => .next h.releaseMemory
  | .setPodWindow _ => .next h.setPodWindow
  | .lockInterface _ => h.execLockInterface
  | .startInterface _ => h.execStartInterface
  | .stopInterface _ => h.execStopInterface
  | .getDeviceInterfaceReport _ => h.execGetDeviceInterfaceReport
  | .getDeviceInterfaceState _ => h.execGetDeviceInterfaceState
  | .tdispGetVersion _ => h.execTdispGetVersion
  | .tdispGetCapabilities _ => h.execTdispGetCapabilities
  | .ifcmdLock _ => .next h.ifLock
  | .ifcmdStart _ => .next h.ifStart
  | .ifcmdStop _ => .next h.ifStop
  | .spdmGetVersion _ => h.execSpdmGetVersion
  | .spdmGetCapabilities _ => h.execSpdmGetCapabilities
  | .negotiateAlgorithms _ => h.execNegotiateAlgorithms
  | .getDigests _ => h.execGetDigests
  | .getCertificate _ => h.execGetCertificate
  | .challenge _ => h.execChallenge
  | .getMeasurements _ => h.execGetMeasurements
  | .keyExchange _ => h.execKeyExchange
  | .finish _ => h.execFinish
  | .spdmHeartbeat _ => h.execSpdmHeartbeat
  | .keyUpdate _ => h.execKeyUpdate
  | .endSession _ => h.execEndSession
  | .policyKeyRegistration _ => h.execPolicyKeyRegistration
  | .packageReset _ => .next MemoryOk.resetPackage
  | .firmwareWatchdog => .next h.watchdogFires
  | .fwctlReady => .next h.firmwareReady
  | .fwctlActivate => .next h.activate
  | .activationVerified => .next h.verified
  | .activationPause => .next h.pauseStep
  | .firmwareImageWrite _ => .next h.writeImage
  | .wake _ => .next h.wakeCaravan
  | .stlaunch _ _ => (OutOk.next h.startKernel).ite .fault
  | .dhctlSync _ _ => .next h.syncWindow
  | .dhctlSwitch _ _ => .next h.switchWindow
  | .syzstatRetrain _ => (OutOk.next h.modLink.cutOff).ite .fault
  | .pwrcap _ => .next h.setCap
  | .junctionHot _ => (OutOk.next h.same).ite .fault
  | .junctionCool _ => (OutOk.next h.same).ite .fault
  | .thermalTrip => .next MemoryOk.thermalTrip
  | .coreRetirement _ => (OutOk.next h.retireCore).ite .fault
  | .unassignedEncoding _ => OutOk.fault.ite (h.hintWord.ite (.next h.takeTrap))
  | .reservedHintWord _ => h.hintWord
  | .ikdoor _ => .next h.doorbell
  | .ideKmKeyProgramming _ => h.execIdeKmKeyProgramming
  | .healthTestFailure => .next h.same
  | .hostSnoop _ => .next h
  | .globalObservationResponse _ => .next h.same
  | .reAdmission _ => .next h.readmit
  | .trainingComplete _ => (OutOk.next h.modLink).ite .fault

theorem MemoryOk.stepAgent {s : State} (h : MemoryOk s) : OutOk (stepAgent s) := by
  unfold Machine.stepAgent
  split
  · exact .next h.trapFetch
  · exact h.begun.exec

theorem MemoryOk.step {s : State} (h : MemoryOk s) : OutOk (step s) := by
  unfold Machine.step
  refine OutOk.ite (.next h.bootRom) (.ite h.noteIssue.stepAgent ?_)
  split
  · exact h.same.exec
  · split
    · exact .next h.noteDue
    · split
      · exact .ite (.next h.passGated) h.pass.stepAgent
      · exact .next h.same

/-- Settles O60: whatever a step does, it does by the operations above, and each keeps memory's form. -/
theorem stepKeepsMemoryCanonical : Obligations.StepKeepsMemoryCanonical := by
  intro s t hs e
  have ho : OutOk (.next t) := e ▸ hs.step
  cases ho with
  | next h => exact h

end Sys2Proof
end

section
/-! SUPPORT. O59 is stated of every state, also of one no run reaches, whose firmware notes a missed READY for a slot that is not there. -/
namespace Sys2Proof
open Sys2Proof.Machine

/-- A part whose firmware notes a missed READY for slot 2. A run notes only slots 0 and 1 (`State.lateSlots`). -/
def strayMissed : State := { State.reset with fw := { Firmware.reset with missed := [2] } }

/-- Its slot number reaches into FAILS when the reset counts the failed start, which reads 2 where one start has failed. -/
theorem fails_resetPackage_strayMissed : ((strayMissed.resetPackage 1).fw.bootwhy.extractLsb' 2 2).toNat = 2 := by decide

/-- Refutes O59: its clause on a reset after a missed READY bounds the slot only where it speaks of the slot tried next, not of FAILS. -/
theorem not_firmwareStartsActivatesAndTrips : ¬ Obligations.FirmwareStartsActivatesAndTrips := by
  rintro ⟨hreset, -⟩
  obtain ⟨t, hstep, -, -, hlate, -⟩ := hreset strayMissed 1
  obtain ⟨hfails, -⟩ := hlate (by decide) (by decide)
  have ht : strayMissed.resetPackage 1 = t := by injection hstep
  rw [← ht, fails_resetPackage_strayMissed] at hfails
  exact absurd hfails (by decide)

end Sys2Proof
end

section
/-! SUPPORT. What a write that no caravan makes does: its bytes, and no other byte and no function; and what the host's requests come
to. -/
namespace Sys2Proof
open Sys2Proof.Machine Sys2Proof.Claims

/-! ## Bytes of memory written -/

/-- Does a free range of a discarded key hold an address? -/
def inFreeRange (pa : Nat) (r : Nat × Nat × Nat) : Bool := r.1 ≤ pa && pa < r.2.1

/-- What is left of one free range when a byte is written. -/
def cutRange (x : Nat) (r : Nat × Nat × Nat) : List (Nat × Nat × Nat) :=
  if inFreeRange x r then [(r.1, x, r.2.2), (x + 1, r.2.1, r.2.2)].filter (fun y => y.1 < y.2.1) else [r]

theorem unkey_cons (r : Nat × Nat × Nat) (l : List (Nat × Nat × Nat)) (x : Nat) : unkey (r :: l) x = cutRange x r ++ unkey l x := rfl

theorem find?_cutRange (x pa : Nat) (r : Nat × Nat × Nat) :
    ((cutRange x r).find? (inFreeRange pa)).map (·.2.2) = if pa ≠ x ∧ inFreeRange pa r = true then some r.2.2 else none := by
  obtain ⟨lo, hi, k⟩ := r
  unfold cutRange
  split
  next h =>
    simp only [inFreeRange, Bool.and_eq_true, decide_eq_true_eq] at h
    rw [List.find?_filter]
    simp only [List.find?_cons, inFreeRange, List.find?_nil]
    grind
  next h =>
    simp only [inFreeRange, List.find?_cons, List.find?_nil] at h ⊢
    grind

/-- A byte written is in no free range, and every other byte is in the range it was in. -/
theorem find?_unkey (l : List (Nat × Nat × Nat)) (x pa : Nat) :
    ((unkey l x).find? (inFreeRange pa)).map (·.2.2) = if pa = x then none else (l.find? (inFreeRange pa)).map (·.2.2) := by
  induction l with
  | nil => simp [unkey]
  | cons r l ih =>
    rw [unkey_cons, List.find?_append, Option.map_or, find?_cutRange, ih, List.find?_cons]
    cases inFreeRange pa r <;> by_cases h : pa = x <;> simp [h]

/-- The same of a run of bytes. -/
theorem find?_foldl_unkey (l : List (Nat × Nat × Nat)) (a n pa : Nat) :
    (((List.range n).foldl (fun r i => unkey r (a + i)) l).find? (inFreeRange pa)).map (·.2.2) =
      if a ≤ pa ∧ pa < a + n then none else (l.find? (inFreeRange pa)).map (·.2.2) := by
  induction n with
  | zero => simp
  | succ n ih =>
    rw [List.range_succ, List.foldl_append, List.foldl_cons, List.foldl_nil, find?_unkey, ih]
    grind

/-- The byte of memory, from the key of the free range that holds its address. -/
theorem memByte_eq (s : State) (pa : Nat) : s.memByte pa =
    ((s.rekeyed.find? (inFreeRange pa)).map (·.2.2)).elim (s.mem.read pa) fun k => Config.freeByte (k * 2 ^ 52 + pa) := by
  unfold State.memByte
  change (match s.rekeyed.find? (inFreeRange pa) with | some r => _ | none => _) = _
  cases s.rekeyed.find? (inFreeRange pa) <;> rfl

theorem find?_rekeyed_writeMem (s : State) (a pa : Nat) (bs : List Byte) :
    ((s.writeMem a bs).rekeyed.find? (inFreeRange pa)).map (·.2.2) =
      if a ≤ pa ∧ pa < a + bs.length then none else (s.rekeyed.find? (inFreeRange pa)).map (·.2.2) := by
  change ((if s.rekeyed.isEmpty then [] else (List.range bs.length).foldl (fun r i => unkey r (a + i)) s.rekeyed).find?
    (inFreeRange pa)).map (·.2.2) = _
  split
  next h => simp [List.isEmpty_iff.mp h]
  next => exact find?_foldl_unkey ..

theorem memByte_writeMem (s : State) (a i : Nat) (bs : List Byte) (h : i < bs.length) : (s.writeMem a bs).memByte (a + i) = bs[i] := by
  rw [memByte_eq, find?_rekeyed_writeMem, if_pos (by omega)]
  exact Laws.read_writeN s.mem a i bs h

theorem memByte_writeMem_other (s : State) (a pa : Nat) (bs : List Byte) (h : ¬(a ≤ pa ∧ pa < a + bs.length)) :
    (s.writeMem a bs).memByte pa = s.memByte pa := by
  rw [memByte_eq, memByte_eq, find?_rekeyed_writeMem, if_neg h]
  congr 1
  exact Laws.read_writeN_other s.mem a pa bs (by omega)

/-! ## What caches and caravans do about a write -/

/-- States that differ in no byte and no function: memory, its free ranges, each block's local store, the functions. -/
structure SameBytes (s t : State) : Prop where
  mem : t.mem = s.mem
  rekeyed : t.rekeyed = s.rekeyed
  vfs : t.vfs = s.vfs
  stores : ∀ b, (t.block? b).map (·.ls) = (s.block? b).map (·.ls)

theorem SameBytes.refl (s : State) : SameBytes s s := ⟨rfl, rfl, rfl, fun _ => rfl⟩

theorem SameBytes.trans {s t u : State} (h : SameBytes s t) (h' : SameBytes t u) : SameBytes s u :=
  ⟨h'.mem.trans h.mem, h'.rekeyed.trans h.rekeyed, h'.vfs.trans h.vfs, fun b => (h'.stores b).trans (h.stores b)⟩

theorem SameBytes.memByte {s t : State} (h : SameBytes s t) (pa : Nat) : t.memByte pa = s.memByte pa := by
  rw [memByte_eq, memByte_eq, h.mem, h.rekeyed]

theorem peek_ls (s : State) (b o : Nat) : s.peek (.ls b o) = ((s.block? b).map (·.ls)).elim 0 fun m => m.read o := by
  unfold State.peek
  cases h : s.block? b <;> simp [h]

theorem SameBytes.peek {s t : State} (h : SameBytes s t) (l : Loc) : t.peek l = s.peek l := by
  cases l with
  | glob pa => exact h.memByte pa
  | ls b o => rw [peek_ls, peek_ls, h.stores]

/-- Every step of a fold keeps bytes and functions. -/
theorem SameBytes.foldl {α : Type} {s t : State} {f : State → α → State} {l : List α} (h : SameBytes s t)
    (hf : ∀ u a, SameBytes u (f u a)) : SameBytes s (l.foldl f t) := by
  induction l generalizing t with
  | nil => exact h
  | cons a l ih => exact ih (h.trans (hf t a))

/-- Blocks changed, each with its number and its local store kept. -/
theorem SameBytes.mapBlocks {s t : State} {f : Block → Block} (hm : t.mem = s.mem) (hr : t.rekeyed = s.rekeyed) (hv : t.vfs = s.vfs)
    (hb : t.blocks = s.blocks.map f) (hid : ∀ x, (f x).id = x.id) (hls : ∀ x, (f x).ls = x.ls) : SameBytes s t := by
  refine ⟨hm, hr, hv, fun b => ?_⟩
  unfold State.block?
  rw [hb, List.find?_map, Option.map_map]
  have hp : (fun x : Block => x.id == b) ∘ f = fun x => x.id == b := funext fun x => by simp [hid]
  rw [hp]
  congr 1
  exact funext hls

theorem sameBytes_modCar (s : State) (b n : Nat) (f : Caravan → Caravan) : SameBytes s (s.modCar b n f) :=
  .mapBlocks rfl rfl rfl rfl (fun _ => by dsimp only; split <;> rfl) fun _ => by dsimp only; split <;> rfl

theorem sameBytes_rollMarked (s : State) (b n core : Nat) (c : Caravan) (words : List Loc) :
    SameBytes s (s.rollMarked b n core c words) := by
  unfold State.rollMarked
  split
  · exact .refl s
  · exact (sameBytes_modCar s b n _).trans ⟨rfl, rfl, rfl, fun _ => rfl⟩

theorem sameBytes_invalidate (s : State) (by_ : Option Who) (words : List Loc) : SameBytes s (s.invalidate by_ words) := by
  refine (SameBytes.refl s).foldl fun u x => (SameBytes.refl u).foldl fun v c => ?_
  split
  · exact .refl v
  · exact sameBytes_rollMarked ..

theorem sameBytes_wake (s : State) (by_ : Option Who) (chunks : List Loc) : SameBytes s (s.wake by_ chunks) :=
  .mapBlocks rfl rfl rfl rfl (fun _ => rfl) fun _ => rfl

theorem sameBytes_dropSharers (s : State) (pa n : Nat) (keep : Option Nat) : SameBytes s (s.dropSharers pa n keep) :=
  (SameBytes.refl s).foldl fun _ _ => ⟨rfl, rfl, rfl, fun _ => rfl⟩

/-- A write of device memory by no caravan is its bytes, and nothing of what caches and caravans do about it. -/
theorem sameBytes_put (s : State) (pa : Nat) (bs : List Byte) :
    SameBytes ((s.dropSharers pa bs.length none).writeMem pa bs) (s.put none (.glob pa) bs none) :=
  (sameBytes_invalidate ..).trans (sameBytes_wake ..)

theorem vfs_put (s : State) (pa : Nat) (bs : List Byte) : (s.put none (.glob pa) bs none).vfs = s.vfs :=
  (sameBytes_put s pa bs).vfs.trans (sameBytes_dropSharers s pa bs.length none).vfs

theorem peekN_put (s : State) (pa : Nat) (bs : List Byte) : (s.put none (.glob pa) bs none).peekN (.glob pa) bs.length = bs := by
  apply List.ext_getElem
  · simp [State.peekN]
  · intro i _ h
    simp only [State.peekN, List.getElem_map, List.getElem_range]
    exact ((sameBytes_put s pa bs).memByte (pa + i)).trans (memByte_writeMem _ pa i bs h)

theorem peek_put_other (s : State) (pa : Nat) (bs : List Byte) (l : Loc) (h : ∀ i, i < bs.length → l ≠ .glob (pa + i)) :
    (s.put none (.glob pa) bs none).peek l = s.peek l := by
  refine ((sameBytes_put s pa bs).peek l).trans (Eq.trans ?_ ((sameBytes_dropSharers s pa bs.length none).peek l))
  cases l with
  | ls b o => rfl
  | glob a =>
    refine memByte_writeMem_other _ pa a bs fun ⟨hlo, hhi⟩ => h (a - pa) (by omega) ?_
    rw [Nat.add_sub_cancel' hlo]

/-! ## Functions and their queues -/

theorem id_of_vf? {s : State} {vf : Nat} {f : Vf} (h : s.vf? vf = some f) : f.id = vf := by
  simpa using List.find?_some h

theorem vf?_modVf {s : State} {vf : Nat} {f : Vf} (h : s.vf? vf = some f) (g : Vf → Vf) (hg : ∀ x, (g x).id = x.id) :
    (s.modVf vf g).vf? vf = some (g f) := by
  have hfind : (s.modVf vf g).vf? vf = (s.vf? vf).map g :=
    Laws.find?_map_update s.vfs (fun x => x.id == vf) g fun x hx => by simpa [hg] using hx
  rw [hfind, h]; rfl

theorem queueIs_modQueue {s : State} {vf q : Nat} {f : Vf} {x : Queue} (h : s.vf? vf = some f) (hq : f.queue? q = some x)
    (g : Queue → Queue) (hg : ∀ y, (g y).q = y.q) : queueIs (s.modQueue vf q g) vf q (g x) := by
  refine ⟨_, vf?_modVf h _ fun _ => rfl, ?_⟩
  have hfind : (f.queues.map fun y => if y.q == q then g y else y).find? (fun y => y.q == q) = (f.queue? q).map g :=
    Laws.find?_map_update f.queues (fun y => y.q == q) g fun y hy => by simpa [hg] using hy
  exact hfind.trans (by rw [hq]; rfl)

/-! ## The host's requests -/

theorem reached?_of_reaches {s : State} {h : HostFrom} {f : Vf} (hf : s.vf? h.vf = some f) (hr : s.reaches f h.onIde = true) :
    s.reached? h = some f := by
  simp [State.reached?, hf, hr]

theorem reached?_of_not_reaches {s : State} {h : HostFrom} {f : Vf} (hf : s.vf? h.vf = some f) (hr : s.reaches f h.onIde = false) :
    s.reached? h = none := by
  simp [State.reached?, hf, hr]

/-- An interface in no RUN asks for no stream. -/
theorem reaches_or {s : State} {f : Vf} {ide : Bool} (hr : s.reaches f ide = true) (b : Bool) : s.reaches f (ide || b) = true := by
  unfold State.reaches at hr ⊢
  cases ide <;> simp_all

/-- A write to a register of an unlocked interface that it reaches is performed by its access code. -/
theorem hostWriteTo_unlocked {s : State} {vf : Nat} {ide : Bool} {f : Vf} (hf : s.vf? vf = some f) (h0 : f.ifstate = 0)
    (hr : s.reaches f ide = true) {r : HostReg} (hs : sriovReg r = false) (v : Word) :
    s.hostWriteTo ⟨vf, ide⟩ r v = s.storeReg f r v := by
  have hto : s.reached? ⟨vf, ide || configReg r⟩ = some f := reached?_of_reaches hf (reaches_or hr _)
  have hthere : (if ownReg r then s.reached? ⟨vf, ide || configReg r⟩ else s.vf? vf) = some f := by
    split
    · exact hto
    · exact hf
  unfold State.hostWriteTo
  simp only [hthere, State.hostWrite, hs, Vf.frozen, h0, Bool.false_and, Nat.reduceBEq, Bool.or_self, Bool.false_eq_true, if_false]

theorem bytesKept_modVf (s : State) (vf : Nat) (g : Vf → Vf) : BytesKept s (s.modVf vf g) := ⟨rfl, fun _ => rfl⟩

/-- Looking at a queue again changes the agenda alone. -/
theorem bytesKept_lookQueue (s : State) (vf q : Nat) (g : Queue → Queue) : BytesKept s ((s.modQueue vf q g).lookQueue vf q) :=
  ⟨rfl, fun _ => rfl⟩

theorem hostAdmits_of_not_run {s : State} {a : HostAccess} {f : Vf} (hf : s.vf? a.vf = some f) (h : f.ifstate ≠ 2) :
    s.hostAdmits a = false := by
  simp [State.hostAdmits, hf, h]

/-- An access of an interface in ERROR is aborted, and a write logged. -/
theorem hostAccess_error {s : State} {a : HostAccess} {f : Vf} (hf : s.vf? a.vf = some f) (h3 : f.ifstate = 3) :
    s.hostAccess a = if a.store.isSome then
      { s with hostReply := .abort, ik := { s.ik with log := s.ik.log ++ [(a.pa, a.vf)] } } else { s with hostReply := .abort } := by
  have hadm : ({ s with hostReply := .abort } : State).hostAdmits a = false := hostAdmits_of_not_run (f := f) hf (by omega)
  unfold State.hostAccess
  simp only [hf, h3, Nat.reduceBEq, if_true, hadm, Bool.false_eq_true, if_false]
  cases a.store <;> rfl

/-- An access of an interface not in ERROR: performed where it is admitted, and else logged or answered as unsupported. -/
theorem hostAccess_answered {s : State} {a : HostAccess} {f : Vf} (hf : s.vf? a.vf = some f) (h3 : f.ifstate ≠ 3) :
    s.hostAccess a = if s.hostAdmits a then
        (match a.store with
         | some bs => s.put none (.glob a.pa) (bs.take a.len) none
         | none => { s with hostReply := .data (s.peekN (.glob a.pa) a.len) })
      else if a.store.isSome then { s with ik := { s.ik with log := s.ik.log ++ [(a.pa, a.vf)] } }
      else { s with hostReply := .unsupported } := by
  unfold State.hostAccess
  simp only [hf, beq_eq_false_iff_ne.mpr h3, Bool.false_eq_true, if_false]
  cases a.store <;> rfl

/-- A doorbell the host rings on a queue of a function it reaches. -/
theorem ringQueue_eq {s : State} {vf q : Nat} {ide : Bool} {f : Vf} {x : Queue} (hf : s.vf? vf = some f) (hr : s.reaches f ide = true)
    (h3 : f.ifstate ≠ 3) (hq : f.queue? q = some x) (v : W32) : s.ringQueue ⟨vf, ide⟩ q v =
      if x.size ≤ v.toNat then (s.modQueue vf q fun y => { y with tail := v }).queueError vf q 1
      else (s.modQueue vf q fun y => { y with tail := v }).lookQueue vf q := by
  have hto : s.reached? ⟨vf, ide⟩ = some f := reached?_of_reaches hf hr
  unfold State.ringQueue
  simp only [hto, hq, beq_eq_false_iff_ne.mpr h3, Bool.false_eq_true, if_false]

/-- A new event head on a function the host reaches. -/
theorem setEvhead_eq {s : State} {vf : Nat} {ide : Bool} {f : Vf} (hf : s.vf? vf = some f) (hr : s.reaches f ide = true)
    (h3 : f.ifstate ≠ 3) (v : W32) : s.setEvhead ⟨vf, ide⟩ v = (s.modVf vf fun g => { g with evhead := v }).writeEvents vf 17 := by
  have hto : s.reached? ⟨vf, ide⟩ = some f := reached?_of_reaches hf hr
  unfold State.setEvhead
  simp only [hto, beq_eq_false_iff_ne.mpr h3, Bool.false_eq_true, if_false]

theorem writeEvents_nil {s : State} {vf n : Nat} {f : Vf} (hf : s.vf? vf = some f) (he : f.events = []) : s.writeEvents vf n = s := by
  cases n with
  | zero => rfl
  | succ n => simp only [State.writeEvents, hf, he]

/-- One event that waits is written where the ring has room. -/
theorem vf?_writeEvents_one {s : State} {vf n : Nat} {f : Vf} {e : List Byte} (hf : s.vf? vf = some f) (he : f.events = [e])
    (hroom : (f.evtail.toNat + 1) % 128 ≠ f.evhead.toNat % 128) : (s.writeEvents vf (n + 1)).vf? vf = some { f with
      evtail := BitVec.ofNat 32 ((f.evtail.toNat + 1) % 128), events := [], lost := 0, msix := f.msix ++ [0] } := by
  have hwritten : ∀ u : State, u.vfs = s.vfs → u.vf? vf = some f := fun u hu => by rw [← hf]; simp only [State.vf?, hu]
  simp only [State.writeEvents, hf, he, beq_eq_false_iff_ne.mpr hroom, Bool.false_eq_true, if_false]
  have hmod := fun u hu => vf?_modVf (hwritten u hu) (fun g => { g with
    evtail := BitVec.ofNat 32 ((f.evtail.toNat + 1) % 128), events := [], lost := 0, msix := g.msix ++ [0] }) fun _ => rfl
  split
  · rw [writeEvents_nil (hmod _ (vfs_put ..)) rfl]
    exact hmod _ (vfs_put ..)
  · rw [writeEvents_nil (hmod _ rfl) rfl]
    exact hmod _ rfl

/-- Settles O56: each request comes to one of the equations above, and what it writes to `peekN_put`, `peek_put_other`,
`queueIs_modQueue` and `vf?_modVf`. -/
theorem hostReachesMemoryAndRegisters : Obligations.HostReachesMemoryAndRegisters := by
  refine ⟨fun s f ide => ⟨rfl, rfl, fun hr q => ?_, fun hr h3 q => ?_, fun hr h3 q x hq => ?_⟩,
    fun s a f hf => ⟨fun h3 => congrArg Host.Outcome.next (hostAccess_error hf h3), fun h3 hadm hread => ?_,
      fun bs h3 hadm hwrite hlen => ?_, fun h3 hadm => ?_⟩,
    fun s vf ide f v hf h0 hr => ⟨fun r hreg => ?_, fun q x hq => ?_, fun q x hq => ?_, ?_, ?_⟩,
    fun s h f hf hr => ⟨fun q v => ?_, fun v => ?_, fun r v hown hcfg => ?_⟩,
    fun s vf q ide f x v hf hr h3 hq => ⟨fun hfull => ?_, fun hroom => ?_⟩,
    fun s vf ide f v hf hr h3 => ⟨fun hnone => ?_, fun e hone hroom => ?_⟩⟩
  -- reads of QSTAT
  · simp [State.hostRead, HostRead.own, ownReg, HostRead.config, configReg, hr]
  · simp [State.hostRead, HostRead.own, ownReg, HostRead.config, configReg, hr, h3]
  · simp [State.hostRead, HostRead.own, ownReg, HostRead.config, configReg, hr, h3, State.readReg, Vf.queueReg, hq]
  -- accesses of device memory
  · refine congrArg Host.Outcome.next ((hostAccess_answered hf h3).trans ?_)
    simp only [hadm, hread, if_true]
  · have hput : s.hostAccess a = s.put none (.glob a.pa) bs none := by
      rw [hostAccess_answered hf h3]
      simp only [hadm, hwrite, if_true, ← hlen, List.take_length]
    refine ⟨_, congrArg Host.Outcome.next hput, ?_, ?_⟩
    · rw [← hlen]; exact peekN_put s a.pa bs
    · rw [← hlen]; exact peek_put_other s a.pa bs
  · refine congrArg Host.Outcome.next ((hostAccess_answered hf h3).trans ?_)
    simp only [hadm, Bool.false_eq_true, if_false]
  -- registers by their access codes
  · refine congrArg Host.Outcome.next ?_
    obtain rfl | rfl | ⟨q, rfl⟩ := hreg
    · exact hostWriteTo_unlocked hf h0 hr rfl v
    · exact hostWriteTo_unlocked hf h0 hr rfl v
    · exact hostWriteTo_unlocked hf h0 hr rfl v
  · obtain rfl := id_of_vf? hf
    refine ⟨_, congrArg Host.Outcome.next (hostWriteTo_unlocked (r := .qbase q) hf h0 hr rfl v), bytesKept_lookQueue .., ?_⟩
    exact queueIs_modQueue hf hq (fun y => { y with base := v &&& ~~~0xFFF }) fun _ => rfl
  · obtain rfl := id_of_vf? hf
    refine ⟨_, congrArg Host.Outcome.next (hostWriteTo_unlocked (r := .qctl q) hf h0 hr rfl v), bytesKept_lookQueue .., ?_⟩
    exact queueIs_modQueue hf hq (fun y => { y with ctl := v &&& 0x1FFFF }) fun _ => rfl
  · obtain rfl := id_of_vf? hf
    refine ⟨_, congrArg Host.Outcome.next (hostWriteTo_unlocked (r := .atomicEnable) hf h0 hr rfl v), bytesKept_modVf .., ?_⟩
    exact vf?_modVf hf (fun g => { g with atomicEnable := v.getLsbD 0 }) fun _ => rfl
  · exact ⟨_, congrArg Host.Outcome.next (hostWriteTo_unlocked (r := .ikcmd) hf h0 hr rfl v), ⟨rfl, fun _ => rfl⟩, rfl⟩
  -- requests that do not reach the function
  · exact congrArg Host.Outcome.next (by simp only [State.ringQueue, reached?_of_not_reaches hf hr])
  · exact congrArg Host.Outcome.next (by simp only [State.setEvhead, reached?_of_not_reaches hf hr])
  · refine congrArg Host.Outcome.next ?_
    have hnot : s.reached? { h with onIde := h.onIde || configReg r } = none :=
      reached?_of_not_reaches (f := f) hf (by simpa [hcfg] using hr)
    simp only [State.hostWriteTo, hown, if_true, hnot]
  -- QTAIL
  · refine ⟨_, congrArg Host.Outcome.next ((ringQueue_eq hf hr h3 hq v).trans (if_pos hfull)), ⟨rfl, fun _ => rfl⟩, ?_⟩
    obtain ⟨g, hg, hgq⟩ := queueIs_modQueue hf hq (fun y => { y with tail := v }) fun _ => rfl
    exact queueIs_modQueue hg hgq (fun y => { y with stat := (y.stat &&& 0xFFFF00FF) ||| 0x108 }) fun _ => rfl
  · refine ⟨_, congrArg Host.Outcome.next ((ringQueue_eq hf hr h3 hq v).trans (if_neg (by omega))), bytesKept_lookQueue .., ?_, ?_⟩
    · exact queueIs_modQueue hf hq (fun y => { y with tail := v }) fun _ => rfl
    · simp [State.lookQueue]
  -- EVHEAD
  · have hhead := vf?_modVf hf (fun g => { g with evhead := v }) fun _ => rfl
    have hnext := (setEvhead_eq hf hr h3 v).trans (writeEvents_nil hhead hnone)
    exact ⟨_, congrArg Host.Outcome.next hnext, bytesKept_modVf .., hhead⟩
  · have hhead := vf?_modVf hf (fun g => { g with evhead := v }) fun _ => rfl
    exact ⟨_, congrArg Host.Outcome.next (setEvhead_eq hf hr h3 v), vf?_writeEvents_one hhead hone hroom⟩

end Sys2Proof
end

section
/-! SUPPORT. Accesses of a block's own local store: their checks, what they see, what they leave, and the issue of a load that is one. -/
namespace Sys2Proof
open Sys2Proof.Machine Sys2Proof.Claims

/-! ## Segments of the own local store -/

/-- The segment of n bytes, from byte `off` of a lane at `va`, of a block's own local store. -/
def ownSeg (b va off n : Nat) : Seg := { off := off, len := n, va := va + off, loc := .ls b (va + off), leaf := none, lane := some va }

/-- The segments of a lane of n bytes. -/
def ownSegs (b va n : Nat) : List Seg := (pageParts va n).map fun p => ownSeg b va p.1 p.2

/-- The segments of several lanes. -/
def ownLanes (b n : Nat) (lanes : List (Nat × Nat)) : List (Nat × List Seg) := lanes.map fun l => (l.1, ownSegs b l.2 n)

theorem pageParts_le {va n : Nat} {p : Nat × Nat} (h : p ∈ pageParts va n) : p.1 + p.2 ≤ n := by
  unfold pageParts at h
  extract_lets edge at h
  have hedge : va < edge := by omega
  split at h
  · simp_all
  · simp only [List.mem_cons, List.not_mem_nil, or_false] at h
    obtain rfl | rfl := h <;> simp only <;> omega

/-- The parts of a lane are its bytes in order. -/
theorem flatMap_pageParts {α : Type} (f : Nat → α) (va n : Nat) :
    ((pageParts va n).flatMap fun p => (List.range p.2).map fun i => f (p.1 + i)) = (List.range n).map f := by
  unfold pageParts
  extract_lets edge
  split
  · simp
  · have hsum : n = (edge - va) + (va + n - edge) := by omega
    rw [List.flatMap_cons, List.flatMap_cons, List.flatMap_nil, List.append_nil]
    conv_rhs => rw [hsum, List.range_add, List.map_append, List.map_map]
    simp [Function.comp_def]

theorem mem_ownSegs {b va n : Nat} {g : Seg} (h : g ∈ ownSegs b va n) : ∃ off len, g = ownSeg b va off len := by
  obtain ⟨p, -, rfl⟩ := List.mem_map.mp h
  exact ⟨p.1, p.2, rfl⟩

/-- Is every segment one of a block's local store, with no leaf? -/
def AllOwn (b : Nat) (segs : List Seg) : Prop := ∀ g ∈ segs, ∃ o, g.loc = .ls b o ∧ g.leaf = none

theorem allOwn_ownSegs (b va n : Nat) : AllOwn b (ownSegs b va n) := fun g hg => by
  obtain ⟨off, len, rfl⟩ := mem_ownSegs hg
  exact ⟨_, rfl, rfl⟩

theorem allOwn_ownLanes {b n : Nat} {lanes : List (Nat × Nat)} : ∀ l ∈ ownLanes b n lanes, AllOwn b l.2 := fun l hl => by
  obtain ⟨x, -, rfl⟩ := List.mem_map.mp hl
  exact allOwn_ownSegs b x.2 n

/-! ## Checks and what is seen -/

section
variable {s : State} {w : Who} {y : Block}

/-- An access by offsets of the own local store, no atomic, copy or `ldc` (R228). -/
structure OwnWant (want : Want) : Prop where
  own : want.own = true
  const : want.const = false
  atomic : want.atomic = none
  copy : want.copy = false

theorem segAt_own (hb : s.block? (blkOf w) = some y) {want : Want} (hw : OwnWant want) {va off n : Nat} (h : va + off + n ≤ y.lsg) :
    s.segAt w want va off n = ([], [ownSeg y.id va off n]) := by
  unfold State.segAt
  simp only [hb, hw.own, hw.const, if_true, Bool.false_eq_true, if_false, if_pos h]
  rfl

/-- A lane of the own local store below LSG passes its checks. -/
theorem checkLane_own (hb : s.block? (blkOf w) = some y) {want : Want} (hw : OwnWant want) {va : Nat} (h : va + want.size ≤ y.lsg) :
    s.checkLane w want va = ([], ownSegs y.id va want.size) := by
  have hparts : (pageParts va want.size).map (fun p => s.segAt w want va p.1 p.2) =
      (pageParts va want.size).map fun p => ([], [ownSeg y.id va p.1 p.2]) :=
    List.map_congr_left fun p hp => segAt_own hb hw (by have := pageParts_le hp; omega)
  unfold State.checkLane
  simp only [hparts, hw.atomic, hw.copy, Option.isSome_none, Bool.or_self, Bool.false_and, Bool.false_eq_true, if_false]
  simp only [List.flatMap_map, ownSegs, List.nil_append, Prod.mk.injEq]
  exact ⟨List.flatMap_eq_nil_iff.mpr fun _ _ => rfl, List.map_eq_flatMap.symm⟩

theorem checkLanes_own (hb : s.block? (blkOf w) = some y) {want : Want} (hw : OwnWant want) {lanes : List (Nat × Nat)} (whole : Bool)
    (h : ∀ l ∈ lanes, l.2 + want.size ≤ y.lsg) : s.checkLanes w want lanes whole = (none, ownLanes y.id want.size lanes) := by
  have hlanes : (lanes.map fun l => (l.1, s.checkLane w want l.2)) = lanes.map fun l => (l.1, ([], ownSegs y.id l.2 want.size)) :=
    List.map_congr_left fun l hl => by rw [checkLane_own hb hw (h l hl)]
  unfold State.checkLanes
  simp only [hlanes, List.map_map, List.filterMap_map]
  simp [Function.comp_def, firstFail, failTrap, ownLanes]

theorem fetched_own {segs : List Seg} {b : Nat} (h : AllOwn b segs) : s.fetched w false segs = segs := by
  have hserved : s.served w false segs = segs := by simp [State.served, List.flatMap_singleton']
  rw [State.fetched, hserved, List.filter_eq_self]
  intro g hg
  obtain ⟨o, -, hleaf⟩ := h g hg
  simp [Seg.streamed, hleaf]

theorem laneValue_own {segs : List Seg} {b : Nat} (h : AllOwn b segs) : s.laneValue w false segs = s.seeLane w segs := by
  unfold State.laneValue
  split
  · obtain ⟨o, -, hleaf⟩ := h _ (List.mem_singleton_self _)
    simp [hleaf]
  · rfl

/-- Nothing of the own held, a lane sees the bytes of the local store. -/
theorem seeLane_own (hb : s.block? y.id = some y) (hheld : s.heldOf w = []) (va n : Nat) :
    s.seeLane w (ownSegs y.id va n) = leNat ((List.range n).map fun i => y.ls.read (va + i)) := by
  have hseg (off len : Nat) : s.seeSeg w (ownSeg y.id va off len) = (List.range len).map fun i => y.ls.read (va + (off + i)) := by
    simp [State.seeSeg, hheld, State.seeBeside, ownSeg, State.seeByte, heldByte, Loc.add, State.peek, hb, Nat.add_assoc]
  unfold State.seeLane ownSegs
  rw [List.flatMap_map, ← flatMap_pageParts (fun i => y.ls.read (va + i)) va n]
  simp only [hseg]

theorem anyMmio_own {lanes : List (Nat × List Seg)} {b : Nat} (h : ∀ l ∈ lanes, AllOwn b l.2) : anyMmio lanes = false := by
  simp only [anyMmio, List.any_eq_false]
  intro l hl hany
  obtain ⟨g, hg, hm⟩ := List.any_eq_true.mp hany
  obtain ⟨o, hloc, -⟩ := h l hl g hg
  simp [hloc] at hm

theorem anyStream_own {lanes : List (Nat × List Seg)} {b : Nat} (h : ∀ l ∈ lanes, AllOwn b l.2) : anyStream lanes = false := by
  simp only [anyStream, List.any_eq_false]
  intro l hl hany
  obtain ⟨g, hg, hm⟩ := List.any_eq_true.mp hany
  obtain ⟨o, -, hleaf⟩ := h l hl g hg
  simp [Seg.streamed, hleaf] at hm

/-- A place of a block is at home on its own die. -/
theorem linkLost_own (hb : s.block? y.id = some y) {g : Seg} {o : Nat} (hloc : g.loc = .ls y.id o) (hleaf : g.leaf = none) :
    s.linkLost (dieOf y.core) g false = none := by
  have hhome : s.homeOfSeg g = .die (dieOf y.core) := by simp [State.homeOfSeg, State.homeOf, hleaf, hloc, hb]
  have hroute : s.dieRoute (dieOf y.core) (dieOf y.core) = some [] := by
    have hhops : s.hops (dieOf y.core) 0 (dieOf y.core) = some [] := by unfold State.hops; simp
    rw [State.dieRoute, List.range_succ_eq_map, List.findSome?_cons, hhops]
  simp [State.linkLost, hhome, State.homeLost, State.route, hroute]

/-- With nothing poisoned, every byte of the own local store can be had. -/
theorem reachTrap_own (hb : s.block? y.id = some y) (hcore : s.coreOf w = y.core) (hp : s.poison = [])
    (hlp : ∀ z ∈ s.blocks, z.lsPoison = []) {lanes : List (Nat × List Seg)} (h : ∀ l ∈ lanes, AllOwn y.id l.2) (whole : Bool)
    (hidden : Loc → Bool) : s.reachTrap w lanes true whole hidden = none := by
  have hlost : (lanes.findSome? fun l => l.2.findSome? fun g =>
      (s.linkLost (dieOf y.core) g false).map fun x => (g.laneVa, x)) = none := by
    rw [List.findSome?_eq_none_iff]
    intro l hl
    rw [List.findSome?_eq_none_iff]
    intro g hg
    obtain ⟨o, hloc, hleaf⟩ := h l hl g hg
    rw [linkLost_own hb hloc hleaf]; rfl
  have hclean : (s.blocks.all fun z => z.lsPoison.isEmpty) = true := List.all_eq_true.mpr fun z hz => by rw [hlp z hz]; rfl
  unfold State.reachTrap
  simp only [hcore, Bool.not_true, hlost, hp, List.isEmpty_nil, hclean, Bool.and_self, Bool.or_true, if_true]

end

/-! ## What a load leaves -/

/-- An epoch without its read marks. -/
def unmarked (e : Epoch) : Epoch := { e with marks := [] }

/-- A change of a caravan that only marks what it has read (R392). -/
def MarksReads (g : Caravan → Caravan) : Prop :=
  ∀ d, ∃ ep, g d = { d with epochs := ep } ∧ ep.map unmarked = d.epochs.map unmarked

theorem marksReads_id : MarksReads id := fun d => ⟨d.epochs, rfl, rfl⟩

theorem MarksReads.comp {g g' : Caravan → Caravan} (h' : MarksReads g') (h : MarksReads g) : MarksReads fun d => g' (g d) := fun d => by
  obtain ⟨ep, hd, hep⟩ := h d
  obtain ⟨ep', hd', hep'⟩ := h' (g d)
  refine ⟨ep', ?_, ?_⟩
  · show g' (g d) = _
    rw [hd', hd]
  · rw [hep', hd]; exact hep

theorem MarksReads.n {g : Caravan → Caravan} (h : MarksReads g) (d : Caravan) : (g d).n = d.n := by
  obtain ⟨ep, hd, -⟩ := h d
  rw [hd]

theorem map_unmarked_last (es : List Epoch) (f : Epoch → Epoch) (hf : ∀ e, unmarked (f e) = unmarked e) :
    (es.dropLast ++ (es.getLast?.map f).toList).map unmarked = es.map unmarked := by
  cases h : es.getLast? with
  | none => simp [List.getLast?_eq_none_iff.mp h]
  | some e =>
    conv_rhs => rw [← List.dropLast_append_getLast? e h]
    simp [hf]

theorem modCar_id (s : State) (b n : Nat) : s.modCar b n id = s := by
  have hblock : ∀ x : Block, x.modCar n id = x := fun x => by simp [Block.modCar]
  simp [State.modCar, State.modBlock, hblock]

theorem afterRead_own (s : State) (b n : Nat) (bypass : Bool) {g : Seg} {k o : Nat} (hloc : g.loc = .ls k o) (hleaf : g.leaf = none) :
    ∃ f, MarksReads f ∧ s.afterRead (.car b n) bypass g = s.modCar b n f := by
  refine ⟨_, fun d => ⟨_, rfl, map_unmarked_last d.epochs (fun e => { e with marks := addAll (wordsFrom g.loc g.len) e.marks })
    fun _ => rfl⟩, ?_⟩
  simp only [State.afterRead, marked, hloc, hleaf, if_true, State.cacheRead, State.request, State.keepLine, State.modEpoch]

theorem foldl_afterRead_own (s : State) (b n k : Nat) (bypass : Bool) {segs : List Seg} (h : AllOwn k segs) :
    ∃ f, MarksReads f ∧ segs.foldl (fun st g => st.afterRead (.car b n) bypass g) s = s.modCar b n f := by
  induction segs generalizing s with
  | nil => exact ⟨id, marksReads_id, (modCar_id s b n).symm⟩
  | cons g segs ih =>
    obtain ⟨o, hloc, hleaf⟩ := h g (List.mem_cons_self ..)
    obtain ⟨f, hf, hs⟩ := afterRead_own s b n bypass hloc hleaf
    obtain ⟨f', hf', hs'⟩ := ih (s.modCar b n f) fun x hx => h x (List.mem_cons_of_mem _ hx)
    refine ⟨_, hf'.comp hf, ?_⟩
    rw [List.foldl_cons, hs, hs', Laws.modCar_modCar s b n f f' hf.n]

theorem foldl_lanes_own (s : State) (b n k : Nat) (bypass : Bool) {lanes : List (Nat × List Seg)} (h : ∀ l ∈ lanes, AllOwn k l.2) :
    ∃ f, MarksReads f ∧ lanes.foldl (fun st l => (st.fetched (.car b n) false l.2).foldl
      (fun st g => st.afterRead (.car b n) bypass g) st) s = s.modCar b n f := by
  induction lanes generalizing s with
  | nil => exact ⟨id, marksReads_id, (modCar_id s b n).symm⟩
  | cons l lanes ih =>
    have hl := h l (List.mem_cons_self ..)
    obtain ⟨f, hf, hs⟩ := foldl_afterRead_own s b n k bypass hl
    obtain ⟨f', hf', hs'⟩ := ih (s.modCar b n f) fun x hx => h x (List.mem_cons_of_mem _ hx)
    refine ⟨_, hf'.comp hf, ?_⟩
    rw [List.foldl_cons, fetched_own hl, hs, hs', Laws.modCar_modCar s b n f f' hf.n]

/-- What a caravan becomes that holds and awaits nothing, by committing or by reading: its epochs, its rollback counters and ESC. -/
def StaysQuiet (c d : Caravan) : Prop := ∃ ep rb esc k, d = { c with epochs := ep, rbCur := rb, rbEsc := esc, cst := k } ∧
  k &&& ~~~8 = c.cst &&& ~~~8 ∧ ∀ e ∈ ep, e.pend = [] ∧ e.acts = []

theorem pend_acts_of_unmarked {es es' : List Epoch} (h : es'.map unmarked = es.map unmarked)
    (hes : ∀ e ∈ es, e.pend = [] ∧ e.acts = []) :
    ∀ e ∈ es', e.pend = [] ∧ e.acts = [] := fun e he => by
  have hmem : unmarked e ∈ es.map unmarked := h ▸ List.mem_map_of_mem he
  obtain ⟨e', he', heq⟩ := List.mem_map.mp hmem
  have hpend : (unmarked e').pend = (unmarked e).pend := by rw [heq]
  have hacts : (unmarked e').acts = (unmarked e).acts := by rw [heq]
  obtain ⟨hp, ha⟩ := hes e' he'
  exact ⟨hpend.symm.trans hp, hacts.symm.trans ha⟩

theorem StaysQuiet.marks {c d : Caravan} {f : Caravan → Caravan} (h : StaysQuiet c d) (hf : MarksReads f) : StaysQuiet c (f d) := by
  obtain ⟨ep, rb, esc, k, hd, hk, hep⟩ := h
  obtain ⟨ep', hfd, hep'⟩ := hf d
  refine ⟨ep', rb, esc, k, by rw [hfd, hd], hk, pend_acts_of_unmarked hep' ?_⟩
  rw [hd]; exact hep

/-- To settle such a caravan, or not, changes it alone. -/
theorem settleWho_quiet {s : State} {b n : Nat} {c : Caravan} (hc : s.car? b n = some c) (hp : ∀ e ∈ c.epochs, e.pend = [])
    (hq : Quiet c) (slow : Bool) : ∃ g : Caravan → Caravan, (if slow then s.settleWho (.car b n) else s) = s.modCar b n g ∧
      (∀ d, (g d).n = d.n) ∧ StaysQuiet c (g c) := by
  cases slow with
  | false =>
    exact ⟨id, (modCar_id s b n).symm, fun _ => rfl, c.epochs, c.rbCur, c.rbEsc, c.cst, rfl, rfl, fun e he => ⟨hp e he, hq e he⟩⟩
  | true =>
    obtain ⟨g, hs, hn, rb, esc, k, hg, hk⟩ := Laws.commitAll_quiet s b n c hc hp hq
    refine ⟨g, hs, hn, _, rb, esc, k, hg, hk, fun e he => ?_⟩
    obtain rfl := List.mem_singleton.mp he
    exact ⟨rfl, rfl⟩

theorem heldOf_quiet {s : State} {b n : Nat} {c : Caravan} (hc : s.car? b n = some c) (hlate : c.late = [])
    (hq : ∀ e ∈ c.epochs, e.acts = []) : s.heldOf (.car b n) = [] := by
  simp only [State.heldOf, hc, Caravan.held, hlate, List.nil_append, List.flatMap_eq_nil_iff]
  exact hq

/-- The values a load of n bytes from each lane of a local store gives. -/
def ownValues (ls : Memory) (n : Nat) (lanes : List (Nat × Nat)) : List (Nat × Nat) :=
  lanes.map fun l => (l.1, leNat ((List.range n).map fun i => ls.read (l.2 + i)))

/-- The registers after those values are loaded. -/
def ownLoaded (x : CRegs) (r : Nat) (mask : W32) (ls : Memory) (n : Nat) (lanes : List (Nat × Nat)) : CRegs :=
  x.wrV r mask (vtab (valueOf (ownValues ls n lanes)))

/-- Caravan n of block y holds and awaits nothing, has no access under way and is not escorted, and no byte is poisoned. -/
structure OwnReader (s : State) (y : Block) (n : Nat) (c : Caravan) : Prop where
  block : s.block? y.id = some y
  car : s.car? y.id n = some c
  settled : ∀ e ∈ c.epochs, e.pend = []
  quiet : Quiet c
  late : c.late = []
  io : c.io = none
  free : s.escorted (.car y.id n) = false
  clean : s.poison = []
  cleanStores : ∀ z ∈ s.blocks, z.lsPoison = []

/-- A load from the own local store below LSG by such a caravan: it passes every check and changes its caravan alone, whose
register takes the values. -/
theorem loadAt_own {s : State} {n : Nat} {y : Block} {c : Caravan} (h : OwnReader s y n c) {want : Want} (hw : OwnWant want)
    (hdec : want.decode = false) {lanes : List (Nat × Nat)} (hlanes : ∀ l ∈ lanes, l.2 + want.size ≤ y.lsg) (r : Nat) (mask : W32)
    (bypass : Bool) : ∃ (g : Caravan → Caravan) (slow : Bool) (d : Caravan),
      loadAt want lanes (.v r mask) bypass (.car y.id n) s = .ok (s.modCar y.id n g) none slow ∧
      (∀ z, (g z).n = z.n) ∧ StaysQuiet c d ∧ g c = { d with regs := ownLoaded c.regs r mask y.ls want.size lanes } := by
  obtain ⟨hb, hc, hp, hq, hlate, hio, hesc, hpoison, hlp⟩ := h
  have hbinds : s.afterBinds (.car y.id n) = s := by simp [State.afterBinds, heldOf_quiet hc hlate hq]
  have hown := allOwn_ownLanes (b := y.id) (n := want.size) (lanes := lanes)
  have hioOf : s.ioOf (.car y.id n) = none := by simp [State.ioOf, hc, hio]
  unfold loadAt
  simp only [hioOf, hbinds, checkLanes_own (w := .car y.id n) hb hw _ hlanes, anyMmio_own hown, anyStream_own hown, hesc, Bool.or_self,
    Bool.false_or, hdec, Bool.false_eq_true, if_false]
  generalize s.crowded _ _ = slow
  obtain ⟨g, hsettled, hgn, hquiet⟩ := settleWho_quiet hc hp hq slow
  rw [hsettled]
  obtain ⟨ep, rb, esc, k, hgc, hk, hep⟩ := id hquiet
  have hb' : (s.modCar y.id n g).block? y.id = some (y.modCar n g) :=
    (Laws.block?_modBlock s y.id (fun x => x.modCar n g) fun _ => rfl).trans (by rw [hb]; rfl)
  have hc' : (s.modCar y.id n g).car? y.id n = some (g c) := by rw [Laws.car?_state_modCar _ _ _ _ hgn, hc]; rfl
  have hheld : (s.modCar y.id n g).heldOf (.car y.id n) = [] :=
    heldOf_quiet hc' (by rw [hgc]; exact hlate) (by rw [hgc]; exact fun e he => (hep e he).2)
  have hlp' : ∀ z ∈ (s.modCar y.id n g).blocks, z.lsPoison = [] := List.forall_mem_map.mpr fun z hz => by
    split <;> exact hlp z hz
  have hfetched : (ownLanes y.id want.size lanes).map (fun l => (l.1, (s.modCar y.id n g).fetched (.car y.id n) false l.2)) =
      ownLanes y.id want.size lanes :=
    (List.map_congr_left fun l hl => by rw [fetched_own (hown l hl)]; rfl).trans (List.map_id _)
  have hvalues : (ownLanes y.id want.size lanes).map (fun l => (l.1, (s.modCar y.id n g).laneValue (.car y.id n) false l.2)) =
      ownValues y.ls want.size lanes := by
    rw [ownLanes, List.map_map]
    refine List.map_congr_left fun l _ => ?_
    have hsee := seeLane_own (y := y.modCar n g) hb' hheld l.2 want.size
    exact congrArg (Prod.mk l.1) ((laneValue_own (allOwn_ownSegs y.id l.2 want.size)).trans hsee)
  have hreach := reachTrap_own (w := .car y.id n) (y := y.modCar n g) hb' (by simp [State.coreOf, blkOf, hb']) hpoison hlp' hown
  obtain ⟨f, hf, hread⟩ := foldl_lanes_own (s.modCar y.id n g) y.id n y.id bypass hown
  rw [hfetched, hvalues, hreach, hread, Laws.modCar_modCar s y.id n g f hgn]
  have hfn : ∀ z, (f (g z)).n = z.n := fun z => (hf.n _).trans (hgn z)
  refine ⟨fun z => { f (g z) with regs := ownLoaded (f (g z)).regs r mask y.ls want.size lanes }, slow, f (g c),
    ?_, hfn, hquiet.marks hf, ?_⟩
  · exact congrArg (Res.ok · none slow) (Laws.modCar_modCar s y.id n (fun z => f (g z)) _ hfn)
  · obtain ⟨ep', hfc, -⟩ := hf (g c)
    have hregs : (f (g c)).regs = c.regs := by rw [hfc, hgc]
    simp only [hregs]

/-! ## The issue of a load -/

/-- The caravan of a block that becomes what it was but for its caravans. -/
theorem carIs_of_blockBecomes {s t : State} {x y : Block} {c : Caravan} {r : CRegs} (h : BlockBecomes s t x y c r)
    (hr : r.pc = c.regs.pc) : CarIs t x c (past r) := by
  obtain ⟨-, z, d, hz, hd, -, -, hregs, hhints, hstatus, hcst, hrest⟩ := h
  refine ⟨d, by simp [State.car?, hz, hd], ?_, hhints, hstatus, hcst, (congrArg Caravan.epc hrest :), (congrArg Caravan.ecst hrest :),
    (congrArg Caravan.emask hrest :), (congrArg Caravan.frec hrest :), (congrArg Caravan.vb hrest :), (congrArg Caravan.scope hrest :)⟩
  rw [hregs, past, hr]

theorem bytesKept_of_blockBecomes {s t : State} {x y : Block} {c : Caravan} {r : CRegs} (h : BlockBecomes s t x y c r)
    (hb : s.block? x.id = some x) (hls : y.ls = x.ls) : BytesKept s t := by
  obtain ⟨honly, z, d, hz, -, hzy, -⟩ := h
  have hzls : z.ls = y.ls := (congrArg Block.ls hzy :)
  exact Laws.bytesKept_of_block honly hb hz (hzls.trans hls)

section
variable {s : State} {x : Block} {c : Caravan} {p : Option (BitVec 25)} {neg : Bool}

theorem activeMask_turn (ht : Turn s x c (immGroup p ++ negpGroup neg)) (pr : Nat) :
    s.activeMask s.cur pr (immGroup p ++ negpGroup neg) = c.active pr neg := by
  have hc : s.car? x.id c.n = some c := by simp [State.car?, ht.block, ht.car]
  rw [ht.cur]
  simp only [State.activeMask, hc, Laws.immMod_negp]

theorem regAddrs_turn (ht : Turn s x c (immGroup p ++ negpGroup neg)) (f : FmtR) :
    s.regAddrs s.cur f.a.toNat f.b.toNat (c.active f.pr.toNat neg) = laneAddrs c f p neg false := by
  have hc : s.car? x.id c.n = some c := by simp [State.car?, ht.block, ht.car]
  have hv : ∀ t, s.vlane s.cur f.b.toNat t = lane c.regs f.b t := fun t => by
    rw [ht.cur]
    simp only [State.vlane, State.vreg, hc, lane]
  simp only [State.regAddrs, Laws.urd_car ht, hv, laneAddrs, laneAddr, Bool.false_eq_true, if_false]

theorem offAddrs_turn (ht : Turn s x c (immGroup p ++ negpGroup neg)) (f : FmtR) :
    s.offAddrs s.cur (immGroup p ++ negpGroup neg) f.a.toNat f.b.toNat (memBytes f) (c.active f.pr.toNat neg) =
      laneAddrs c f p neg true := by
  have hoff : ∀ t : Nat, BitVec.ofInt 64 ((offsetValue (immGroup p ++ negpGroup neg) f.b.toNat + t) * memBytes f) =
      (offV p f.b + BitVec.ofNat 64 t) * BitVec.ofNat 64 (2 ^ f.sz.toNat) := fun t => by
    rw [BitVec.ofInt_mul, BitVec.ofInt_add, Laws.offsetValue_eq]
    rfl
  simp only [State.offAddrs, State.offAddr, Laws.urd_car ht, hoff, laneAddrs, laneAddr, if_true]

/-- A load or store under a group it accepts, by registers below VB, passes the checks before its addresses. -/
theorem checkIssue_opM (ht : Turn s x c (immGroup p ++ negpGroup neg)) (word : W32) (f : FmtR) (imm : Bool) {dst src : List Reg}
    (himm : p.isSome = true → imm = true) (hneg : f.pr = 7 → neg = false)
    (hv : ∀ k, Reg.v k ∈ dst ++ src → k < c.vb) (hok : (dst ++ src).all (regOk false) = true) :
    checkIssue s s.cur (opM word f true imm dst src) = none := by
  have hpr : neg = true → (opM word f true imm dst src).pr ≠ 7 := fun hn h7 => by
    have h7' : f.pr = 7 := BitVec.eq_of_toNat_eq h7
    rw [hneg h7'] at hn
    cases hn
  have hlevel : (opM word f true imm dst src).levels.contains c.plv = true := by
    have hle := ht.level
    have h3 : c.plv = 0 ∨ c.plv = 1 ∨ c.plv = 2 := by omega
    obtain h | h | h := h3 <;> rw [h] <;> rfl
  have hhints := Laws.accepts_imm (opM word f true imm dst src) false p neg himm fun hn => ⟨rfl, hpr hn⟩
  exact Laws.checkIssue_car ht _ hhints rfl (Laws.namesOk_none s _ _ rfl rfl rfl) hok (.inl rfl) rfl (by split <;> rfl) hlevel hv

/-- The issue of a load of the own local store below LSG: the register takes the values. -/
theorem issue_loadAt_own (ht : Turn s x c (immGroup p ++ negpGroup neg)) (h : OwnReader s x c.n c) {o : Op}
    {eff : Who → List W32 → State → Res} (hper : o.perThread = true) (hdst : o.dst.length ≤ 1) (hag : o.again = false)
    (hchk : checkIssue s s.cur o = none) {want : Want} (hw : OwnWant want) (hdec : want.decode = false) {lanes : List (Nat × Nat)}
    (hlanes : ∀ l ∈ lanes, l.2 + want.size ≤ x.lsg) {r : Nat} {mask : W32} {bypass : Bool}
    (heff : eff s.cur (immGroup p ++ negpGroup neg) s = loadAt want lanes (.v r mask) bypass s.cur s) :
    ∃ t, issue o eff s = .next t ∧ BlockBecomes s t x x c (ownLoaded c.regs r mask x.ls want.size lanes) := by
  obtain ⟨g, slow, d, hload, hgn, ⟨ep, rb, esc, k, hd, hk, hep⟩, hg⟩ := loadAt_own h hw hdec hlanes r mask bypass
  subst hd
  refine Laws.issue_block ht o eff (fun y => y.modCar c.n g) x (g c) _ slow s.agenda (Laws.immMod_sched p neg) (Laws.immMod_seed p neg)
    hdst hchk hag ?_ (fun _ => rfl) rfl ?_ (fun m hm => Laws.car?_modCar_other x c.n m g hgn hm) ?_ ?_ ?_ ?_ ?_
  · rw [hper, Bool.true_or, if_pos rfl, heff, ht.cur, hload]; rfl
  · rw [Laws.car?_modCar x c.n g hgn, ht.car]; rfl
  · rw [hg]; exact fun e he => (hep e he).1
  · rw [hg]; exact fun e he => (hep e he).2
  · rw [hg]
  · rw [hg]; exact hk
  · rw [hg]

end

/-! ## The values -/

theorem find?_map_key {α : Type} (l : List Nat) (F : Nat → α) {t : Nat} (h : t ∈ l) :
    (l.map fun k => (k, F k)).find? (fun x => x.1 == t) = some (t, F t) := by
  obtain ⟨x, hx⟩ := Option.isSome_iff_exists.mp (List.find?_isSome (p := fun x : Nat × α => x.1 == t).mpr
    ⟨(t, F t), List.mem_map_of_mem (f := fun k => (k, F k)) h, beq_self_eq_true t⟩)
  obtain ⟨k, -, rfl⟩ := List.mem_map.mp (List.mem_of_find?_eq_some hx)
  obtain rfl : k = t := by simpa using List.find?_some hx
  exact hx

/-- Only the values of active threads are written. -/
theorem wrV_congr (x : CRegs) (r : Nat) (mask : W32) {f f' : Nat → Word} (h : ∀ t, bitAt mask t = true → t < 32 → f t = f' t) :
    x.wrV r mask (vtab f) = x.wrV r mask (vtab f') := by
  have hlanes : (fun t : Fin 32 => if bitAt mask t.val then (vtab f).get t else (vget x.v r).get t) =
      fun t : Fin 32 => if bitAt mask t.val then (vtab f').get t else (vget x.v r).get t := funext fun t => by
    split
    next hb => simp [vtab, h t.val hb t.isLt]
    next => rfl
  rw [CRegs.wrV, CRegs.wrV, hlanes]

theorem valueOf_ownValues (ls : Memory) (n : Nat) {mask : W32} (addr : Nat → Nat) {t : Nat} (hb : bitAt mask t = true) (h32 : t < 32) :
    valueOf (ownValues ls n ((lanesOf mask).map fun k => (k, addr k))) t =
      BitVec.ofNat 64 (leNat ((List.range n).map fun i => ls.read (addr t + i))) := by
  have hmem : t ∈ lanesOf mask := List.mem_filter.mpr ⟨List.mem_range.mpr h32, hb⟩
  rw [valueOf, ownValues, List.map_map]
  exact congrArg (fun o => BitVec.ofNat 64 ((o.map (·.2)).getD 0))
    (find?_map_key (lanesOf mask) (fun k => leNat ((List.range n).map fun i => ls.read (addr k + i))) hmem)

/-- Settles O7: the checks pass by `checkLanes_own` and `reachTrap_own`, and the values are those of `seeLane_own`. -/
theorem localLoadIsLittleEndian : Obligations.LocalLoadIsLittleEndian := by
  intro s x c p neg offset f ht hp ⟨hd, hb, hneg⟩ hq hpoison hlp hesc hio hlsg value
  have hlanes : ∀ l ∈ laneAddrs c f p neg offset, l.2 + 2 ^ f.sz.toNat ≤ x.lsg := List.forall_mem_map.mpr fun t ht => by
    obtain ⟨h32, hbit⟩ := List.mem_filter.mp ht
    exact hlsg t hbit (List.mem_range.mp h32)
  have hw : OwnWant { read := true, own := true, size := 2 ^ f.sz.toNat } := ⟨rfl, rfl, rfl, rfl⟩
  have hc : s.car? x.id c.n = some c := by simp [State.car?, ht.block, ht.car]
  have hreader : OwnReader s x c.n c := ⟨ht.block, hc, ht.settled, hq, ht.late, hio, ht.cur ▸ hesc, hpoison, hlp⟩
  have hregs : c.regs.wrV f.d.toNat (c.active f.pr.toNat neg) (vtab value) =
      ownLoaded c.regs f.d.toNat (c.active f.pr.toNat neg) x.ls (2 ^ f.sz.toNat) (laneAddrs c f p neg offset) :=
    wrV_congr _ _ _ fun t hbit h32 => (valueOf_ownValues x.ls _ (laneAddr c f p offset) hbit h32).symm
  have hissued : ∃ t, exec (if offset then .ldlOffset f else .ldl f) s = .next t ∧ BlockBecomes s t x x c
      (ownLoaded c.regs f.d.toNat (c.active f.pr.toNat neg) x.ls (2 ^ f.sz.toNat) (laneAddrs c f p neg offset)) := by
    cases offset with
    | false =>
      simp only [Bool.false_eq_true, if_false, Laws.exec_ldl, execLdl, loadReg]
      refine issue_loadAt_own (o := opM _ f true false [.v f.d.toNat] [.u f.a.toNat, .v f.b.toNat]) ht hreader rfl
        (Nat.le_refl 1) rfl ?_ hw rfl hlanes (bypass := hintCp (immGroup p ++ negpGroup neg) == 2) ?_
      · exact checkIssue_opM ht _ f false (fun h => absurd (hp h) Bool.false_ne_true) hneg (by simp [hd, hb rfl])
          (by simp [regOk]; omega)
      · simp only [activeMask_turn ht, regAddrs_turn ht, memBytes]
    | true =>
      simp only [if_true, Laws.exec_ldlOffset, execLdlOffset, loadOff]
      refine issue_loadAt_own (o := opM _ f true true [.v f.d.toNat] [.u f.a.toNat]) ht hreader rfl
        (Nat.le_refl 1) rfl ?_ hw rfl hlanes (bypass := hintCp (immGroup p ++ negpGroup neg) == 2) ?_
      · exact checkIssue_opM ht _ f true (fun _ => rfl) hneg (by simp [hd]) (by simp [regOk]; omega)
      · simp only [activeMask_turn ht, offAddrs_turn ht]; rfl
  obtain ⟨t, hstep, hbecomes⟩ := hissued
  rw [hregs]
  exact ⟨t, hstep, bytesKept_of_blockBecomes hbecomes ht.block rfl, carIs_of_blockBecomes hbecomes rfl⟩

end Sys2Proof
end

section
/-! SUPPORT. What a home and the caches do about words given up: a step that changes only caches' lines, directory records and the
epochs of caravans; where the words stand after it; and where a caravan stands that has read one of them. -/
namespace Sys2Proof
open Sys2Proof.Machine Sys2Proof.Claims

/-! ## Lists with each item once -/

theorem mem_addAll {α : Type} [DecidableEq α] {a : α} {xs l : List α} : a ∈ addAll xs l ↔ a ∈ xs ∨ a ∈ l := by
  unfold addAll
  induction xs generalizing l with
  | nil => simp
  | cons x xs ih => rw [List.foldl_cons, ih]; unfold insertNew; split <;> grind

theorem nodup_addAll {α : Type} [DecidableEq α] (xs : List α) {l : List α} (h : l.Nodup) : (addAll xs l).Nodup :=
  List.foldlRecOn xs _ h fun acc hacc a _ => by
    unfold insertNew
    split
    next => exact hacc
    next hnew => exact List.nodup_cons.mpr ⟨hnew, hacc⟩

/-- A fold that passes an item after which Q holds ends with Q, where P holds from the start and every item keeps both. -/
theorem foldl_passes {σ α : Type} {P Q : σ → Prop} {f : σ → α → σ} {l : List α} {a : α} (ha : a ∈ l)
    (hP : ∀ s y, P s → P (f s y)) (hQ : ∀ s y, Q s → Q (f s y)) (hPQ : ∀ s, P s → Q (f s a)) {s : σ} (h : P s) : Q (l.foldl f s) := by
  obtain ⟨before, after, rfl⟩ := List.append_of_mem ha
  rw [List.foldl_append, List.foldl_cons]
  have hbefore : P (before.foldl f s) := List.foldlRecOn before f h fun u hu y _ => hP u y hu
  exact List.foldlRecOn after f (hPQ _ hbefore) fun u hu y _ => hQ u y hu

/-! ## A step of coherence -/

/-- The operations that a block's caravans hold. -/
def heldOps (x : Block) : List Held := x.cars.flatMap Caravan.held

/-- Of a block, its caravans alone have changed, and they hold nothing new. -/
structure CarsOnly (x y : Block) : Prop where
  rest : { y with cars := x.cars } = x
  held : heldOps y ⊆ heldOps x

/-- What is done about words that caches give up: caravans change and hold nothing new, caches of cores lose lines and count rollbacks,
records of the directory change, and commits are queued. -/
structure CoherenceStep (s t : State) : Prop where
  rest : { t with blocks := s.blocks, cores := s.cores, dir := s.dir, agenda := s.agenda } = s
  blocks : ∃ f : Block → Block, t.blocks = s.blocks.map f ∧ ∀ x, CarsOnly x (f x)
  cores : ∃ g : CoreSt → CoreSt, t.cores = s.cores.map g ∧ ∀ k, (g k).id = k.id ∧ (g k).l1 ⊆ k.l1

theorem CarsOnly.refl (x : Block) : CarsOnly x x := ⟨rfl, List.Subset.refl _⟩

theorem CarsOnly.trans {x y z : Block} (h : CarsOnly x y) (h' : CarsOnly y z) : CarsOnly x z :=
  ⟨(congrArg (fun b : Block => { b with cars := x.cars }) h'.rest).trans h.rest, List.Subset.trans h'.held h.held⟩

theorem CarsOnly.id {x y : Block} (h : CarsOnly x y) : y.id = x.id := (congrArg Block.id h.rest :)
theorem CarsOnly.core {x y : Block} (h : CarsOnly x y) : y.core = x.core := (congrArg Block.core h.rest :)
theorem CarsOnly.ls {x y : Block} (h : CarsOnly x y) : y.ls = x.ls := (congrArg Block.ls h.rest :)
theorem CarsOnly.entries {x y : Block} (h : CarsOnly x y) : y.entries = x.entries := (congrArg Block.entries h.rest :)

/-- The lines of an L1 kept for speculative stores are those of operations its core's blocks hold. -/
theorem mem_storeLines {s : State} {core l : Nat} :
    l ∈ s.storeLines core ↔ ∃ x ∈ s.blocks, x.core = core ∧ ∃ op ∈ heldOps x, l ∈ op.lines := by
  have hfold : ∀ (ops : List Held) (acc : List Nat),
      l ∈ ops.foldl (fun acc h => addAll h.lines acc) acc ↔ (∃ op ∈ ops, l ∈ op.lines) ∨ l ∈ acc := fun ops => by
    induction ops with
    | nil => simp
    | cons op ops ih => intro acc; rw [List.foldl_cons, ih, mem_addAll, List.exists_mem_cons_iff, or_assoc, or_left_comm]
  rw [State.storeLines, hfold]
  simp only [List.mem_flatMap, List.mem_filter, beq_iff_eq, List.not_mem_nil, or_false, heldOps]
  grind

theorem nodup_storeLines (s : State) (core : Nat) : (s.storeLines core).Nodup :=
  List.foldlRecOn _ _ List.nodup_nil fun _ hacc h _ => nodup_addAll h.lines hacc

namespace CoherenceStep

theorem refl (s : State) : CoherenceStep s s :=
  ⟨rfl, ⟨id, (List.map_id _).symm, CarsOnly.refl⟩, ⟨id, (List.map_id _).symm, fun _ => ⟨rfl, List.Subset.refl _⟩⟩⟩

theorem trans {s t u : State} (h : CoherenceStep s t) (h' : CoherenceStep t u) : CoherenceStep s u := by
  obtain ⟨f, hf, hcars⟩ := h.blocks
  obtain ⟨f', hf', hcars'⟩ := h'.blocks
  obtain ⟨g, hg, hl1⟩ := h.cores
  obtain ⟨g', hg', hl1'⟩ := h'.cores
  refine ⟨(congrArg (fun z : State => { z with blocks := s.blocks, cores := s.cores, dir := s.dir, agenda := s.agenda }) h'.rest).trans
    h.rest, ⟨f' ∘ f, by rw [hf', hf, List.map_map], fun x => (hcars x).trans (hcars' (f x))⟩,
    ⟨g' ∘ g, by rw [hg', hg, List.map_map], fun k => ⟨(hl1' (g k)).1.trans (hl1 k).1, List.Subset.trans (hl1' (g k)).2 (hl1 k).2⟩⟩⟩

/-- Steps one after another. -/
theorem foldl {α : Type} {s : State} {f : State → α → State} {l : List α} (hf : ∀ u a, CoherenceStep u (f u a)) :
    CoherenceStep s (l.foldl f s) :=
  List.foldlRecOn l f (refl s) fun u hu a _ => hu.trans (hf u a)

section
variable {s t : State} (h : CoherenceStep s t)
include h

theorem block? {b : Nat} : ∃ f : Block → Block, t.block? b = (s.block? b).map f ∧ ∀ x, CarsOnly x (f x) := by
  obtain ⟨f, hf, hcars⟩ := h.blocks
  refine ⟨f, ?_, hcars⟩
  have hkey : (fun x : Block => x.id == b) ∘ f = fun x => x.id == b := funext fun x => by simp [(hcars x).id]
  rw [State.block?, hf, List.find?_map, hkey]; rfl

theorem bytesKept : BytesKept s t := by
  have hmem : t.mem = s.mem := (congrArg State.mem h.rest :)
  have hkeys : t.rekeyed = s.rekeyed := (congrArg State.rekeyed h.rest :)
  refine ⟨(congrArg State.far h.rest :), fun l => ?_⟩
  cases l with
  | glob pa => exact (memByte_eq t pa).trans (by rw [hmem, hkeys, ← memByte_eq]; rfl)
  | ls b o =>
    obtain ⟨f, hf, hcars⟩ := h.block? (b := b)
    have hls : (fun x : Block => x.ls) ∘ f = fun x => x.ls := funext fun x => (hcars x).ls
    rw [peek_ls, peek_ls, hf, Option.map_map, hls]

/-- No block enters or leaves a bundle. -/
theorem entered (handle : Nat) : t.entered handle = s.entered handle := by
  obtain ⟨f, hf, hcars⟩ := h.blocks
  have hsaved : t.saved = s.saved := (congrArg State.saved h.rest :)
  simp only [State.entered, hf, hsaved, List.any_map, Function.comp_def, fun x => (hcars x).entries]

theorem mayHold (cache line : Nat) : t.mayHold cache line = s.mayHold cache line := by
  have hbundles : t.bundles = s.bundles := (congrArg State.bundles h.rest :)
  simp only [State.mayHold, State.enteredDie, hbundles, h.entered]

/-- No line is kept for a speculative store that was not. -/
theorem storeLines_subset (core : Nat) : t.storeLines core ⊆ s.storeLines core := by
  obtain ⟨f, hf, hcars⟩ := h.blocks
  intro l hl
  rw [mem_storeLines, hf] at hl
  obtain ⟨y, hy, hcore, op, hop, hline⟩ := hl
  obtain ⟨x, hx, rfl⟩ := List.mem_map.mp hy
  exact mem_storeLines.mpr ⟨x, hx, (hcars x).core ▸ hcore, op, (hcars x).held hop, hline⟩

/-- An L1 that speculative stores leave a line to spare keeps it. -/
theorem not_crowded {core : Nat} {lines : List Nat} (hs : s.crowded core lines = false) : t.crowded core lines = false := by
  have hsub : addAll lines (t.storeLines core) ⊆ addAll lines (s.storeLines core) := fun l hl =>
    mem_addAll.mpr ((mem_addAll.mp hl).imp_right fun h' => h.storeLines_subset core h')
  have hle := ((nodup_addAll lines (nodup_storeLines t core)).subperm hsub).length_le
  simp only [State.crowded, decide_eq_false_iff_not] at hs ⊢
  omega

theorem l1_subset {core : Nat} {k : CoreSt} (hk : t.core? core = some k) : ∃ j, s.core? core = some j ∧ k.l1 ⊆ j.l1 := by
  obtain ⟨g, hg, hl1⟩ := h.cores
  have hkey : (fun x : CoreSt => x.id == core) ∘ g = fun x => x.id == core := funext fun x => by simp [(hl1 x).1]
  rw [State.core?, hg, List.find?_map, hkey] at hk
  obtain ⟨j, hj, rfl⟩ := Option.map_eq_some_iff.mp hk
  exact ⟨j, hj, (hl1 j).2⟩

end
end CoherenceStep

/-! ## The operations that are steps of coherence -/

theorem rollTo_n (c : Caravan) (k : Nat) (counted : Bool) : (c.rollTo k counted).n = c.n := by
  unfold Caravan.rollTo; split <;> rfl

theorem held_rollTo_subset (c : Caravan) (k : Nat) (counted : Bool) : (c.rollTo k counted).held ⊆ c.held := by
  unfold Caravan.rollTo
  split
  · exact List.Subset.refl _
  next e _ =>
    intro h
    simp only [Caravan.held, Epoch.start, List.flatMap_append, List.flatMap_map, List.flatMap_cons, List.flatMap_nil, List.append_nil,
      List.mem_append, List.mem_flatMap]
    exact Or.imp_right fun ⟨e, he, ha⟩ => ⟨e, List.mem_of_mem_take he, ha⟩

theorem held_newEpoch (c : Caravan) : c.newEpoch.held = c.held := by
  simp [Caravan.held, Caravan.newEpoch, Caravan.freshEpoch, Epoch.start, List.flatMap_map]

theorem carsOnly_modCar (x : Block) (n : Nat) {f : Caravan → Caravan} (hf : ∀ c, (f c).held ⊆ c.held) :
    CarsOnly x (x.modCar n f) := by
  refine ⟨rfl, fun op hop => ?_⟩
  obtain ⟨c, hc, hop⟩ := List.mem_flatMap.mp hop
  obtain ⟨d, hd, rfl⟩ := List.mem_map.mp hc
  refine List.mem_flatMap.mpr ⟨d, hd, ?_⟩
  split at hop
  · exact hf d hop
  · exact hop

theorem coherenceStep_modCar (s : State) (b n : Nat) {f : Caravan → Caravan} (hf : ∀ c, (f c).held ⊆ c.held) :
    CoherenceStep s (s.modCar b n f) := by
  refine ⟨rfl, ⟨_, rfl, fun x => ?_⟩, (CoherenceStep.refl s).cores⟩
  split
  · exact carsOnly_modCar x n hf
  · exact .refl x

theorem coherenceStep_modCore (s : State) (core : Nat) {f : CoreSt → CoreSt} (hf : ∀ k, (f k).id = k.id ∧ (f k).l1 ⊆ k.l1) :
    CoherenceStep s (s.modCore core f) := by
  refine ⟨rfl, (CoherenceStep.refl s).blocks, ⟨_, rfl, fun k => ?_⟩⟩
  split
  · exact hf k
  · exact ⟨rfl, List.Subset.refl _⟩

theorem coherenceStep_rollMarked (s : State) (b n core : Nat) (c : Caravan) (words : List Loc) :
    CoherenceStep s (s.rollMarked b n core c words) := by
  unfold State.rollMarked
  split
  · exact .refl s
  · exact (coherenceStep_modCar s b n fun c => held_rollTo_subset c _ true).trans
      (coherenceStep_modCore _ core fun _ => ⟨rfl, List.Subset.refl _⟩)

theorem coherenceStep_reachCache (s : State) (cache line : Nat) (m : Word) (but : Option Nat) :
    CoherenceStep s (s.reachCache cache line m but) :=
  .foldl fun _ _ => .foldl fun _ _ => coherenceStep_rollMarked ..

theorem coherenceStep_modLine (s : State) (line : Nat) (f : List Sharer → List Sharer) : CoherenceStep s (s.modLine line f) :=
  ⟨rfl, (CoherenceStep.refl s).blocks, (CoherenceStep.refl s).cores⟩

theorem coherenceStep_giveUp (s : State) (cache line : Nat) (m : Word) (but : Option Nat) : CoherenceStep s (s.giveUp cache line m but) :=
  (coherenceStep_modLine ..).trans (coherenceStep_reachCache ..)

theorem coherenceStep_dropL1 (s : State) (core line : Nat) :
    CoherenceStep s (s.modCore core fun c => { c with l1 := c.l1.filter fun y => y.1 != line }) :=
  coherenceStep_modCore s core fun _ => ⟨rfl, List.filter_subset_self ..⟩

theorem coherenceStep_evictLine (s : State) (core line : Nat) : CoherenceStep s (s.evictLine core line) :=
  (coherenceStep_dropL1 ..).trans (coherenceStep_giveUp ..)

theorem coherenceStep_closeHolders (s : State) (core line : Nat) : CoherenceStep s (s.closeHolders core line) := by
  refine .foldl fun _ x => .foldl fun u c => ?_
  split
  · have hmod := coherenceStep_modCar u x.id c.n (f := Caravan.newEpoch) fun c => held_newEpoch c ▸ List.Subset.refl _
    exact ⟨hmod.rest, hmod.blocks, hmod.cores⟩
  · exact .refl u

/-! ## The records of a line -/

/-- The records a change of a line leaves are those that still hold words. -/
theorem sharers_modLine (s : State) (line : Nat) (f : List Sharer → List Sharer) :
    (s.modLine line f).sharers line = (f (s.sharers line)).filter fun r => r.valid != 0 := by
  have hrest : ∀ l : List DirLine, (l.filter fun d => d.line != line).find? (fun d => d.line == line) = none := fun l =>
    List.find?_eq_none.mpr fun d hd => by simpa using (List.mem_filter.mp hd).2
  unfold State.modLine
  extract_lets old new rest
  change (match (if new.isEmpty then rest else rest ++ [⟨line, new⟩]).find? _ with | some d => d.sharers | none => []) = new
  split_ifs with hnew
  · rw [hrest, List.isEmpty_iff.mp hnew]
  · rw [List.find?_append, hrest]; simp

theorem sharers_modLine_other (s : State) {l line : Nat} (hl : l ≠ line) (f : List Sharer → List Sharer) :
    (s.modLine l f).sharers line = s.sharers line := by
  have hrest : (s.dir.filter fun d => d.line != l).find? (fun d => d.line == line) = s.dir.find? fun d => d.line == line := by
    rw [List.find?_filter]
    congr 1
    funext d
    by_cases hd : d.line = line
    · simp [hd, hl.symm]
    · simp [hd]
  unfold State.modLine State.sharers
  extract_lets old new rest
  dsimp only
  split_ifs
  · rw [hrest]
  · rw [List.find?_append, hrest]; simp [hl]

theorem dir_reachCache (s : State) (cache line : Nat) (m : Word) (but : Option Nat) : (s.reachCache cache line m but).dir = s.dir := by
  refine List.foldlRecOn (motive := fun u : State => u.dir = s.dir) _ _ rfl fun u hu x _ =>
    List.foldlRecOn (motive := fun u : State => u.dir = s.dir) _ _ hu fun v hv c _ => ?_
  unfold State.rollMarked
  split
  · exact hv
  · exact hv

theorem sharers_giveUp (s : State) (cache line l : Nat) (m : Word) (but : Option Nat) : (s.giveUp cache line m but).sharers l =
    (s.modLine line fun rs => rs.map fun r => if r.cache == cache then r.without m else r).sharers l := by
  simp only [State.sharers, State.giveUp, dir_reachCache]

/-- A record of a line that a cache has given up words of. -/
theorem mem_sharers_giveUp {s : State} {cache line : Nat} {m : Word} {but : Option Nat} {r : Sharer}
    (h : r ∈ (s.giveUp cache line m but).sharers line) :
    (∃ r' ∈ s.sharers line, r'.cache = cache ∧ r = r'.without m) ∨ r ∈ s.sharers line ∧ r.cache ≠ cache := by
  rw [sharers_giveUp, sharers_modLine] at h
  obtain ⟨r', hr', rfl⟩ := List.mem_map.mp (List.mem_of_mem_filter h)
  by_cases hcache : r'.cache = cache
  · exact .inl ⟨r', hr', hcache, by simp [hcache]⟩
  · exact .inr (by simpa [hcache] using hr')

theorem and_compl_and_self (v m : Word) : v &&& ~~~m &&& m = 0 := by
  rw [BitVec.and_assoc, BitVec.and_comm (~~~m), BitVec.and_not_self]; exact BitVec.and_zero

theorem and_and_of_and_eq_zero {v m : Word} (h : v &&& m = 0) (w : Word) : v &&& w &&& m = 0 := by
  rw [BitVec.and_assoc, BitVec.and_comm w, ← BitVec.and_assoc, h]; exact BitVec.zero_and

/-- A cache that gives up words has none of them. -/
theorem sharers_giveUp_self {s : State} {cache line : Nat} {m : Word} {but : Option Nat} {r : Sharer}
    (h : r ∈ (s.giveUp cache line m but).sharers line) (hr : r.cache = cache) : r.valid &&& m = 0 ∧ r.owned &&& m = 0 := by
  obtain ⟨r', -, -, rfl⟩ | ⟨-, hne⟩ := mem_sharers_giveUp h
  · exact ⟨and_compl_and_self .., and_compl_and_self ..⟩
  · exact absurd hr hne

/-! ## Words taken and granted at a home -/

/-- A span inside a line has a word. -/
theorem spanMask_ne_zero {first last : Nat} (hle : first ≤ last) (hlast : last < 64) : spanMask first last ≠ 0 := by
  have hbit : ∀ n, ((List.range (n + 1)).foldl (fun (acc : Word) i => acc ||| BitVec.ofNat 64 (2 ^ (first + i))) 0).getLsbD first =
      true := by
    intro n
    induction n with
    | zero =>
      have hfirst : first < 64 := by omega
      simp [List.range_succ, -BitVec.ofNat_pow, BitVec.getLsbD_ofNat, hfirst, Nat.testBit_two_pow_self]
    | succ n ih => rw [List.range_succ, List.foldl_append, List.foldl_cons, List.foldl_nil, BitVec.getLsbD_or, ih, Bool.true_or]
  have hlen : min 64 (last + 1) - first = last - first + 1 := by omega
  intro h
  rw [spanMask, hlen] at h
  have hset := hbit (last - first)
  rw [h] at hset
  simp at hset

/-- The record of a cache that comes to hold words more. -/
def grown (m : Word) (own : Bool) (r : Sharer) : Sharer :=
  { r with valid := r.valid ||| m, owned := if own then r.owned ||| m else r.owned }

/-- Room made for a new record of a line: lines evicted from the cache, where it is an L1, and the first of 16 records recalled. -/
def madeRoom (s : State) (cache line by_ : Nat) : State :=
  let u := if cache < 512 then (s.l1Victims cache [line]).foldl (fun st l => st.evictLine cache l) s else s
  match (s.sharers line).head? with
  | some r => if 16 ≤ (s.sharers line).length then u.giveUp r.cache line (BitVec.allOnes 64) (some by_) else u
  | none => u

/-- A cache's record grows, or it is given one once there is room; an L1 that speculative stores fill is given none. -/
theorem recordWords_cases (s : State) (cache line : Nat) (m : Word) (own : Bool) (by_ : Nat) :
    ((∃ r ∈ s.sharers line, r.cache = cache) ∧
      s.recordWords cache line m own by_ = s.modLine line fun rs => rs.map fun r => if r.cache == cache then grown m own r else r) ∨
    (s.crowded cache [line] = true ∧ s.recordWords cache line m own by_ = s) ∨
    s.recordWords cache line m own by_ =
      (madeRoom s cache line by_).modLine line fun rs => rs ++ [⟨cache, m, if own then m else 0⟩] := by
  by_cases hrecorded : ((s.sharers line).any fun r => r.cache == cache) = true
  · refine .inl ⟨by simpa using hrecorded, if_pos hrecorded⟩
  · by_cases hfull : (decide (cache < 512) && s.crowded cache [line]) = true
    · exact .inr (.inl ⟨(Bool.and_eq_true_iff.mp hfull).2, (if_neg hrecorded).trans (if_pos hfull)⟩)
    · exact .inr (.inr ((if_neg hrecorded).trans (if_neg hfull)))

section
variable {Q : Sharer → Prop} (hQ : ∀ r m, Q r → Q (r.without m))
include hQ

/-- What giving words up keeps of a record holds of every record after a cache gives some up. -/
theorem sharers_giveUp_keep {s : State} {line : Nat} (h : ∀ r ∈ s.sharers line, Q r) (cache l : Nat) (m : Word) (but : Option Nat) :
    ∀ r ∈ (s.giveUp cache l m but).sharers line, Q r := by
  intro r hr
  by_cases hl : l = line
  · subst hl
    obtain ⟨r', hr', -, rfl⟩ | ⟨hr, -⟩ := mem_sharers_giveUp hr
    · exact hQ r' m (h r' hr')
    · exact h r hr
  · rw [sharers_giveUp, sharers_modLine_other s hl] at hr
    exact h r hr

theorem sharers_madeRoom {s : State} {line : Nat} (h : ∀ r ∈ s.sharers line, Q r) (cache by_ : Nat) :
    ∀ r ∈ (madeRoom s cache line by_).sharers line, Q r := by
  unfold madeRoom
  extract_lets u
  have hu : ∀ r ∈ u.sharers line, Q r := by
    unfold u
    split
    · exact List.foldlRecOn (motive := fun v : State => ∀ r ∈ v.sharers line, Q r) _ _ h fun v hv l _ =>
        sharers_giveUp_keep hQ (s := v.modCore cache fun c => { c with l1 := c.l1.filter fun y => y.1 != l }) hv cache l _ none
    · exact h
  split
  · split
    · exact sharers_giveUp_keep hQ hu _ _ _ _
    · exact hu
  · exact hu

/-- So too after a cache is recorded, where it holds of that cache's record. -/
theorem sharers_recordWords {s : State} {line : Nat} (h : ∀ r ∈ s.sharers line, Q r) {cache : Nat} {m : Word} {own : Bool} (by_ : Nat)
    (hgrown : ∀ r, r.cache = cache → Q r → Q (grown m own r)) (hnew : Q ⟨cache, m, if own then m else 0⟩) :
    ∀ r ∈ (s.recordWords cache line m own by_).sharers line, Q r := by
  intro r hr
  obtain ⟨-, heq⟩ | ⟨-, heq⟩ | heq := recordWords_cases s cache line m own by_
  · rw [heq, sharers_modLine] at hr
    obtain ⟨r', hr', rfl⟩ := List.mem_map.mp (List.mem_of_mem_filter hr)
    split
    next hcache => exact hgrown r' (by simpa using hcache) (h r' hr')
    next => exact h r' hr'
  · exact h r (heq ▸ hr)
  · rw [heq, sharers_modLine] at hr
    obtain hr | hr := List.mem_append.mp (List.mem_of_mem_filter hr)
    · exact sharers_madeRoom hQ h cache by_ r hr
    · exact List.mem_singleton.mp hr ▸ hnew

end

theorem coherenceStep_madeRoom (s : State) (cache line by_ : Nat) : CoherenceStep s (madeRoom s cache line by_) := by
  unfold madeRoom
  extract_lets u
  have hu : CoherenceStep s u := by
    unfold u
    split
    · exact .foldl fun v l => coherenceStep_evictLine v cache l
    · exact .refl s
  split
  · split
    · exact hu.trans (coherenceStep_giveUp ..)
    · exact hu
  · exact hu

theorem coherenceStep_recordWords (s : State) (cache line : Nat) (m : Word) (own : Bool) (by_ : Nat) :
    CoherenceStep s (s.recordWords cache line m own by_) := by
  obtain ⟨-, heq⟩ | ⟨-, heq⟩ | heq := recordWords_cases s cache line m own by_
  · exact heq ▸ coherenceStep_modLine ..
  · exact heq.symm ▸ .refl s
  · exact heq ▸ (coherenceStep_madeRoom ..).trans (coherenceStep_modLine ..)

/-- A cache recorded has its words, where speculative stores leave it a line. -/
theorem recordWords_grants {s : State} {cache line : Nat} {m : Word} {own : Bool} (by_ : Nat) (hm : m ≠ 0)
    (hroom : s.crowded cache [line] = false) : ∃ r ∈ (s.recordWords cache line m own by_).sharers line,
      r.cache = cache ∧ r.valid &&& m = m ∧ (own = true → r.owned &&& m = m) := by
  have hself : ∀ v : Word, (v ||| m) &&& m = m := fun v => by
    ext i hi
    simp only [BitVec.getElem_and, BitVec.getElem_or]
    cases v[i] <;> simp
  obtain ⟨⟨r, hr, hcache⟩, heq⟩ | ⟨hfull, -⟩ | heq := recordWords_cases s cache line m own by_
  · have hkept : (grown m own r).valid ≠ 0 := fun h0 => hm (by
      rw [← hself r.valid, show r.valid ||| m = 0 from h0]; exact BitVec.zero_and)
    refine ⟨grown m own r, ?_, hcache, hself _, fun hown => by simp only [grown, hown, if_true, hself]⟩
    rw [heq, sharers_modLine]
    exact List.mem_filter.mpr ⟨List.mem_map.mpr ⟨r, hr, by simp [hcache]⟩, by simpa using hkept⟩
  · exact absurd (hroom.symm.trans hfull) Bool.false_ne_true
  · refine ⟨⟨cache, m, if own then m else 0⟩, ?_, rfl, BitVec.and_self, fun hown => by simp [hown]⟩
    rw [heq, sharers_modLine]
    exact List.mem_filter.mpr ⟨List.mem_append_right _ (List.mem_singleton.mpr rfl), by simpa using hm⟩

/-- A cache other than the requester's gives up the words that its record shows. -/
def takeFrom (cache line : Nat) (m : Word) (st : State) (r : Sharer) : State :=
  if r.cache != cache && r.valid &&& m != 0 then st.giveUp r.cache line m (some cache) else st

/-- The first half of a request at its home: the words, or for a read their ownership, taken from the other caches. -/
def collected (s : State) (cache line : Nat) (m : Word) (own : Bool) : State :=
  if own then (s.sharers line).foldl (takeFrom cache line m) s
  else s.modLine line fun rs => rs.map fun r => if r.cache != cache then { r with owned := r.owned &&& ~~~m } else r

/-- The second half: the L2 that a read goes through is recorded. -/
def throughL2 (s : State) (cache line : Nat) (m : Word) (own : Bool) : State :=
  if own then s else match sharingL2 cache line with | some k => s.recordWords k line m false cache | none => s

theorem homePerform_eq (s : State) (cache line first last : Nat) (own : Bool) : s.homePerform cache line first last own =
    if (collected s cache line (spanMask first last) own).mayHold cache line then
      (throughL2 (collected s cache line (spanMask first last) own) cache line (spanMask first last) own).recordWords
        cache line (spanMask first last) own cache
    else collected s cache line (spanMask first last) own := by
  change (if !(collected s cache line (spanMask first last) own).mayHold cache line then _ else _) = _
  cases (collected s cache line (spanMask first last) own).mayHold cache line <;> rfl

theorem coherenceStep_collected (s : State) (cache line : Nat) (m : Word) (own : Bool) :
    CoherenceStep s (collected s cache line m own) := by
  unfold collected
  split
  · refine .foldl fun u r => ?_
    unfold takeFrom
    split
    · exact coherenceStep_giveUp ..
    · exact .refl u
  · exact coherenceStep_modLine ..

theorem coherenceStep_throughL2 (s : State) (cache line : Nat) (m : Word) (own : Bool) :
    CoherenceStep s (throughL2 s cache line m own) := by
  unfold throughL2
  split
  · exact .refl s
  · split
    · exact coherenceStep_recordWords ..
    · exact .refl s

theorem coherenceStep_homePerform (s : State) (cache line first last : Nat) (own : Bool) :
    CoherenceStep s (s.homePerform cache line first last own) := by
  rw [homePerform_eq]
  have hcollected := coherenceStep_collected s cache line (spanMask first last) own
  split
  · exact (hcollected.trans (coherenceStep_throughL2 ..)).trans (coherenceStep_recordWords ..)
  · exact hcollected

/-- A record of another cache than the requester's has none of the words, or for a read does not own them. -/
def Taken (cache : Nat) (m : Word) (own : Bool) (r : Sharer) : Prop := r.cache ≠ cache → (if own then r.valid else r.owned) &&& m = 0

theorem Taken.without {cache : Nat} {m : Word} {own : Bool} (r : Sharer) (w : Word) (h : Taken cache m own r) :
    Taken cache m own (r.without w) := by
  intro hne
  cases own
  · exact and_and_of_and_eq_zero (h hne) _
  · exact and_and_of_and_eq_zero (h hne) _

/-- Once every cache listed has given the words up, none but the requester has any, where every cache that had some is listed. -/
theorem taken_foldl_takeFrom {cache line : Nat} {m : Word} (l : List Sharer) (s : State)
    (h : ∀ r ∈ s.sharers line, r.cache ≠ cache → r.valid &&& m ≠ 0 → ∃ a ∈ l, a.cache = r.cache ∧ a.valid &&& m ≠ 0) :
    ∀ r ∈ (l.foldl (takeFrom cache line m) s).sharers line, Taken cache m true r := by
  induction l generalizing s with
  | nil =>
    intro r hr hne
    by_contra hv
    obtain ⟨a, ha, -⟩ := h r hr hne hv
    exact absurd ha List.not_mem_nil
  | cons a l ih =>
    refine ih _ fun r hr hne hv => ?_
    unfold takeFrom at hr
    split at hr
    next hgives =>
      obtain ⟨r', -, -, rfl⟩ | ⟨hr, hother⟩ := mem_sharers_giveUp hr
      · exact absurd (and_compl_and_self ..) hv
      · obtain ⟨b, hb, hcache, hbv⟩ := h r hr hne hv
        obtain rfl | hb := List.mem_cons.mp hb
        · exact absurd hcache.symm hother
        · exact ⟨b, hb, hcache, hbv⟩
    next hkeeps =>
      obtain ⟨b, hb, hcache, hbv⟩ := h r hr hne hv
      obtain rfl | hb := List.mem_cons.mp hb
      · exact absurd (by simpa [hcache, hne] using hbv) hkeeps
      · exact ⟨b, hb, hcache, hbv⟩

theorem taken_collected (s : State) (cache line : Nat) (m : Word) (own : Bool) :
    ∀ r ∈ (collected s cache line m own).sharers line, Taken cache m own r := by
  cases own with
  | true => exact taken_foldl_takeFrom _ s fun r hr _ hv => ⟨r, hr, rfl, hv⟩
  | false =>
    intro r hr hne
    rw [collected, if_neg Bool.false_ne_true, sharers_modLine] at hr
    obtain ⟨r', -, rfl⟩ := List.mem_map.mp (List.mem_of_mem_filter hr)
    split at hne
    next hother => simp only [hother, if_true]; exact and_compl_and_self ..
    next hself => exact absurd (by simpa using hne) hself

/-- The L2 recorded for a read owns nothing. -/
theorem taken_throughL2 {s : State} {cache line : Nat} {m : Word} {own : Bool} (h : ∀ r ∈ s.sharers line, Taken cache m own r) :
    ∀ r ∈ (throughL2 s cache line m own).sharers line, Taken cache m own r := by
  unfold throughL2
  split
  · exact h
  next hread =>
    obtain rfl : own = false := by simpa using hread
    split
    · exact sharers_recordWords Taken.without h cache (fun r _ hr => hr) fun _ => by simp
    · exact h

theorem taken_homePerform (s : State) (cache line first last : Nat) (own : Bool) :
    ∀ r ∈ (s.homePerform cache line first last own).sharers line, Taken cache (spanMask first last) own r := by
  rw [homePerform_eq]
  have hcollected := taken_collected s cache line (spanMask first last) own
  split
  · exact sharers_recordWords Taken.without (taken_throughL2 hcollected) cache (fun r hr _ hne => absurd hr hne) fun hne => absurd rfl hne
  · exact hcollected

/-- The requester is granted the words it may hold, where its L1 has a line to spare. -/
theorem homePerform_grants {s : State} {cache line first last : Nat} {own : Bool} (hle : first ≤ last) (hlast : last < 64)
    (hmay : s.mayHold cache line = true) (hroom : s.crowded cache [line] = false) :
    ∃ r ∈ (s.homePerform cache line first last own).sharers line,
      r.cache = cache ∧ r.valid &&& spanMask first last = spanMask first last ∧
      (own = true → r.owned &&& spanMask first last = spanMask first last) := by
  have hcollected := coherenceStep_collected s cache line (spanMask first last) own
  rw [homePerform_eq, if_pos ((hcollected.mayHold cache line).trans hmay)]
  exact recordWords_grants cache (spanMask_ne_zero hle hlast) ((hcollected.trans (coherenceStep_throughL2 ..)).not_crowded hroom)

/-! ## Readers that roll back -/

/-- A caravan whose oldest checkpoint has registers `snap`, `late` being what waits of committed epochs. -/
def StandsOn (late : List Held) (snap : CRegs) (c : Caravan) : Prop := c.late = late ∧ ∃ e es, c.epochs = e :: es ∧ e.snap = snap

/-- A caravan at its oldest checkpoint, with nothing done since. -/
def StandsAt (late : List Held) (snap : CRegs) (c : Caravan) : Prop :=
  c.late = late ∧ c.regs = snap ∧ c.status = .running ∧ c.hints = [] ∧ ∃ e, c.epochs = [e] ∧ e.snap = snap ∧ e.acts = []

/-- A caravan with a mark in its oldest epoch on one of some words. -/
def ReadFirst (words : List Loc) (c : Caravan) : Prop := ∃ e es, c.epochs = e :: es ∧ (e.marks.any fun l => words.contains l) = true

section
variable {late : List Held} {snap : CRegs} {c : Caravan}

theorem StandsAt.standsOn (h : StandsAt late snap c) : StandsOn late snap c := by
  obtain ⟨hlate, -, -, -, e, he, hsnap, -⟩ := h
  exact ⟨hlate, e, [], he, hsnap⟩

theorem StandsAt.held (h : StandsAt late snap c) : c.held = late := by
  obtain ⟨hlate, -, -, -, e, he, -, hacts⟩ := h
  simp [Caravan.held, hlate, he, hacts]

/-- The oldest checkpoint is where a caravan goes back to from its first epoch. -/
theorem StandsOn.rollTo_zero (h : StandsOn late snap c) (counted : Bool) : StandsAt late snap (c.rollTo 0 counted) := by
  obtain ⟨hlate, e, es, he, hsnap⟩ := h
  simp [StandsAt, Caravan.rollTo, he, hlate, hsnap, Epoch.start]

theorem StandsOn.rollTo (h : StandsOn late snap c) (k : Nat) (counted : Bool) : StandsOn late snap (c.rollTo k counted) := by
  cases k with
  | zero => exact (h.rollTo_zero counted).standsOn
  | succ k =>
    obtain ⟨hlate, e, es, he, hsnap⟩ := h
    unfold Caravan.rollTo
    split
    · exact ⟨hlate, e, es, he, hsnap⟩
    · exact ⟨hlate, { e with target := false }, _, by simp only [he, List.take_succ_cons, List.map_cons, List.cons_append]; rfl, hsnap⟩

theorem StandsAt.rollTo (h : StandsAt late snap c) (k : Nat) (counted : Bool) : StandsAt late snap (c.rollTo k counted) := by
  cases k with
  | zero => exact h.standsOn.rollTo_zero counted
  | succ k =>
    have hsame : c.rollTo (k + 1) counted = c := by
      obtain ⟨-, -, -, -, e, he, -⟩ := h
      simp [Caravan.rollTo, he]
    rwa [hsame]

theorem StandsOn.newEpoch (h : StandsOn late snap c) : StandsOn late snap c.newEpoch := by
  obtain ⟨hlate, e, es, he, hsnap⟩ := h
  exact ⟨hlate, { e with closed := true }, _, by rw [Caravan.newEpoch, he]; rfl, hsnap⟩

theorem ReadFirst.newEpoch {words : List Loc} (h : ReadFirst words c) : ReadFirst words c.newEpoch := by
  obtain ⟨e, es, he, hmark⟩ := h
  exact ⟨{ e with closed := true }, _, by rw [Caravan.newEpoch, he]; rfl, hmark⟩

end

/-- A caravan of the state is as P says. -/
def CarHas (s : State) (b n : Nat) (P : Caravan → Prop) : Prop := ∃ c, s.car? b n = some c ∧ P c

theorem car?_state_modCar_other (s : State) {b n b' n' : Nat} {f : Caravan → Caravan} (hn : ∀ c, (f c).n = c.n)
    (h : ¬(b = b' ∧ n = n')) : (s.modCar b' n' f).car? b n = s.car? b n := by
  unfold State.car? State.modCar
  by_cases hb : b = b'
  · subst hb
    rw [Laws.block?_modBlock s b (fun x => x.modCar n' f) fun _ => rfl]
    cases s.block? b with
    | none => rfl
    | some x => exact Laws.car?_modCar_other x n' n f hn fun hn' => h ⟨rfl, hn'⟩
  · rw [Laws.block?_modBlock_other s b' b (fun x => x.modCar n' f) (fun _ => rfl) hb]

/-- What every caravan keeps through a change, one of the state keeps when any is changed. -/
theorem CarHas.modCar {s : State} {b n : Nat} {P : Caravan → Prop} (h : CarHas s b n P) (b' n' : Nat) {f : Caravan → Caravan}
    (hn : ∀ c, (f c).n = c.n) (hf : ∀ c, P c → P (f c)) : CarHas (s.modCar b' n' f) b n P := by
  obtain ⟨c, hc, hP⟩ := h
  by_cases hself : b = b' ∧ n = n'
  · obtain ⟨rfl, rfl⟩ := hself
    exact ⟨f c, by rw [Laws.car?_state_modCar s b n f hn, hc]; rfl, hf c hP⟩
  · exact ⟨c, (car?_state_modCar_other s hn hself).trans hc, hP⟩

theorem CarHas.rollMarked {s : State} {b n : Nat} {P : Caravan → Prop} (hP : ∀ c k, P c → P (c.rollTo k true)) (h : CarHas s b n P)
    (b' n' core : Nat) (c : Caravan) (words : List Loc) : CarHas (s.rollMarked b' n' core c words) b n P := by
  unfold State.rollMarked
  split
  · exact h
  · exact h.modCar b' n' (fun c => rollTo_n c _ true) fun c hc => hP c _ hc

/-- A caravan that read one of the words goes back to its oldest checkpoint. -/
theorem rollMarked_standsAt {s : State} {b n core : Nat} {c : Caravan} {words : List Loc} {late : List Held} {snap : CRegs}
    (hread : ReadFirst words c) (h : CarHas s b n (StandsOn late snap)) :
    CarHas (s.rollMarked b n core c words) b n (StandsAt late snap) := by
  obtain ⟨e, es, he, hmark⟩ := hread
  have hfirst : c.epochs.findIdx? (fun e => e.marks.any fun m => words.contains m) = some 0 := by
    rw [he, List.findIdx?_cons, if_pos hmark]
  obtain ⟨d, hd, hstands⟩ := h
  rw [State.rollMarked, hfirst]
  exact ⟨d.rollTo 0 true, (Laws.car?_state_modCar s b n _ fun c => rollTo_n c 0 true).trans (by rw [hd]; rfl), hstands.rollTo_zero true⟩

/-- Words given up by a cache: a caravan of a core it serves that read one of them goes back to its oldest checkpoint. -/
theorem giveUp_standsAt {s : State} {cache line : Nat} {m : Word} {x : Block} {c : Caravan} {snap : CRegs} {b n : Nat}
    (hx : s.block? b = some x) (hc : x.car? n = some c) (hserves : servesCore cache x.core = true)
    (hstands : StandsOn c.late snap c) (hread : ReadFirst (maskWords line m) c) :
    CarHas (s.giveUp cache line m) b n (StandsAt c.late snap) := by
  obtain rfl : x.id = b := by simpa using List.find?_some hx
  obtain rfl : c.n = n := by simpa using List.find?_some hc
  have hmem : x ∈ s.blocks.filter fun y => servesCore cache y.core && (y.core == cache || some y.core != none) :=
    List.mem_filter.mpr ⟨List.mem_of_find?_eq_some hx, by simp [hserves]⟩
  have hstart : CarHas s x.id c.n (StandsOn c.late snap) := ⟨c, by rw [State.car?, hx]; exact hc, hstands⟩
  have hkeepOn : ∀ (u : State) (y : Block) (d : Caravan), CarHas u x.id c.n (StandsOn c.late snap) →
      CarHas (u.rollMarked y.id d.n y.core d (maskWords line m)) x.id c.n (StandsOn c.late snap) :=
    fun u y d hu => hu.rollMarked (fun c k hc => hc.rollTo k true) ..
  have hkeepAt : ∀ (u : State) (y : Block) (d : Caravan), CarHas u x.id c.n (StandsAt c.late snap) →
      CarHas (u.rollMarked y.id d.n y.core d (maskWords line m)) x.id c.n (StandsAt c.late snap) :=
    fun u y d hu => hu.rollMarked (fun c k hc => hc.rollTo k true) ..
  refine foldl_passes (P := fun u => CarHas u x.id c.n (StandsOn c.late snap))
    (Q := fun u => CarHas u x.id c.n (StandsAt c.late snap)) hmem (fun u y hu => ?_) (fun u y hu => ?_) (fun u hu => ?_)
    hstart
  · exact List.foldlRecOn (motive := fun v => CarHas v x.id c.n (StandsOn c.late snap)) _ _ hu fun v hv d _ => hkeepOn v y d hv
  · exact List.foldlRecOn (motive := fun v => CarHas v x.id c.n (StandsAt c.late snap)) _ _ hu fun v hv d _ => hkeepAt v y d hv
  · exact foldl_passes (P := fun v => CarHas v x.id c.n (StandsOn c.late snap))
      (Q := fun v => CarHas v x.id c.n (StandsAt c.late snap)) (List.mem_of_find?_eq_some hc)
      (fun v d hv => hkeepOn v x d hv) (fun v d hv => hkeepAt v x d hv) (fun v hv => rollMarked_standsAt hread hv) hu

theorem CarHas.closeHolders {s : State} {b n : Nat} {P : Caravan → Prop} (hP : ∀ c, P c → P c.newEpoch) (h : CarHas s b n P)
    (core line : Nat) : CarHas (s.closeHolders core line) b n P := by
  refine List.foldlRecOn (motive := fun u => CarHas u b n P) _ _ h fun u hu x _ =>
    List.foldlRecOn (motive := fun u => CarHas u b n P) _ _ hu fun v hv c _ => ?_
  split
  · exact hv.modCar x.id c.n (fun _ => rfl) hP
  · exact hv

/-! ## The events -/

/-- What comes before an invalidated cache gives words up: where they are a whole line, holders of speculative stores to it take
checkpoints, and the line's clean bytes go. -/
def beforeGiving (s : State) (cache line : Nat) (words : Word) : State :=
  if words = BitVec.allOnes 64 then
    (s.closeHolders cache line).modCore cache fun c => { c with l1 := c.l1.filter fun y => y.1 != line }
  else s

theorem exec_invalidation_current {s : State} {cache : Nat} (hcache : s.isCache cache = true) (source line : Nat) (words : Word) :
    exec (.invalidation ⟨cache, source, s.incarnation source⟩ line words) s =
      .next ((beforeGiving s cache line words).giveUp cache line words) := by
  simp only [Laws.exec_invalidation, execInvalidation, beforeGiving, hcache, bne_self_eq_false, Bool.not_true, Bool.false_eq_true, if_false]
  split <;> rfl

theorem coherenceStep_beforeGiving (s : State) (cache line : Nat) (words : Word) : CoherenceStep s (beforeGiving s cache line words) := by
  unfold beforeGiving
  split
  · exact (coherenceStep_closeHolders ..).trans (coherenceStep_dropL1 ..)
  · exact .refl s

theorem CarHas.beforeGiving {s : State} {b n : Nat} {P : Caravan → Prop} (hP : ∀ c, P c → P c.newEpoch) (h : CarHas s b n P)
    (cache line : Nat) (words : Word) : CarHas (beforeGiving s cache line words) b n P := by
  unfold Sys2Proof.beforeGiving
  split
  · exact h.closeHolders hP cache line
  · exact h

/-- An L1 whose whole line is invalidated keeps no byte of it. -/
theorem l1_beforeGiving {s : State} {cache line : Nat} {k : CoreSt}
    (hk : (beforeGiving s cache line (BitVec.allOnes 64)).core? cache = some k) :
    ∀ y ∈ k.l1, y.1 ≠ line := by
  rw [beforeGiving, if_pos rfl, State.core?, Laws.modCore_cores,
    Laws.find?_map_update _ (fun x : CoreSt => x.id == cache) (fun c : CoreSt => { c with l1 := c.l1.filter fun y => y.1 != line })
      fun _ h => h] at hk
  obtain ⟨j, -, rfl⟩ := Option.map_eq_some_iff.mp hk
  exact fun y hy => by simpa using (List.mem_filter.mp hy).2

/-- Where no two items share a key, an item is the one found by its key. -/
theorem find?_key_of_mem {α : Type} {l : List α} {key : α → Nat} (h : (l.map key).Nodup) {a : α} (ha : a ∈ l) :
    l.find? (fun y => key y == key a) = some a := by
  obtain ⟨b, hb⟩ := Option.isSome_iff_exists.mp (List.find?_isSome (p := fun y => key y == key a).mpr ⟨a, ha, beq_self_eq_true _⟩)
  have hkey : key b = key a := by simpa using List.find?_some hb
  rw [hb, List.inj_on_of_nodup_map h (List.mem_of_find?_eq_some hb) ha hkey]

theorem servesCore_iff {cache core : Nat} : servesCore cache core = true ↔ core = cache ∨ core < 256 ∧ cache = 576 + core / 64 := by
  simp [servesCore, l2Cache, dieOf]

/-- A caravan that read one of the words stands at its checkpoint after the invalidation. -/
theorem invalidation_standsAt {s : State} {cache line : Nat} {words : Word} {x : Block} {c : Caravan} {e : Epoch}
    (hx : s.block? x.id = some x) (hc : x.car? c.n = some c) (hserves : servesCore cache x.core = true) (he : c.epochs = [e])
    (hmark : (e.marks.any fun l => (maskWords line words).contains l) = true) :
    CarHas ((beforeGiving s cache line words).giveUp cache line words) x.id c.n (StandsAt c.late e.snap) := by
  have hbefore : CarHas s x.id c.n fun d => StandsOn c.late e.snap d ∧ ReadFirst (maskWords line words) d :=
    ⟨c, by rw [State.car?, hx]; exact hc, ⟨rfl, e, [], he, rfl⟩, e, [], he, hmark⟩
  obtain ⟨d, hd, hstands, hread⟩ := hbefore.beforeGiving (fun d ⟨hon, hread⟩ => ⟨hon.newEpoch, hread.newEpoch⟩) cache line words
  obtain ⟨f, hf, hcars⟩ := (coherenceStep_beforeGiving s cache line words).block? (b := x.id)
  have hy : (beforeGiving s cache line words).block? x.id = some (f x) := by rw [hf, hx]; rfl
  have hdy : (f x).car? c.n = some d := by rw [State.car?, hy] at hd; exact hd
  have hlate : d.late = c.late := hstands.1
  exact hlate ▸ giveUp_standsAt hy hdy ((hcars x).core.symm ▸ hserves) (hlate.symm ▸ hstands) hread

/-- An invalidation with its source's number: the words go from the cache's records, and from its L1 a whole line. -/
theorem invalidation_reaches (s : State) (cache source line : Nat) (words : Word) (hcache : s.isCache cache = true) :
    ∃ t, exec (.invalidation ⟨cache, source, s.incarnation source⟩ line words) s = .next t ∧ BytesKept s t ∧
      (∀ r ∈ t.sharers line, r.cache = cache → r.valid &&& words = 0 ∧ r.owned &&& words = 0) ∧
      (words = BitVec.allOnes 64 → ∀ k, t.core? cache = some k → ∀ y ∈ k.l1, y.1 ≠ line) ∧
      (∀ (x : Block) (c : Caravan) (e : Epoch), (s.blocks.map (·.id)).Nodup → (x.cars.map (·.n)).Nodup → x ∈ s.blocks → c ∈ x.cars →
        (x.core = cache ∨ x.core < 256 ∧ cache = 576 + x.core / 64) → c.epochs = [e] →
        (e.marks.any fun l => (maskWords line words).contains l) = true →
        ∃ d, t.car? x.id c.n = some d ∧ d.regs = e.snap ∧ d.held = c.late ∧ d.status = .running ∧ d.hints = []) := by
  have hgive := coherenceStep_giveUp (beforeGiving s cache line words) cache line words none
  refine ⟨_, exec_invalidation_current hcache source line words, ((coherenceStep_beforeGiving ..).trans hgive).bytesKept,
    fun r hr hself => sharers_giveUp_self hr hself, fun hwhole k hk y hy => ?_, fun x c e hids hns hx hc hcore he hmark => ?_⟩
  · subst hwhole
    obtain ⟨j, hj, hsub⟩ := hgive.l1_subset hk
    exact l1_beforeGiving hj y (hsub hy)
  · obtain ⟨d, hd, hstands⟩ := invalidation_standsAt (find?_key_of_mem (key := Block.id) hids hx)
      (find?_key_of_mem (key := Caravan.n) hns hc) (servesCore_iff.mpr hcore) he hmark
    have hheld := hstands.held
    obtain ⟨-, hregs, hstatus, hhints, -⟩ := hstands
    exact ⟨d, hd, hregs, hheld, hstatus, hhints⟩

section
variable {s : State} {src : Requester}

theorem exec_homeRequest_old (hunit : s.isCache src.cache = true ∨ s.isFarPackage src.cache = true)
    (hinc : src.inc ≠ s.incarnation src.cache) (line first last : Nat) (own : Bool) :
    exec (.homeRequest src line first last own) s = .next s := by
  have hunit : (s.isCache src.cache || s.isFarPackage src.cache) = true := by simpa using hunit
  simp only [Laws.exec_homeRequest, execHomeRequest, hunit, hinc, bne_iff_ne, ne_eq, not_false_eq_true, if_true, Bool.not_true,
    Bool.false_eq_true, if_false]

/-- A request of a core, with its incarnation number, is performed where the home can be reached. -/
theorem exec_homeRequest_core (hlt : src.cache < 512) (hcore : (s.core? src.cache).isSome = true) (hinc : src.inc = s.incarnation src.cache)
    (line first last : Nat) (own : Bool) : exec (.homeRequest src line first last own) s =
      .next (if (s.homeLost (dieOf src.cache) (s.homeOf (.glob (256 * line)))).isSome then s.reachCache src.cache line (spanMask first last)
        else s.homePerform src.cache line first last own) := by
  have hpod : ¬1024 ≤ src.cache := by omega
  have hpkg : ¬512 ≤ src.cache := by omega
  simp only [Laws.exec_homeRequest, execHomeRequest, State.isCache, hcore, hinc, hpod, hpkg, hlt, Bool.true_or, Bool.not_true,
    bne_self_eq_false, Bool.false_eq_true, decide_false, Bool.false_and, if_false, if_true]
  split <;> rfl

theorem le_of_isFarPackage {cache : Nat} (hfar : s.isFarPackage cache = true) : 1024 ≤ cache := by
  simp only [State.isFarPackage, Bool.and_eq_true, decide_eq_true_eq] at hfar
  exact hfar.1.1

/-- A request of a package of another pod. -/
theorem exec_homeRequest_far (hfar : s.isFarPackage src.cache = true) (hinc : src.inc = s.incarnation src.cache)
    (line first last : Nat) (own : Bool) : exec (.homeRequest src line first last own) s =
      .next (if !(inTiers (256 * line)) || s.ownerOf (256 * line) != src.tenant then s else s.messageWrite src line first last) := by
  have hpod : 1024 ≤ src.cache := le_of_isFarPackage hfar
  simp only [Laws.exec_homeRequest, execHomeRequest, hfar, hinc, hpod, Bool.or_true, Bool.not_true, bne_self_eq_false,
    Bool.false_eq_true, if_false, if_true]

/-- A request of another package of the pod. -/
theorem exec_homeRequest_pkg {p : Nat} (hp : p < 16) (hc : src.cache = 512 + p) (hinc : src.inc = s.incarnation src.cache)
    (line first last : Nat) (own : Bool) : exec (.homeRequest src line first last own) s =
      .next (if s.fenced.contains p || (!(inTiers (256 * line)) || s.ownerOf (256 * line) != src.tenant) then s
        else s.remoteRequest src line first last own) := by
  have hpod : ¬1024 ≤ src.cache := by omega
  have hpkg : (decide (512 ≤ src.cache) && decide (src.cache < 528)) = true := by
    simp only [Bool.and_eq_true, decide_eq_true_eq]; omega
  have hnum : src.cache - 512 = p := by omega
  simp only [Laws.exec_homeRequest, execHomeRequest, State.isCache, hinc, hpod, hpkg, hnum, Bool.or_true, Bool.true_or, Bool.not_true,
    bne_self_eq_false, Bool.false_eq_true, if_false, if_true]

end

theorem requestBytes_eq {src : Requester} {line first last o : Nat} {bs : List Byte} (hstore : src.store = some (o, bs))
    (hlast : last < 64) (hlo : 4 * first ≤ o) (hhi : o + bs.length ≤ 4 * (last + 1)) :
    requestBytes src line first last = some (256 * line + o, bs) := by
  simp [requestBytes, hstore, Option.filter, hlast, hlo, hhi]

theorem SameBytes.writeMem {s t : State} (h : SameBytes s t) (pa : Nat) (bs : List Byte) :
    SameBytes (s.writeMem pa bs) (t.writeMem pa bs) :=
  ⟨by simp only [State.writeMem, h.mem], by simp only [State.writeMem, h.rekeyed], h.vfs, h.stores⟩

/-- A write event leaves the bytes that the same write leaves where caches give the words up first. -/
theorem peek_writeEvent (s : State) (pa : Nat) (bs : List Byte) (l : Loc) :
    (s.writeEvent none (.glob pa) bs).peek l = (s.put none (.glob pa) bs none).peek l := by
  have hevent : SameBytes (s.writeMem pa bs) (s.writeEvent none (.glob pa) bs) := (sameBytes_invalidate ..).trans (sameBytes_wake ..)
  have hput : SameBytes (s.writeMem pa bs) (s.put none (.glob pa) bs none) :=
    ((sameBytes_dropSharers s pa bs.length none).writeMem pa bs).trans (sameBytes_put s pa bs)
  exact (hevent.peek l).trans (hput.peek l).symm

/-- A request of a fenced package, or of another package for a frame its tenant does not own, does nothing. -/
theorem exec_homeRequest_refused {s : State} {src : Requester} {p : Nat} (line first last : Nat) (own : Bool)
    (hfrom : s.isFarPackage src.cache = true ∨ p < 16 ∧ src.cache = 512 + p)
    (hwhy : src.cache < 1024 ∧ s.fenced.contains p = true ∨ s.ownerOf (256 * line) ≠ src.tenant) :
    exec (.homeRequest src line first last own) s = .next s := by
  by_cases hinc : src.inc = s.incarnation src.cache
  · obtain hfar | ⟨hp, hc⟩ := hfrom
    · have howner : s.ownerOf (256 * line) ≠ src.tenant := hwhy.resolve_left fun h => absurd h.1 (le_of_isFarPackage hfar).not_gt
      rw [exec_homeRequest_far hfar hinc, if_pos (by simp [howner])]
    · rw [exec_homeRequest_pkg hp hc hinc, if_pos]
      obtain ⟨-, hfenced⟩ | howner := hwhy
      · rw [hfenced, Bool.true_or]
      · simp [howner]
  · refine exec_homeRequest_old ?_ hinc line first last own
    obtain hfar | ⟨hp, hc⟩ := hfrom
    · exact .inr hfar
    · exact .inl (by simp only [State.isCache, Bool.or_eq_true, Bool.and_eq_true, decide_eq_true_eq]; omega)

/-- Another package's request to own words, or another pod's, writes the bytes it carries and no other. -/
theorem exec_homeRequest_writes {s : State} {src : Requester} {line first last p o : Nat} {own : Bool} {bs : List Byte} (hlast : last < 64)
    (hfrom : s.isFarPackage src.cache = true ∨ p < 16 ∧ src.cache = 512 + p ∧ own = true ∧ s.fenced.contains p = false)
    (hinc : src.inc = s.incarnation src.cache) (htier : inTiers (256 * line) = true) (howner : s.ownerOf (256 * line) = src.tenant)
    (hstore : src.store = some (o, bs)) (hlo : 4 * first ≤ o) (hhi : o + bs.length ≤ 4 * (last + 1)) :
    ∃ t, exec (.homeRequest src line first last own) s = .next t ∧ t.peekN (.glob (256 * line + o)) bs.length = bs ∧
      ∀ a, (a < 256 * line + o ∨ 256 * line + o + bs.length ≤ a) → t.peek (.glob a) = s.peek (.glob a) := by
  have hbytes : requestBytes src line first last = some (256 * line + o, bs) := requestBytes_eq hstore hlast hlo hhi
  have hother : ∀ (u : State) (a : Nat), (a < 256 * line + o ∨ 256 * line + o + bs.length ≤ a) →
      (u.put none (.glob (256 * line + o)) bs none).peek (.glob a) = u.peek (.glob a) := fun u a ha =>
    peek_put_other u _ bs _ fun i hi heq => by injection heq; omega
  obtain hfar | ⟨hp, hc, rfl, hfenced⟩ := hfrom
  · have hstep : exec (.homeRequest src line first last own) s = .next (s.put none (.glob (256 * line + o)) bs none) := by
      rw [exec_homeRequest_far hfar hinc, if_neg (by simp [htier, howner]), State.messageWrite, hbytes]
    exact ⟨_, hstep, peekN_put .., fun a ha => hother s a ha⟩
  · have hstep : exec (.homeRequest src line first last true) s =
        .next ((s.homePerform src.cache line first last true).writeEvent none (.glob (256 * line + o)) bs) := by
      rw [exec_homeRequest_pkg hp hc hinc, if_neg (by simp only [hfenced, htier, howner]; simp), State.remoteRequest]
      simp only [hbytes, if_true]
    refine ⟨_, hstep, ?_, fun a ha => ?_⟩
    · simp only [State.peekN, peek_writeEvent]; exact peekN_put ..
    · rw [peek_writeEvent, hother _ a ha]
      exact (coherenceStep_homePerform s src.cache line first last true).bytesKept.2 (.glob a)

/-- Settles O48: what a request does at its home is `homePerform_grants` and `taken_homePerform`, a foreign one's
`exec_homeRequest_refused` and `exec_homeRequest_writes`, and an invalidation's `invalidation_reaches`. -/
theorem homeGrantsWordsAndReadersRollBack : Obligations.HomeGrantsWordsAndReadersRollBack := by
  refine ⟨fun s src line first last own hle hlast => ⟨fun hlt hcore hinc hhome => ?_, fun hlt hcore hinc hlost => ?_,
    fun hunit hinc => exec_homeRequest_old hunit hinc line first last own,
    fun p hfrom hwhy => exec_homeRequest_refused line first last own hfrom hwhy,
    fun p o bs hfrom hinc htier howner hstore hlo hhi => exec_homeRequest_writes hlast hfrom hinc htier howner hstore hlo hhi⟩,
    fun s cache source line words hcache => ⟨fun inc hinc => ?_, invalidation_reaches s cache source line words hcache⟩⟩
  · refine ⟨s.homePerform src.cache line first last own, ?_, (coherenceStep_homePerform ..).bytesKept,
      fun hmay hroom => homePerform_grants hle hlast hmay hroom, taken_homePerform s src.cache line first last own⟩
    rw [exec_homeRequest_core hlt hcore hinc, hhome]; rfl
  · refine ⟨s.reachCache src.cache line (spanMask first last), ?_, (coherenceStep_reachCache ..).bytesKept, dir_reachCache ..⟩
    rw [exec_homeRequest_core hlt hcore hinc, if_pos hlost]
  · simp [execInvalidation, hcache, hinc]

end Sys2Proof
end

section
/-! SUPPORT. Bundle requests served and loads completed (R88, R304, R305), and the moves of a dual-home window (R363). -/
namespace Sys2Proof
open Sys2Proof.Machine Sys2Proof.Claims

/-! ## Bundles served and entered -/

theorem bundle?_modBundle (s : State) (h : Nat) {f : Bundle → Bundle} (hf : ∀ u, (f u).handle = u.handle) :
    (s.modBundle h f).bundle? h = (s.bundle? h).map f :=
  Laws.find?_map_update s.bundles (fun u => u.handle == h) f fun u hu => by simpa [hf] using hu

theorem modBundle_modBundle (s : State) (h : Nat) {f : Bundle → Bundle} (g : Bundle → Bundle) (hf : ∀ u, (f u).handle = u.handle) :
    (s.modBundle h f).modBundle h g = s.modBundle h fun u => g (f u) := by
  simp only [State.modBundle, List.map_map]
  congr 1
  refine List.map_congr_left fun u _ => ?_
  by_cases hu : u.handle = h <;> simp [hu, hf]

/-- A bundle whose load has at least started. -/
def loading (u : Bundle) : Bundle := { u with state := max u.state 1 }

theorem loading_loading (u : Bundle) : loading (loading u) = loading u := by simp [loading]

/-- The load of a bundle for a block's entry starts (R88, R305). -/
def startLoad (b : Nat) (s : State) (u : Bundle) : State :=
  (s.modBundle u.handle loading).queueEvent (.bundleEntryComplete b u.handle)

/-- However often a handle is listed, its bundle loads; each start queues a completion. -/
theorem foldl_startLoad (b h : Nat) {us : List Bundle} (hne : us ≠ []) (hus : ∀ u ∈ us, u.handle = h) (s : State) :
    us.foldl (startLoad b) s =
      { s.modBundle h loading with agenda := s.agenda ++ List.replicate us.length (Instr.bundleEntryComplete b h) } := by
  induction us generalizing s with
  | nil => exact absurd rfl hne
  | cons u us ih =>
    have hu : startLoad b s u = { s.modBundle h loading with agenda := s.agenda ++ [.bundleEntryComplete b h] } := by
      rw [startLoad, hus u (List.mem_cons_self ..)]; rfl
    rw [List.foldl_cons, hu]
    by_cases hend : us = []
    · subst hend; rfl
    · have hagain : ({ s.modBundle h loading with agenda := s.agenda ++ [.bundleEntryComplete b h] } : State).modBundle h loading =
          { s.modBundle h loading with agenda := s.agenda ++ [.bundleEntryComplete b h] } := by
        have htwice := modBundle_modBundle s h loading (f := loading) fun _ => rfl
        simp only [loading_loading] at htwice
        exact congrArg (fun v : State => { v with agenda := s.agenda ++ [Instr.bundleEntryComplete b h] }) htwice
      rw [ih hend (fun v hv => hus v (List.mem_cons_of_mem _ hv)), hagain, List.length_cons, List.replicate_succ, List.append_assoc]
      rfl

theorem roomFor_of_fits {s : State} {r : BundleReq} (h : s.fits r.tenant r.die r.handles = true) (n : Nat) : s.roomFor r n = s := by
  cases n with
  | zero => rfl
  | succ n => rw [State.roomFor, if_pos h]

/-- The next request of a tenant and die, one of a block for one bundle that the quota takes. -/
theorem serveBundles_fits {s : State} {r : BundleReq} {u : Bundle} {b : Nat} (hu : s.bundle? u.handle = some u)
    (hr : s.nextRequest r.tenant r.die = some r) (hb : r.blk = some b) (hh : r.handles = [u.handle])
    (hfits : s.fits r.tenant r.die r.handles = true) :
    ∃ more : List Instr, s.serveBundles r.tenant r.die = { s.modBundle u.handle loading with
      bundleReqs := s.bundleReqs.filter fun q => !(q.same r)
      agenda := s.agenda ++ .bundleEntryComplete b u.handle :: more } := by
  have hmem : u ∈ s.bundles.filter fun v => r.handles.contains v.handle :=
    List.mem_filter.mpr ⟨List.mem_of_find?_eq_some hu, by simp [hh]⟩
  have hne := List.ne_nil_of_mem hmem
  have hfold := foldl_startLoad b u.handle hne (fun v hv => by simpa [hh] using (List.mem_filter.mp hv).2) s
  obtain ⟨n, hn⟩ : ∃ n, (s.bundles.filter fun v => r.handles.contains v.handle).length = n + 1 :=
    Nat.exists_eq_succ_of_ne_zero fun h => hne (List.length_eq_zero_iff.mp h)
  rw [hn, List.replicate_succ] at hfold
  have hserve : s.serveBundles r.tenant r.die =
      (fun v : State => if (v.nextRequest r.tenant r.die).isSome then v.queueEvent (.bundleRequestServe r.tenant r.die) else v)
        ((fun v : State => { v with bundleReqs := v.bundleReqs.filter fun q => !(q.same r) })
          ((s.bundles.filter fun v => r.handles.contains v.handle).foldl (startLoad b) s)) := by
    unfold State.serveBundles
    simp only [hr, List.isEmpty_iff, hne, roomFor_of_fits hfits, hfits, hb, Bool.not_true, Bool.false_eq_true, if_false, Option.isSome_some,
      if_true, Option.getD_some]
    rfl
  rw [hserve, hfold]
  dsimp only
  split
  · refine ⟨List.replicate n (.bundleEntryComplete b u.handle) ++ [.bundleRequestServe r.tenant r.die], ?_⟩
    rw [← List.cons_append, ← List.append_assoc]; rfl
  · exact ⟨List.replicate n (.bundleEntryComplete b u.handle), rfl⟩

/-- A request of a block for one bundle whose lines the quota takes is served. -/
theorem exec_bundleRequestServe_fits {s : State} {r : BundleReq} {u : Bundle} {b : Nat} (hu : s.bundle? u.handle = some u)
    (hr : s.nextRequest r.tenant r.die = some r) (hb : r.blk = some b) (hh : r.handles = [u.handle])
    (hfits : s.fits r.tenant r.die r.handles = true) :
    ∃ t, exec (.bundleRequestServe r.tenant r.die) s = .next t ∧ BytesKept s t ∧ t.bundle? u.handle = some (loading u) ∧
      t.bundleReqs = s.bundleReqs.filter (fun q => !(q.same r)) ∧ .bundleEntryComplete b u.handle ∈ t.agenda ∧ t.blocks = s.blocks := by
  obtain ⟨more, hserve⟩ := serveBundles_fits hu hr hb hh hfits
  refine ⟨_, congrArg Host.Outcome.next hserve, ⟨rfl, fun _ => rfl⟩, ?_, rfl, by simp, rfl⟩
  exact (bundle?_modBundle s u.handle (f := loading) fun _ => rfl).trans (by rw [hu]; rfl)

theorem coherenceStep_recallAway (s : State) (u : Bundle) : CoherenceStep s (s.recallAway u) := by
  unfold State.recallAway
  extract_lets t away
  have hwords : CoherenceStep s t := .foldl fun v line => List.foldlRecOn (motive := fun w => CoherenceStep v w) _ _ (.refl v)
    fun w hw r _ => by
      split
      · exact hw
      · exact hw.trans (coherenceStep_giveUp ..)
  exact hwords.trans ⟨rfl, (CoherenceStep.refl t).blocks, ⟨_, rfl, fun k => ⟨rfl, List.filter_subset_self ..⟩⟩⟩

/-- A barrier after one arrival (R244). -/
def arrived (a : Barrier) : Barrier := if a.count + 1 = a.n then ⟨a.n, 0, a.p + 1⟩ else ⟨a.n, a.count + 1, a.p⟩

/-- A block whose barrier k has come to a state. -/
def withBar (k : Nat) (a : Barrier) (y : Block) : Block := { y with bars := vset y.bars k a }

theorem arrive_eq {s : State} {b : Nat} {x : Block} (hx : s.block? b = some x) (k : Nat) :
    (s.arrive b k).2 = s.modBlock b (withBar k (arrived (vget x.bars k))) := by
  simp only [State.arrive, hx]; rfl

/-- A block's entry of a bundle once it is complete: it waits no more (R88, R305). -/
def entered (handle : Nat) (y : Block) : Block :=
  { y with entries := y.entries.filter (fun e => !(e.handle == handle && e.pending.isSome)) ++
      [{ handle := handle, pending := none, leave := false }] }

/-- A bundle whose load is complete, but for the time of its entry. -/
def resident (u : Bundle) : Bundle := { u with state := if u.state = 0 then 0 else 2 }

/-- A bundle's load completes for the one entry of a block that waits for it. -/
theorem completeEntry_eq {s : State} {u : Bundle} {x : Block} {e : Entry} {n : Nat} (hx : s.block? x.id = some x)
    (he : x.entries.filter (fun y => y.handle == u.handle && y.pending.isSome) = [e]) (hn : e.pending = some n) (hleave : e.leave = false) :
    s.completeEntry x.id u.handle =
      ((((s.modBundle u.handle resident).modBlock x.id (entered u.handle)).enterAt u.handle).arrive x.id n).2 := by
  have hblock : (s.modBundle u.handle fun v => { v with state := if v.state = 0 then 0 else 2 }).block? x.id = some x := hx
  unfold State.completeEntry
  simp only [hblock, he, List.isEmpty_cons, Bool.false_eq_true, if_false, List.all_cons, hleave, List.all_nil, Bool.and_true,
    List.foldl_cons, List.foldl_nil, hn]
  rfl

/-- A bundle counted as entered at a time (R304). -/
def enteredFrom (time : Nat) (u : Bundle) : Bundle := { u with state := 2, entryTime := time }

/-- A bundle counts as entered from now: it is marked so, and copies of its lines elsewhere are recalled, which no byte shows. -/
theorem coherenceStep_enterAt {s : State} {h : Nat} {u : Bundle} (hu : s.bundle? h = some u) :
    CoherenceStep ({ s with nextId := s.nextId + 1 }.modBundle h (enteredFrom s.nextId)) (s.enterAt h) := by
  have hmarked : ({ s with nextId := s.nextId + 1 }.modBundle h (enteredFrom s.nextId)).bundle? h = some (enteredFrom s.nextId u) :=
    (bundle?_modBundle _ h (f := enteredFrom s.nextId) fun _ => rfl).trans (congrArg _ hu)
  have henter : s.enterAt h = ({ s with nextId := s.nextId + 1 }.modBundle h (enteredFrom s.nextId)).recallAway (enteredFrom s.nextId u) := by
    unfold State.enterAt State.tick
    dsimp only
    split
    next v hv => cases hv.symm.trans hmarked; rfl
    next hv => cases hv.symm.trans hmarked
  exact henter ▸ coherenceStep_recallAway ..

theorem bytesKept_modBlock (s : State) (b : Nat) {f : Block → Block} (hid : ∀ x, (f x).id = x.id) (hls : ∀ x, (f x).ls = x.ls) :
    BytesKept s (s.modBlock b f) :=
  ⟨rfl, SameBytes.peek <| .mapBlocks rfl rfl rfl rfl (fun x => by split <;> simp [hid]) fun x => by split <;> simp [hls]⟩

theorem bytesKept_trans {s t u : State} (h : BytesKept s t) (h' : BytesKept t u) : BytesKept s u :=
  ⟨h'.1.trans h.1, fun l => (h'.2 l).trans (h.2 l)⟩

/-- A load that completes: the bundle is resident and entered from now, the entry waits no more, and its barrier counts its arrival. -/
theorem exec_bundleEntryComplete_one {s : State} {u : Bundle} {x : Block} {e : Entry} {n : Nat} (hu : s.bundle? u.handle = some u)
    (hx : s.block? x.id = some x) (he : x.entries.filter (fun y => y.handle == u.handle && y.pending.isSome) = [e])
    (hn : e.pending = some n) (hleave : e.leave = false) :
    ∃ t y, exec (.bundleEntryComplete x.id u.handle) s = .next t ∧ BytesKept s t ∧
      t.bundle? u.handle = some (enteredFrom s.nextId u) ∧ t.block? x.id = some y ∧
      { y with cars := x.cars } = withBar n (arrived (vget x.bars n)) (entered u.handle x) := by
  let v := (s.modBundle u.handle resident).modBlock x.id (entered u.handle)
  let w := { v with nextId := v.nextId + 1 }.modBundle u.handle (enteredFrom v.nextId)
  have hvu : v.bundle? u.handle = some (resident u) := (bundle?_modBundle s u.handle (f := resident) fun _ => rfl).trans (congrArg _ hu)
  have hwu : w.bundle? u.handle = some (enteredFrom s.nextId u) :=
    (bundle?_modBundle _ u.handle (f := enteredFrom v.nextId) fun _ => rfl).trans (congrArg _ hvu)
  have hwx : w.block? x.id = some (entered u.handle x) :=
    (Laws.block?_modBlock (s.modBundle u.handle resident) x.id (entered u.handle) fun _ => rfl).trans (congrArg _ hx)
  have hstep : CoherenceStep w (v.enterAt u.handle) := coherenceStep_enterAt hvu
  obtain ⟨f, hf, hcars⟩ := hstep.block? (b := x.id)
  have hblock : (v.enterAt u.handle).block? x.id = some (f (entered u.handle x)) := hf.trans (congrArg _ hwx)
  have hrest := (hcars (entered u.handle x)).rest
  have hbars : (f (entered u.handle x)).bars = x.bars := (congrArg Block.bars hrest :)
  have harrive := arrive_eq hblock n
  rw [hbars] at harrive
  have hvw : BytesKept s w :=
    bytesKept_trans ⟨rfl, fun _ => rfl⟩
      (bytesKept_modBlock (s.modBundle u.handle resident) x.id (f := entered u.handle) (fun _ => rfl) fun _ => rfl)
  refine ⟨(v.enterAt u.handle).modBlock x.id (withBar n (arrived (vget x.bars n))), withBar n (arrived (vget x.bars n)) (f (entered u.handle x)),
    ?_, ?_, ?_, ?_, ?_⟩
  · rw [Laws.exec_bundleEntryComplete, execBundleEntryComplete, hu, Option.isSome_some, if_pos rfl, completeEntry_eq hx he hn hleave,
      harrive]
  · exact bytesKept_trans (bytesKept_trans hvw hstep.bytesKept) (bytesKept_modBlock _ _ (fun _ => rfl) fun _ => rfl)
  · have hbundles : (v.enterAt u.handle).bundles = w.bundles := (congrArg State.bundles hstep.rest :)
    exact (congrArg (List.find? fun z : Bundle => z.handle == u.handle) hbundles).trans hwu
  · exact (Laws.block?_modBlock _ x.id (withBar n (arrived (vget x.bars n))) fun _ => rfl).trans (congrArg _ hblock)
  · exact (congrArg (withBar n (arrived (vget x.bars n))) hrest :)

/-! ## The dual-home window -/

theorem procIs_modProc {s : State} {vf proc : Nat} {p : Proc} (h : procIs s vf proc p) {g : Proc → Proc} (hg : ∀ q, (g q).id = q.id) :
    procIs (s.modProc vf proc g) vf proc (g p) := by
  obtain ⟨f, hf, hp⟩ := Option.bind_eq_some_iff.mp h
  have hfind : (f.procs.map fun q => if q.id == proc then g q else q).find? (fun q => q.id == proc) = (f.proc? proc).map g :=
    Laws.find?_map_update f.procs (fun q => q.id == proc) g fun q hq => by simpa [hg] using hq
  exact Option.bind_eq_some_iff.mpr ⟨_, vf?_modVf hf _ fun _ => rfl, hfind.trans (by rw [hp]; rfl)⟩

theorem procIs_setDhstat {s : State} {vf proc : Nat} {p : Proc} (h : procIs s vf proc p) (st reason lines : Nat) :
    procIs (s.setDhstat vf proc st reason lines) vf proc { p with dhstat := BitVec.ofNat 64 (st + 2 ^ 4 * reason + 2 ^ 32 * lines) } :=
  procIs_modProc h (g := fun p => { p with dhstat := BitVec.ofNat 64 (st + 2 ^ 4 * reason + 2 ^ 32 * lines) }) fun _ => rfl

/-- The low two bits of DHSTAT are its state, the high half the lines copied. -/
theorem bitsOf_low (w : Word) : bitsOf w.toNat 1 0 = (w.extractLsb' 0 2).toNat := by
  simp [bitsOf, BitVec.extractLsb'_toNat]

theorem bitsOf_high (w : Word) : bitsOf w.toNat 63 32 = (w.extractLsb' 32 32).toNat := by
  simp [bitsOf, BitVec.extractLsb'_toNat, Nat.shiftRight_eq_div_pow]

/-- The frames of a process's window exchanged, its status cleared. -/
def switched (s : State) (vf proc : Nat) : State :=
  (s.modProc vf proc fun q => { q with switched := !q.switched }).setDhstat vf proc 0 0 0

/-- Every core's translations changed. -/
def swapTlbs (swap : TlbEntry → TlbEntry) (s : State) : State :=
  { s with cores := s.cores.map fun (c : CoreSt) => { c with tlb := c.tlb.map swap } }

/-- The bytes of the line at an address written to another, with its poison. -/
def lineCopied (s : State) (src dst : Nat) (bytes : List Byte) : State :=
  { s.writeMem dst bytes with
    poison := (s.writeMem dst bytes).poison ++
      (s.poison.filter fun x => src ≤ x.pa && x.pa < src + 256).map fun (x : Poison) => { x with pa := dst + (x.pa - src) } }

section
variable {s : State} {vf proc : Nat} {p : Proc}

theorem syncWindow_none (hl : s.windowLeaf vf proc = none) : s.syncWindow vf proc = s.setDhstat vf proc 3 1 0 := by
  simp only [State.syncWindow, hl]

theorem syncWindow_starts {l : Leaf} (hl : s.windowLeaf vf proc = some l) (hb : s.bundles = []) :
    s.syncWindow vf proc = (s.setDhstat vf proc 1 0 0).queueEvent (.dhLineCopy vf proc) := by
  simp only [State.syncWindow, hl, hb, List.any_nil, Bool.false_eq_true, if_false]

theorem switchWindow_none (hp : procIs s vf proc p) (hl : s.windowLeaf vf proc = none) :
    s.switchWindow vf proc = s.setDhstat vf proc 3 3 0 := by
  unfold procIs at hp
  simp only [State.switchWindow, hp, hl]

theorem switchWindow_early (hp : procIs s vf proc p) {l : Leaf} (hl : s.windowLeaf vf proc = some l)
    (hst : (p.dhstat.extractLsb' 0 2).toNat ≠ 2) : s.switchWindow vf proc = s.setDhstat vf proc 3 3 0 := by
  unfold procIs at hp
  simp only [State.switchWindow, hp, hl, bitsOf_low, bne_iff_ne, ne_eq, hst, not_false_eq_true, if_true]

theorem copyLine_idle (hp : procIs s vf proc p) (hst : (p.dhstat.extractLsb' 0 2).toNat ≠ 1) : s.copyLine vf proc = s := by
  unfold procIs at hp
  simp only [State.copyLine, hp, bitsOf_low, bne_iff_ne, ne_eq, hst, not_false_eq_true, if_true]

/-- The switch of a window that has been copied: the translations that caches hold are the last to change. -/
theorem switchWindow_switches (hp : procIs s vf proc p) {l : Leaf} (hl : s.windowLeaf vf proc = some l) {second : Nat} (h2 : l.pa2 = some second)
    (hst : (p.dhstat.extractLsb' 0 2).toNat = 2) : ∃ swap : TlbEntry → TlbEntry, s.switchWindow vf proc =
      swapTlbs swap ((switched (s.recallRange l.pa (l.pa + l.size)) vf proc).moveAccesses vf proc l second) := by
  unfold procIs at hp
  simp only [State.switchWindow, hp, hl, bitsOf_low, hst, bne_self_eq_false, Bool.false_eq_true, if_false, h2]
  exact ⟨_, rfl⟩

/-- The next line copied, poison and all, and counted. -/
theorem copyLine_copies (hp : procIs s vf proc p) {l : Leaf} (hl : s.windowLeaf vf proc = some l) {second n : Nat}
    (h2 : l.pa2 = some second) (hst : (p.dhstat.extractLsb' 0 2).toNat = 1) (hn : (p.dhstat.extractLsb' 32 32).toNat = n) :
    ∃ agenda : List Instr, s.copyLine vf proc =
      { (lineCopied s (l.pa + 256 * n) (second + 256 * n) (s.lineBytes ((l.pa + 256 * n) / 256))).setDhstat vf proc
          (if 256 * (n + 1) < l.size then 1 else 2) 0 (n + 1) with agenda := agenda } := by
  unfold procIs at hp
  simp only [State.copyLine, hp, hl, h2, bitsOf_low, bitsOf_high, hst, hn, bne_self_eq_false, Bool.false_eq_true, if_false]
  generalize s.lineBytes ((l.pa + 256 * n) / 256) = bytes
  split
  · exact ⟨s.agenda ++ [.dhLineCopy vf proc], rfl⟩
  · exact ⟨s.agenda, rfl⟩

end

/-- The bytes of a line, from its first. -/
theorem getElem_lineBytes (s : State) {src : Nat} (hsrc : src % 256 = 0) {i : Nat} (hi : i < (s.lineBytes (src / 256)).length) :
    (s.lineBytes (src / 256))[i] = s.memByte (src + i) := by
  simp only [State.lineBytes, List.getElem_map, List.getElem_range]
  congr 1
  omega

theorem length_lineBytes (s : State) (line : Nat) : (s.lineBytes line).length = 256 := by simp [State.lineBytes]

/-- A line copied changes no byte outside its destination. -/
theorem peek_lineCopied_other (s : State) (src dst : Nat) (bytes : List Byte) {y : Loc}
    (hy : ∀ i, i < bytes.length → y ≠ .glob (dst + i)) : (lineCopied s src dst bytes).peek y = s.peek y := by
  cases y with
  | ls b o => rfl
  | glob a =>
    exact memByte_writeMem_other s dst a bytes fun ⟨hlo, hhi⟩ => hy (a - dst) (by omega) (by rw [Nat.add_sub_cancel' hlo])

theorem bytesKept_setDhstat (s : State) (vf proc st reason lines : Nat) (ag : List Instr) :
    BytesKept s { s.setDhstat vf proc st reason lines with agenda := ag } := ⟨rfl, fun _ => rfl⟩

/-- A step of SYNC: the next line's bytes stand at the second frame, and no other byte changes. -/
theorem exec_dhLineCopy_copies {s : State} {vf proc : Nat} {p : Proc} (hp : procIs s vf proc p) {l : Leaf}
    (hl : s.windowLeaf vf proc = some l) {second n : Nat} (h2 : l.pa2 = some second) (hst : (p.dhstat.extractLsb' 0 2).toNat = 1)
    (hn : (p.dhstat.extractLsb' 32 32).toNat = n) (hpa : l.pa % 256 = 0) :
    ∃ t, exec (.dhLineCopy vf proc) s = .next t ∧ t.far = s.far ∧
      (∀ i, i < 256 → t.peek (.glob (second + 256 * n + i)) = s.peek (.glob (l.pa + 256 * n + i))) ∧
      (∀ y, (∀ i, i < 256 → y ≠ .glob (second + 256 * n + i)) → t.peek y = s.peek y) ∧
      procIs t vf proc { p with dhstat := BitVec.ofNat 64 ((if 256 * (n + 1) < l.size then 1 else 2) + 2 ^ 32 * (n + 1)) } := by
  obtain ⟨agenda, hcopy⟩ := copyLine_copies hp hl h2 hst hn
  have hlen := length_lineBytes s ((l.pa + 256 * n) / 256)
  have hline : ∀ (i : Nat) (hi : i < (s.lineBytes ((l.pa + 256 * n) / 256)).length), _ = s.memByte (l.pa + 256 * n + i) := fun i hi =>
    getElem_lineBytes s (by omega) hi
  generalize s.lineBytes ((l.pa + 256 * n) / 256) = bytes at hcopy hlen hline
  obtain ⟨hfar, hbytes⟩ := bytesKept_setDhstat (lineCopied s (l.pa + 256 * n) (second + 256 * n) bytes) vf proc
    (if 256 * (n + 1) < l.size then 1 else 2) 0 (n + 1) agenda
  have hproc : procIs (lineCopied s (l.pa + 256 * n) (second + 256 * n) bytes) vf proc p := hp
  exact ⟨_, congrArg Host.Outcome.next hcopy, hfar,
    fun i hi => (hbytes _).trans ((memByte_writeMem s (second + 256 * n) i bytes (by rw [hlen]; exact hi)).trans (hline i _)),
    fun y hy => (hbytes y).trans (peek_lineCopied_other s _ _ bytes (by rw [hlen]; exact hy)), procIs_setDhstat hproc _ 0 (n + 1)⟩

theorem coherenceStep_invalidate (s : State) (by_ : Option Who) (words : List Loc) : CoherenceStep s (s.invalidate by_ words) :=
  .foldl fun u x => List.foldlRecOn (motive := fun v => CoherenceStep u v) _ _ (.refl u) fun v hv c _ => by
    split
    · exact hv
    · exact hv.trans (coherenceStep_rollMarked ..)

theorem coherenceStep_recallRange (s : State) (lo hi : Nat) : CoherenceStep s (s.recallRange lo hi) :=
  (coherenceStep_invalidate s none _).trans
    ⟨rfl, (CoherenceStep.refl _).blocks, ⟨_, rfl, fun _ => ⟨rfl, List.filter_subset_self ..⟩⟩⟩

/-- After a recall no L1 holds a line of the range. -/
theorem l1_recallRange {s : State} {lo hi : Nat} {k : CoreSt} (hk : k ∈ (s.recallRange lo hi).cores) :
    ∀ y ∈ k.l1, ¬(lo ≤ 256 * y.1 ∧ 256 * y.1 < hi) := by
  obtain ⟨j, -, rfl⟩ := List.mem_map.mp hk
  intro y hy
  have hgone := (List.mem_filter.mp hy).2
  simpa [imp_iff_not_or] using hgone

theorem bytesKept_moveAccesses (s : State) (vf proc : Nat) (l : Leaf) (second : Nat) : BytesKept s (s.moveAccesses vf proc l second) :=
  ⟨rfl, SameBytes.peek (.mapBlocks rfl rfl rfl rfl (fun _ => rfl) fun _ => rfl)⟩

/-- A switch: the second frame is primary, the window's status is clear, and no L1 holds a line that the old primary granted. -/
theorem exec_dhctlSwitch_switches {s : State} {vf proc : Nat} {p : Proc} (hp : procIs s vf proc p) {l : Leaf}
    (hl : s.windowLeaf vf proc = some l) {second : Nat} (h2 : l.pa2 = some second) (hst : (p.dhstat.extractLsb' 0 2).toNat = 2) :
    ∃ t, exec (.dhctlSwitch vf proc) s = .next t ∧ BytesKept s t ∧ procIs t vf proc { p with switched := !p.switched, dhstat := 0 } ∧
      ∀ k ∈ t.cores, ∀ y ∈ k.l1, ¬(l.pa ≤ 256 * y.1 ∧ 256 * y.1 < l.pa + l.size) := by
  obtain ⟨swap, hswitch⟩ := switchWindow_switches hp hl h2 hst
  have hrecall := coherenceStep_recallRange s l.pa (l.pa + l.size)
  have hvfs : (s.recallRange l.pa (l.pa + l.size)).vfs = s.vfs := (congrArg State.vfs hrecall.rest :)
  have hproc : procIs (s.recallRange l.pa (l.pa + l.size)) vf proc p := by
    unfold procIs State.vf? at hp ⊢
    rw [hvfs]; exact hp
  have hswitched := procIs_setDhstat (procIs_modProc hproc (g := fun q => { q with switched := !q.switched }) fun _ => rfl) 0 0 0
  refine ⟨_, congrArg Host.Outcome.next hswitch, ?_, hswitched, fun k hk => ?_⟩
  · exact bytesKept_trans hrecall.bytesKept (bytesKept_moveAccesses (switched (s.recallRange l.pa (l.pa + l.size)) vf proc) vf proc l second)
  · obtain ⟨j, hj, rfl⟩ := List.mem_map.mp hk
    obtain ⟨i, hi, rfl⟩ := List.mem_map.mp hj
    exact fun y hy => l1_recallRange (k := i) hi y hy

/-- Settles O51: a request served is `exec_bundleRequestServe_fits`, a load completed `exec_bundleEntryComplete_one`, a line copied
`exec_dhLineCopy_copies`, a switch `exec_dhctlSwitch_switches`; every other clause sets DHSTAT alone. -/
theorem bundlesLoadAndWindowMoves : Obligations.BundlesLoadAndWindowMoves := by
  refine ⟨fun s r u b hu hr hb hh hfits => exec_bundleRequestServe_fits hu hr hb hh hfits, fun s u x e n hu hx he hn hleave => ?_,
    fun s vf proc p hp => ?_⟩
  · have hhandle := (List.mem_filter.mp (he ▸ List.mem_singleton_self e : e ∈ x.entries.filter _)).2
    simp only [Bool.and_eq_true, beq_iff_eq] at hhandle
    obtain ⟨t, y, hstep, hbytes, hbundle, hblock, hy⟩ := exec_bundleEntryComplete_one hu hx he hn hleave
    have hdone : ({ handle := u.handle, pending := none, leave := false } : Entry) = { e with pending := none } := by
      rw [← hhandle.1, ← hleave]
    refine ⟨t, y, hstep, hbytes, hbundle, hblock, hy.trans ?_⟩
    rw [← hdone]; rfl
  · intro becomes st n
    have hset : ∀ (i : Instr) (stat reason : Nat), exec i s = .next (s.setDhstat vf proc stat reason 0) →
        becomes i (stat + 2 ^ 4 * reason + 2 ^ 32 * 0) := fun i stat reason h =>
      ⟨_, h, ⟨rfl, fun _ => rfl⟩, procIs_setDhstat hp stat reason 0⟩
    have hsync : ∀ {t : State}, s.syncWindow vf proc = t → exec (.dhctlSync vf proc) s = .next t := congrArg Host.Outcome.next
    have hswitch : ∀ {t : State}, s.switchWindow vf proc = t → exec (.dhctlSwitch vf proc) s = .next t := congrArg Host.Outcome.next
    refine ⟨fun hl => ⟨hset _ 3 1 (hsync (syncWindow_none hl)), hset _ 3 3 (hswitch (switchWindow_none hp hl))⟩,
      fun hst => congrArg Host.Outcome.next (copyLine_idle hp hst), fun l second hl h2 => ⟨fun hb => ?_, fun hst =>
        hset _ 3 3 (hswitch (switchWindow_early hp hl hst)), fun hst => exec_dhctlSwitch_switches hp hl h2 hst,
        fun hst hpa => exec_dhLineCopy_copies hp hl h2 hst rfl hpa⟩⟩
    have hstep := hsync (syncWindow_starts hl hb)
    refine ⟨⟨_, hstep, ⟨rfl, fun _ => rfl⟩, procIs_setDhstat hp 1 0 0⟩, fun t ht => ?_⟩
    obtain rfl : (s.setDhstat vf proc 1 0 0).queueEvent (.dhLineCopy vf proc) = t := Host.Outcome.next.inj (hstep.symm.trans ht)
    simp

end Sys2Proof
end

section
/-! SUPPORT. The issue of a word of a caravan that awaits no result, from what its effect makes of the caravan. -/
namespace Sys2Proof
open Sys2Proof.Machine Sys2Proof.Claims

theorem closeEpoch_held (s : State) (b n : Nat) : ∃ (g : Caravan → Caravan) (ag : List Instr),
    s.closeEpoch b n = { s.modCar b n g with agenda := ag } ∧ ∀ d, (∃ ep, g d = { d with epochs := ep }) ∧ (g d).held = d.held := by
  have hid : s = { s.modCar b n id with agenda := s.agenda } := by rw [modCar_id]
  unfold State.closeEpoch
  split
  · split
    · exact ⟨Caravan.newEpoch, _, rfl, fun d => ⟨⟨_, rfl⟩, held_newEpoch d⟩⟩
    · exact ⟨id, s.agenda, hid, fun d => ⟨⟨_, rfl⟩, rfl⟩⟩
  · exact ⟨id, s.agenda, hid, fun d => ⟨⟨_, rfl⟩, rfl⟩⟩

/-- The held operations of an epoch list whose last epoch holds more. -/
theorem flatMap_acts_last (es : List Epoch) (f : Epoch → Epoch) {hs : List Held} (hf : ∀ e, (f e).acts = e.acts ++ hs)
    (h : es ≠ [] ∨ hs = []) : (es.dropLast ++ (es.getLast?.map f).toList).flatMap (·.acts) = es.flatMap (·.acts) ++ hs := by
  cases hl : es.getLast? with
  | none =>
    have hes := List.getLast?_eq_none_iff.mp hl
    simp [hes, h.resolve_left fun hne => hne hes]
  | some e =>
    conv_rhs => rw [← List.dropLast_append_getLast? e hl]
    simp [hf]

/-- What a word that asks for no checkpoint makes of its caravan by retiring. -/
def Retired (c d : Caravan) (pc : Nat) : Prop :=
  (∃ fx ni ep mu, d = { c with regs := { c.regs with pc := BitVec.ofNat 64 pc }, hints := [], fix := fx, nextIssue := ni, epochs := ep,
                               multi := mu }) ∧
    d.held = c.held

/-- What retiring makes of a caravan before its epoch may close. -/
def steppedPast (s before : State) (b n : Nat) (o : Op) (hs : List W32) (pc : Nat) (d : Caravan) : Caravan :=
  { d.past hs pc (s.fixAfter before (.car b n) o) (s.clk + 2 + (if o.st = 3 then 0 else 2 * o.st)) (vRegs o.dst) with
    multi := before.multiMark b n o, yieldTo := if hintYield hs then s.clk + 18 else d.yieldTo }

/-- A word retires as `Laws.retire_plain` says, and its caravan still holds what it held. -/
theorem retire_held (s before : State) (b n : Nat) (c : Caravan) (o : Op) (hs : List W32) (pc : Nat) (hc : s.car? b n = some c)
    (hsched : hintOf hs 0x7F = none) (hp : ∀ e ∈ c.epochs, e.pend = []) : ∃ (g : Caravan → Caravan) (ag : List Instr),
      s.retire (.car b n) o hs pc before false = { s.modCar b n g with clk := s.clk + 2, agenda := ag } ∧ (∀ d, (g d).n = d.n) ∧
      Retired c (g c) pc := by
  let p := steppedPast s before b n o hs pc
  have hpn : ∀ d, (p d).n = d.n := fun _ => rfl
  let u := s.slotPast.modCar b n p
  have hu : u.car? b n = some (p c) := (Laws.car?_state_modCar s.slotPast b n p hpn).trans (congrArg (Option.map p) hc)
  have hpend : ∀ e ∈ (p c).epochs, e.pend = [] := Laws.pend_last c.epochs _ (fun _ => rfl) hp
  have hheld : (p c).held = c.held := congrArg (c.late ++ ·) ((flatMap_acts_last c.epochs
    (fun e => { e with count := e.count + 1, vw := addAll (vRegs o.dst) e.vw }) (fun e => (List.append_nil e.acts).symm)
    (.inr rfl)).trans (List.append_nil _))
  obtain ⟨g, ag, hclose, hg⟩ := closeEpoch_held u b n
  have hretire : s.retire (.car b n) o hs pc before false = u.closeEpoch b n := by
    have h : s.retire (.car b n) o hs pc before false =
        (fun v : State => (if o.st = 3 && !o.multi then v.settleRegs (.car b n) o.dst else v).closeEpoch b n)
          (if (false || u.owesResult b n o) = true then u.commitAll b n else u) := rfl
    rw [h, Laws.owesResult_none u b n o (p c) hu hpend, Bool.or_false, if_neg Bool.false_ne_true]
    dsimp only
    rw [Laws.settleRegs_none u b n (p c) o.dst hu hpend, ite_self]
  refine ⟨fun d => g (p d), ag, ?_, fun d => ?_, ?_, ((hg (p c)).2).trans hheld⟩
  · rw [hretire, hclose, Laws.modCar_modCar s.slotPast b n p g hpn]; rfl
  · obtain ⟨⟨ep, hep⟩, -⟩ := hg (p d)
    exact (congrArg Caravan.n hep).trans (hpn d)
  · obtain ⟨⟨ep, hep⟩, -⟩ := hg (p c)
    refine ⟨(p c).fix, (p c).nextIssue, ep, (p c).multi, hep.trans ?_⟩
    simp only [p, steppedPast, Caravan.past, Laws.cstAfter_none hsched, Laws.hintYield_none hsched, Bool.false_eq_true, if_false]

section
variable {s u : State} {x : Block} {c d : Caravan} {hs : List W32} {o : Op} {eff : Who → List W32 → State → Res}

/-- Caravan n of block b runs on. -/
abbrev runsOn (u : State) (b n : Nat) : State := u.modCar b n fun z => { z with status := .running }

theorem car?_runsOn {b n : Nat} (hu : u.car? b n = some d) : (runsOn u b n).car? b n = some { d with status := .running } :=
  (Laws.car?_state_modCar u b n (fun z => { z with status := .running }) fun _ => rfl).trans (congrArg _ hu)

/-- The issue of a word whose checks pass, once its effect is done: the word retires. -/
theorem issue_retires (ht : Turn s x c hs) (hsched : hintOf hs 0x7F = none) (hseed : hintSeed hs = none) {ck : Bool}
    (hdst : o.dst.length ≤ 1 ∨ s.prepare s.cur o hs = s) (hchk : checkIssue s s.cur o = none) (hag : o.again = false)
    (heff : (if o.perThread || s.condTrue s.cur o.pr (hintNegp hs) then eff s.cur hs s else .ok s none false) = .ok u none ck)
    (hu : u.car? x.id c.n = some d) (hlive : d.status ≠ .ended) :
    ∃ o', issue o eff s = .next ((runsOn u x.id c.n).retire (.car x.id c.n) o' hs (c.regs.pc.toNat + 4) s ck) := by
  have hc : s.car? x.id c.n = some c := by simp [State.car?, ht.block, ht.car]
  have hstatus : s.statusOf s.cur = some c.status := by rw [ht.cur]; simp [State.statusOf, hc]
  have hhints : s.hintsOf s.cur = hs := by rw [ht.cur]; simp [State.hintsOf, hc, ht.group]
  have hpc : s.pcOf s.cur = c.regs.pc.toNat := by rw [ht.cur]; simp [State.pcOf, hc]
  have hfix : s.fixOf s.cur = [] := by rw [ht.cur]; simp [State.fixOf, hc, ht.spaced]
  have hprep : s.prepare s.cur o hs = s := hdst.elim (Laws.prepare_plain ht o hsched) id
  obtain ⟨o', h⟩ := Laws.issue_plain hstatus hhints hfix hseed hprep hchk (by rw [hag, Bool.false_and]) heff
  have hafter : statusAfter (u.statusOf (.car x.id c.n)) = .running := by
    simp only [State.statusOf, hu, Option.map_some]
    cases hd : d.status with
    | ended => exact absurd hd hlive
    | running => rfl
    | waiting => rfl
  rw [hpc, ht.cur, hafter] at h
  exact ⟨o', h⟩

theorem pc_past (c : Caravan) : (BitVec.ofNat 64 (c.regs.pc.toNat + 4) : Word) = c.regs.pc + 4 :=
  BitVec.eq_of_toNat_eq (by simp)

/-- An issue of a caravan that awaits nothing, and whose effect asks for no checkpoint. -/
theorem issue_held (ht : Turn s x c hs) (hsched : hintOf hs 0x7F = none) (hseed : hintSeed hs = none)
    (hdst : o.dst.length ≤ 1 ∨ s.prepare s.cur o hs = s) (hchk : checkIssue s s.cur o = none) (hag : o.again = false)
    (heff : (if o.perThread || s.condTrue s.cur o.pr (hintNegp hs) then eff s.cur hs s else .ok s none false) = .ok u none false)
    (hu : u.car? x.id c.n = some d) (hlive : d.status ≠ .ended) (hpend : ∀ e ∈ d.epochs, e.pend = []) :
    ∃ (g : Caravan → Caravan) (ag : List Instr), issue o eff s = .next { u.modCar x.id c.n g with clk := u.clk + 2, agenda := ag } ∧
      (∀ z, (g z).n = z.n) ∧ Retired { d with status := .running } (g d) (c.regs.pc.toNat + 4) := by
  obtain ⟨o', h⟩ := issue_retires ht hsched hseed hdst hchk hag heff hu hlive
  obtain ⟨g, ag, hr, hgn, hgc⟩ := retire_held _ s x.id c.n _ o' hs (c.regs.pc.toNat + 4) (car?_runsOn hu) hsched hpend
  refine ⟨fun z => g { z with status := .running }, ag, ?_, fun z => hgn _, hgc⟩
  rw [h, hr, Laws.modCar_modCar u x.id c.n (fun z => { z with status := .running }) g fun _ => rfl]; rfl

/-- What such an issue makes of a caravan that holds nothing, asking for a checkpoint or not. -/
theorem issue_quiet (ht : Turn s x c hs) (hsched : hintOf hs 0x7F = none) (hseed : hintSeed hs = none) {ck : Bool}
    (hdst : o.dst.length ≤ 1 ∨ s.prepare s.cur o hs = s) (hchk : checkIssue s s.cur o = none) (hag : o.again = false)
    (heff : (if o.perThread || s.condTrue s.cur o.pr (hintNegp hs) then eff s.cur hs s else .ok s none false) = .ok u none ck)
    {r : CRegs} (hu : u.car? x.id c.n = some { d with regs := r }) (hd : StaysQuiet c d) (hr : r.pc = c.regs.pc) :
    ∃ (g : Caravan → Caravan) (ag : List Instr), issue o eff s = .next { u.modCar x.id c.n g with clk := u.clk + 2, agenda := ag } ∧
      (∀ z, (g z).n = z.n) ∧ CarIs { u.modCar x.id c.n g with clk := u.clk + 2, agenda := ag } x c (past r) := by
  obtain ⟨ep, rb, esc, k, hd, hk, hep⟩ := hd
  subst hd
  obtain ⟨o', h⟩ := issue_retires ht hsched hseed hdst hchk hag heff hu ht.live
  obtain ⟨g, ag, hretire, hgn, fx, ni, ep', rb', esc', k', mu, hg, hk'⟩ := Laws.retire_quiet _ s x.id c.n _ o' hs (c.regs.pc.toNat + 4) ck
    (car?_runsOn hu) hsched (fun e he => (hep e he).1) (fun e he => (hep e he).2)
  refine ⟨fun z => g { z with status := .running }, ag, ?_, fun z => hgn _,
    g { c with regs := r, epochs := ep, rbCur := rb, rbEsc := esc, cst := k, status := .running }, ?_, ?_⟩
  · rw [h, hretire, Laws.modCar_modCar u x.id c.n (fun z => { z with status := .running }) g fun _ => rfl]; rfl
  · exact (Laws.car?_state_modCar u x.id c.n (fun z => g { z with status := .running }) fun z => hgn _).trans (congrArg _ hu)
  · rw [hg]
    refine ⟨?_, rfl, rfl, hk'.trans hk, rfl, rfl, rfl, rfl, rfl, rfl⟩
    simp only [past, pc_past, hr]

theorem level_contains {hs : List W32} (ht : Turn s x c hs) : [0, 1, 2].contains c.plv = true := by
  have hle := ht.level
  have h3 : c.plv = 0 ∨ c.plv = 1 ∨ c.plv = 2 := by omega
  obtain h | h | h := h3 <;> rw [h] <;> rfl

theorem regOk_u (r : BitVec 6) : regOk false (.u r.toNat) = true := decide_eq_true r.isLt

theorem regOk_v (k : Nat) : regOk false (.v k) = true := rfl

variable {p : Option (BitVec 25)} {neg : Bool} {pr : BitVec 3}

/-- NEGP comes with a condition that it negates (R154). -/
theorem pr_ne_of_negp (hneg : pr = 7 → neg = false) (hopr : o.pr = pr.toNat) (hn : neg = true) : o.pr ≠ 7 := fun h7 => by
  rw [hneg (BitVec.eq_of_toNat_eq (hopr.symm.trans h7))] at hn
  cases hn

/-- The issue of a once-only word under a group it takes, by s registers, passes the checks before its operands'. -/
theorem checkIssue_once (ht : Turn s x c (immGroup p ++ negpGroup neg)) (hcond : condOk pr neg) (hopr : o.pr = pr.toNat)
    (himm : p.isSome = true → o.imm = true) (hnegp : o.negp = true) (hok : o.ok = true) (hnames : s.namesOk s.cur o = true)
    (hregs : o.regs.all (regOk false) = true) (hv : ∀ k, Reg.v k ∉ o.regs) (hrole : o.roleTrap = false)
    (hrole' : (if c.vector then o.vector else o.porter) = true) (hlevels : o.levels = [0, 1, 2]) : checkIssue s s.cur o = none := by
  obtain ⟨hpr, hneg⟩ := hcond
  have hpr' : o.pr < 4 ∨ 6 < o.pr := hopr ▸ hpr.symm.imp id fun h => by rw [h]; decide
  have hhints := Laws.accepts_imm o false p neg himm fun hn => ⟨hnegp, pr_ne_of_negp hneg hopr hn⟩
  exact Laws.checkIssue_car ht o hhints hok hnames hregs (.inr hpr') hrole hrole' (hlevels ▸ level_contains ht) fun k hk => absurd hk (hv k)

/-- Such a word acts where its condition holds. -/
theorem acts_once (ht : Turn s x c (immGroup p ++ negpGroup neg)) (hholds : condHolds c.regs.c pr neg = true) (hopr : o.pr = pr.toNat) :
    (o.perThread || s.condTrue s.cur o.pr (hintNegp (immGroup p ++ negpGroup neg))) = true := by
  rw [Laws.immMod_negp, hopr, Laws.condTrue_car ht, hholds, Bool.or_true]

end

end Sys2Proof
end

section
/-! SUPPORT. What a load or a store that is not slow makes of the state: caches and translations of cores, what waits, and epochs. -/
namespace Sys2Proof
open Sys2Proof.Machine Sys2Proof.Claims

/-! ## Caches and translations -/

/-- A core but for its L1, its constants and its translations. -/
def bare (k : CoreSt) : CoreSt := { k with l1 := [], consts := [], tlb := [] }

/-- Only L1s, constants and translations of cores, and what waits, have changed. -/
def CachesMove (s u : State) : Prop := ∃ cs ag, u = { s with cores := cs, agenda := ag } ∧ cs.map bare = s.cores.map bare

theorem CachesMove.refl (s : State) : CachesMove s s := ⟨s.cores, s.agenda, rfl, rfl⟩

theorem CachesMove.trans {s u v : State} (h : CachesMove s u) (h' : CachesMove u v) : CachesMove s v := by
  obtain ⟨cs, ag, rfl, hcs⟩ := h
  obtain ⟨cs', ag', rfl, hcs'⟩ := h'
  exact ⟨cs', ag', rfl, hcs'.trans hcs⟩

theorem CachesMove.modCar {s u : State} (h : CachesMove s u) (b n : Nat) (g : Caravan → Caravan) :
    CachesMove (s.modCar b n g) (u.modCar b n g) := by
  obtain ⟨cs, ag, rfl, hcs⟩ := h
  exact ⟨cs, ag, rfl, hcs⟩

theorem cachesMove_foldl {α : Type} (step : State → α → State) (h : ∀ u a, CachesMove u (step u a)) (l : List α) (s : State) :
    CachesMove s (l.foldl step s) :=
  List.foldlRecOn (motive := CachesMove s) l step (.refl s) fun u hu a _ => hu.trans (h u a)

theorem cachesMove_queueEvent (s : State) (i : Instr) : CachesMove s (s.queueEvent i) := ⟨s.cores, _, rfl, rfl⟩

theorem cachesMove_modCore (s : State) (core : Nat) {f : CoreSt → CoreSt} (hf : ∀ k, bare (f k) = bare k) : CachesMove s (s.modCore core f) := by
  refine ⟨_, s.agenda, rfl, ?_⟩
  rw [List.map_map]
  refine List.map_congr_left fun k _ => ?_
  simp only [Function.comp]
  split
  · exact hf k
  · rfl

theorem cachesMove_request (s : State) (core : Nat) (g : Seg) (own : Bool) : CachesMove s (s.request core g own) := by
  have hline : ∀ (u : State) (x : Nat × Nat × Nat), CachesMove u (u.requestLine core x.1 x.2.1 x.2.2 own) := fun u x => by
    unfold State.requestLine
    split
    · exact .refl u
    · exact cachesMove_queueEvent u _
  unfold State.request
  split
  · split
    · exact cachesMove_foldl _ hline _ s
    · exact .refl s
  · exact .refl s

theorem cachesMove_cleanRoom {s u : State} {core line : Nat} (h : s.cleanRoom core line = some u) : CachesMove s u := by
  unfold State.cleanRoom at h
  dsimp only at h
  split at h
  · cases h
    exact cachesMove_modCore s core fun _ => rfl
  · cases h

theorem cachesMove_keepLine (s : State) (core : Nat) (g : Seg) (bypass : Bool) : CachesMove s (s.keepLine core g bypass) := by
  unfold State.keepLine
  split
  · split
    · refine cachesMove_foldl _ (fun u line => ?_) _ s
      split
      · exact cachesMove_modCore u core fun _ => rfl
      · split
        · exact .refl u
        · split
          next v hv =>
            generalize v.lineBytes line = bs
            exact (cachesMove_cleanRoom hv).trans (cachesMove_modCore v core fun _ => rfl)
          · exact .refl u
    · exact .refl s
  · exact .refl s

theorem cachesMove_fillTlb (s : State) (core vf proc va : Nat) : CachesMove s (s.fillTlb core vf proc va) := by
  unfold State.fillTlb
  split
  · exact .refl s
  · split
    · exact .refl s
    · split
      · exact cachesMove_modCore s core fun _ => rfl
      · exact .refl s

theorem cachesMove_cacheRead (s : State) (w : Who) (bypass : Bool) (g : Seg) : CachesMove s (s.cacheRead w bypass g) := by
  have h := (cachesMove_request s (s.coreOf w) g false).trans (cachesMove_keepLine _ (s.coreOf w) g bypass)
  unfold State.cacheRead
  dsimp only
  split
  · exact h.trans (cachesMove_fillTlb _ _ _ _ _)
  · exact h

theorem cachesMove_keepConstSeg (s : State) (w : Who) (launch : Nat) (g : Seg) : CachesMove s (s.keepConstSeg w launch g) := by
  have hkeep : ∀ (u : State) (core line : Nat), CachesMove u (u.keepConst core launch line) := fun u core line => by
    unfold State.keepConst
    generalize u.lineBytes line = bs
    refine cachesMove_modCore u core fun k => ?_
    split <;> rfl
  unfold State.keepConstSeg
  split
  · split
    · exact .refl s
    · refine cachesMove_foldl _ (fun u line => ?_) _ s
      split
      · exact hkeep u _ line
      · exact .refl u
  · exact .refl s

theorem cachesMove_evictFor (s : State) (core : Nat) (new : List Nat) : CachesMove s (s.evictFor core new) :=
  cachesMove_foldl _ (fun u _ => cachesMove_queueEvent u _) _ s

/-! ## Epochs -/

/-- A change of a caravan's epochs alone: no pending result changes, and the caravan holds the operations hs besides. -/
def AddsHeld (hs : List Held) (g : Caravan → Caravan) : Prop := ∀ d, ∃ ep, g d = { d with epochs := ep } ∧
  ep.map (·.pend) = d.epochs.map (·.pend) ∧ (d.epochs ≠ [] → ep.flatMap (·.acts) = d.epochs.flatMap (·.acts) ++ hs)

theorem addsHeld_id : AddsHeld [] id := fun d => ⟨d.epochs, rfl, rfl, fun _ => (List.append_nil _).symm⟩

theorem AddsHeld.n {hs : List Held} {g : Caravan → Caravan} (h : AddsHeld hs g) (d : Caravan) : (g d).n = d.n := by
  obtain ⟨ep, hg, -⟩ := h d
  rw [hg]

theorem AddsHeld.pend {hs : List Held} {g : Caravan → Caravan} (h : AddsHeld hs g) {d : Caravan} (hd : ∀ e ∈ d.epochs, e.pend = []) :
    ∀ e ∈ (g d).epochs, e.pend = [] := fun e he => by
  obtain ⟨ep, hg, hpend, -⟩ := h d
  rw [hg] at he
  obtain ⟨e', he', heq⟩ := List.mem_map.mp (hpend ▸ List.mem_map_of_mem (f := Epoch.pend) he)
  exact heq.symm.trans (hd e' he')

theorem AddsHeld.held {hs : List Held} {g : Caravan → Caravan} (h : AddsHeld hs g) {d : Caravan} (hd : d.epochs ≠ []) :
    (g d).held = d.held ++ hs := by
  obtain ⟨ep, hg, -, hacts⟩ := h d
  rw [hg]
  exact (congrArg (d.late ++ ·) (hacts hd)).trans (List.append_assoc ..).symm

theorem AddsHeld.comp {hs hs' : List Held} {g g' : Caravan → Caravan} (h : AddsHeld hs g) (h' : AddsHeld hs' g') :
    AddsHeld (hs ++ hs') fun d => g' (g d) := fun d => by
  obtain ⟨ep, hg, hpend, hacts⟩ := h d
  obtain ⟨ep', hg', hpend', hacts'⟩ := h' (g d)
  rw [hg] at hg' hpend' hacts'
  refine ⟨ep', by simp only [hg, hg'], hpend'.trans hpend, fun hd => ?_⟩
  have hne : ep ≠ [] := fun h0 => hd (List.map_eq_nil_iff.mp (hpend.symm.trans (by rw [h0]; rfl)))
  rw [hacts' hne, hacts hd, List.append_assoc]

theorem map_pend_last (es : List Epoch) {f : Epoch → Epoch} (hf : ∀ e, (f e).pend = e.pend) :
    (es.dropLast ++ (es.getLast?.map f).toList).map (·.pend) = es.map (·.pend) := by
  cases h : es.getLast? with
  | none => simp [List.getLast?_eq_none_iff.mp h]
  | some e =>
    conv_rhs => rw [← List.dropLast_append_getLast? e h]
    simp [hf]

theorem addsHeld_last {hs : List Held} {f : Epoch → Epoch} (hpend : ∀ e, (f e).pend = e.pend) (hacts : ∀ e, (f e).acts = e.acts ++ hs) :
    AddsHeld hs fun d => { d with epochs := d.epochs.dropLast ++ (d.epochs.getLast?.map f).toList } := fun d =>
  ⟨_, rfl, map_pend_last d.epochs hpend, fun hd => flatMap_acts_last d.epochs f hacts (.inl hd)⟩

/-! ## Accesses -/

/-- What accesses of caravan n of block b make of the state where it holds the operations hs besides. -/
def Accessed (b n : Nat) (hs : List Held) (s u : State) : Prop := ∃ g, AddsHeld hs g ∧ CachesMove (s.modCar b n g) u

theorem CachesMove.accessed {s u : State} (h : CachesMove s u) (b n : Nat) : Accessed b n [] s u :=
  ⟨id, addsHeld_id, (modCar_id s b n).symm ▸ h⟩

theorem Accessed.trans {b n : Nat} {hs hs' : List Held} {s u v : State} (h : Accessed b n hs s u) (h' : Accessed b n hs' u v) :
    Accessed b n (hs ++ hs') s v := by
  obtain ⟨g, hg, hu⟩ := h
  obtain ⟨g', hg', hv⟩ := h'
  exact ⟨_, hg.comp hg', Laws.modCar_modCar s b n g g' hg.n ▸ (hu.modCar b n g').trans hv⟩

theorem Accessed.caches {b n : Nat} {hs : List Held} {s u v : State} (h : Accessed b n hs s u) (h' : CachesMove u v) : Accessed b n hs s v := by
  obtain ⟨g, hg, hu⟩ := h
  exact ⟨g, hg, hu.trans h'⟩

theorem accessed_foldl {α : Type} {b n : Nat} (held : α → List Held) (step : State → α → State) (l : List α)
    (h : ∀ a ∈ l, ∀ u, Accessed b n (held a) u (step u a)) (s : State) : Accessed b n (l.flatMap held) s (l.foldl step s) := by
  induction l generalizing s with
  | nil => exact (CachesMove.refl s).accessed b n
  | cons a l ih =>
    rw [List.flatMap_cons, List.foldl_cons]
    exact (h a (List.mem_cons_self ..) s).trans (ih (fun a' ha' => h a' (List.mem_cons_of_mem _ ha')) _)

theorem accessed_foldl_nil {α : Type} {b n : Nat} (step : State → α → State) (l : List α)
    (h : ∀ a ∈ l, ∀ u, Accessed b n [] u (step u a)) (s : State) : Accessed b n [] s (l.foldl step s) := by
  have := accessed_foldl (fun _ : α => []) step l h s
  rwa [List.flatMap_eq_nil_iff.mpr fun _ _ => rfl] at this

theorem accessed_foldl_map {α : Type} {b n : Nat} (held : α → Held) (step : State → α → State) (l : List α)
    (h : ∀ a ∈ l, ∀ u, Accessed b n [held a] u (step u a)) (s : State) : Accessed b n (l.map held) s (l.foldl step s) := by
  rw [List.map_eq_flatMap]
  exact accessed_foldl (fun a => [held a]) step l h s

theorem accessed_modEpoch (s : State) (b n : Nat) {hs : List Held} (f : Epoch → Epoch) (hpend : ∀ e, (f e).pend = e.pend)
    (hacts : ∀ e, (f e).acts = e.acts ++ hs) : Accessed b n hs s (s.modEpoch b n f) :=
  ⟨_, addsHeld_last hpend hacts, .refl _⟩

theorem accessed_afterRead (s : State) (b n : Nat) (bypass : Bool) (g : Seg) : Accessed b n [] s (s.afterRead (.car b n) bypass g) := by
  have hmark : Accessed b n [] s (if marked g then s.modEpoch b n (fun e => { e with marks := addAll (wordsFrom g.loc g.len) e.marks }) else s) := by
    split
    · exact accessed_modEpoch s b n _ (fun _ => rfl) fun e => (List.append_nil e.acts).symm
    · exact (CachesMove.refl s).accessed b n
  exact hmark.caches (cachesMove_cacheRead _ _ _ _)

/-- What a store of bytes at a segment holds. -/
def storeOf (g : Seg) (bs : List Byte) : Held :=
  .store g.loc bs (match g.leaf with | some f => f.secondOf g.va | none => none) (match g.leaf with | some f => f.tracked | none => true)

theorem accessed_holdStore (s : State) (b n : Nat) (g : Seg) (bs : List Byte) :
    Accessed b n [storeOf g bs] s (s.holdStore (.car b n) g bs) := by
  have hheld : Accessed b n [storeOf g bs] s (s.hold (.car b n) (storeOf g bs)) :=
    accessed_modEpoch s b n (fun e => { e with acts := e.acts ++ [storeOf g bs] }) (fun _ => rfl) fun _ => rfl
  have hreq := hheld.caches (cachesMove_request _ (s.coreOf (.car b n)) g true)
  unfold State.holdStore
  cases hl : g.leaf with
  | none => simp only [storeOf, hl] at hreq ⊢; exact hreq
  | some l => simp only [storeOf, hl] at hreq ⊢; exact hreq.caches (cachesMove_fillTlb _ _ _ _ _)

end Sys2Proof
end

section
/-! SUPPORT. Uniform and constant accesses (R70, R71, R225, R226). -/
namespace Sys2Proof
open Sys2Proof.Machine Sys2Proof.Claims

/-! ## The frame of an access -/

theorem core?_of_bare {s : State} {cs : List CoreSt} (h : cs.map bare = s.cores.map bare) (k : Nat) :
    (cs.find? fun z => z.id == k).map bare = (s.core? k).map bare := by
  have hfind : ∀ l : List CoreSt, (l.map bare).find? (fun z => z.id == k) = (l.find? fun z => z.id == k).map bare := fun l => List.find?_map
  rw [← hfind cs, h, hfind s.cores]; rfl

/-- A state changed in one caravan, and in what accesses may touch besides. -/
theorem accessFrame_of_caches {s u : State} {x : Block} {c : Caravan} {g : Caravan → Caravan} (hb : s.block? x.id = some x)
    (hg : ∀ d, (g d).n = d.n) (h : CachesMove (s.modCar x.id c.n g) u) (clk : Nat) (ag : List Instr) :
    AccessFrame s { u with clk := clk, agenda := ag } x c ∧ BytesKept s { u with clk := clk, agenda := ag } := by
  obtain ⟨cs, ag', rfl, hcs⟩ := h
  refine ⟨⟨rfl, fun k hk => ?_, ⟨x.modCar c.n g, ?_, rfl, fun k hk => Laws.car?_modCar_other x c.n k g hg hk⟩,
    core?_of_bare hcs⟩, rfl, fun l => ?_⟩
  · exact Laws.block?_modBlock_other s x.id k (fun y => y.modCar c.n g) (fun _ => rfl) hk
  · exact (Laws.block?_modBlock s x.id (fun y => y.modCar c.n g) fun _ => rfl).trans (by rw [hb]; rfl)
  · exact Laws.peek_modCar s x.id c.n clk ag g l

/-! ## Effects that are not slow -/

section
variable {s : State} {x : Block} {c : Caravan} {want : Want} {lanes : List (Nat × Nat)}

theorem afterBinds_unbound (h : Unbound s) : s.afterBinds s.cur = s := if_neg (by rw [h]; decide)

theorem loadAt_plain (hcur : s.cur = .car x.id c.n) {d : Dest} (h : LoadOk s want lanes d.whole) (bypass : Bool) :
    ∃ u, Accessed x.id c.n [] s u ∧ loadAt want lanes d bypass s.cur s = .ok (u.writeDest s.cur d
      ((s.checkLanes s.cur want lanes d.whole).2.map fun l => (l.1, s.laneValue s.cur want.decode l.2))) none false := by
  obtain ⟨hchecks, hmmio, hstream, hfree, hreach, hio, hbinds, hlines⟩ := h
  have hread : ∀ segs : List (Nat × List Seg), Accessed x.id c.n [] s
      (segs.foldl (fun st l => (st.fetched s.cur want.decode l.2).foldl (fun st g => st.afterRead s.cur bypass g) st) s) := fun segs => by
    exact accessed_foldl_nil _ segs (fun l _ u => accessed_foldl_nil _ _ (fun g _ v => hcur ▸ accessed_afterRead v x.id c.n bypass g) u) s
  refine ⟨_, hread (s.checkLanes s.cur want lanes d.whole).2, ?_⟩
  unfold loadAt
  simp only [hio, afterBinds_unbound hbinds, hchecks, hmmio, hstream, hfree, hlines, Bool.or_self, Bool.false_eq_true, if_false, hreach]

/-- The launch a constant load reads as, 0 for none. -/
def constLaunch (s : State) : Nat := ((s.launchOf s.cur).map (·.id)).getD 0

theorem constAt_plain (x : Block) (c : Caravan) {size : Nat} {d : Dest} (hbinds : Unbound s)
    (hchecks : (s.checkLanes s.cur { read := true, const := true, size := size } lanes d.whole).1 = none)
    (hmmio : anyMmio (s.checkLanes s.cur { read := true, const := true, size := size } lanes d.whole).2 = false)
    (hreach : s.reachTrap s.cur (s.checkLanes s.cur { read := true, const := true, size := size } lanes d.whole).2 true d.whole
      (fun _ => false) = none) :
    ∃ u, Accessed x.id c.n [] s u ∧ constAt size lanes d s.cur s = .ok (u.writeDest s.cur d
      ((s.checkLanes s.cur { read := true, const := true, size := size } lanes d.whole).2.map fun l =>
        (l.1, leNat (l.2.flatMap (s.constSeg s.cur (constLaunch s)))))) none false := by
  have hkeep : ∀ segs : List (Nat × List Seg), CachesMove s
      (segs.foldl (fun st l => l.2.foldl (fun st g => st.keepConstSeg s.cur (constLaunch s) g) st) s) := fun segs =>
    cachesMove_foldl _ (fun u l => cachesMove_foldl _ (fun v g => cachesMove_keepConstSeg v s.cur (constLaunch s) g) l.2 u) segs s
  refine ⟨_, (hkeep (s.checkLanes s.cur { read := true, const := true, size := size } lanes d.whole).2).accessed x.id c.n, ?_⟩
  unfold constAt
  simp only [afterBinds_unbound hbinds, hchecks, hmmio, hreach, Bool.false_eq_true, if_false]
  unfold constLaunch
  cases s.launchOf s.cur <;> rfl

theorem not_mmio_of_anyMmio {segs : List (Nat × List Seg)} (h : anyMmio segs = false) {l : Nat × List Seg} (hl : l ∈ segs) {g : Seg}
    (hg : g ∈ l.2) {pa : Nat} (hpa : g.loc = .glob pa) : (kindOf pa == .mmio) = false := by
  have := List.any_eq_false.mp h l hl
  have := List.any_eq_false.mp (Bool.eq_false_of_not_eq_true this) g hg
  simpa [hpa] using this

theorem storeAt_plain (hcur : s.cur = .car x.id c.n) {data : Nat → Nat} {whole : Bool} (h : StoreOk s want lanes whole) :
    ∃ u, Accessed x.id c.n ((s.checkLanes s.cur want lanes whole).2.flatMap fun l => l.2.map fun g =>
        storeOf g (((leBytes want.size (data l.1)).drop g.off).take g.len)) s u ∧
      storeAt want lanes data whole s.cur s = .ok u none false := by
  obtain ⟨hchecks, hmmio, hstream, hfree, hreach, hio, hbinds, hlines, hroom⟩ := h
  unfold storeAt
  simp only [hio, afterBinds_unbound hbinds, hchecks, hmmio, hstream, hfree, hreach, hlines, Nat.not_lt.mpr hroom, decide_false,
    Bool.or_self, Bool.false_eq_true, if_false]
  refine ⟨_, Accessed.caches (accessed_foldl _ _ _ (fun l hl u => ?_) s) (cachesMove_evictFor _ _ _), rfl⟩
  refine accessed_foldl_map _ _ l.2 (fun g hg v => ?_) u
  have hstore := accessed_holdStore v x.id c.n g (((leBytes want.size (data l.1)).drop g.off).take g.len)
  rw [← hcur] at hstore
  split
  next pa hpa => rw [if_neg (by rw [not_mmio_of_anyMmio hmmio hl hg hpa]; decide)]; exact hstore
  · exact hstore


/-! ## Their issue -/

theorem offAddr_turn {p : Option (BitVec 25)} {neg : Bool} (ht : Turn s x c (immGroup p ++ negpGroup neg)) (f : FmtR) (t : Nat) :
    s.offAddr s.cur (immGroup p ++ negpGroup neg) f.a.toNat f.b.toNat (memBytes f) t = laneAddr c f p true t := by
  have hoff : BitVec.ofInt 64 ((offsetValue (immGroup p ++ negpGroup neg) f.b.toNat + t) * memBytes f) =
      (offV p f.b + BitVec.ofNat 64 t) * BitVec.ofNat 64 (2 ^ f.sz.toNat) := by
    rw [BitVec.ofInt_mul, BitVec.ofInt_add, Laws.offsetValue_eq]
    rfl
  simp only [State.offAddr, Laws.urd_car ht, hoff, laneAddr, if_true]

/-- What an access makes of the state: the caravan, whose registers become r, holds the operations hs besides. -/
theorem issue_access {hs : List W32} (ht : Turn s x c hs) (hsched : hintOf hs 0x7F = none) (hseed : hintSeed hs = none) {o : Op}
    {eff : Who → List W32 → State → Res} (hdst : o.dst.length ≤ 1) (hchk : checkIssue s s.cur o = none) (hag : o.again = false)
    {u : State} {held : List Held} (hu : Accessed x.id c.n held s u) (write : Caravan → CRegs) {r : CRegs}
    (hwrite : ∀ ep, write { c with epochs := ep } = r) (hpc : r.pc = c.regs.pc)
    (heff : (if o.perThread || s.condTrue s.cur o.pr (hintNegp hs) then eff s.cur hs s else .ok s none false) =
      .ok (u.modCar x.id c.n fun d => { d with regs := write d }) none false) :
    ∃ t, issue o eff s = .next t ∧ BytesKept s t ∧ AccessFrame s t x c ∧ CarIs t x c (past r) ∧
      ∃ d, t.car? x.id c.n = some d ∧ d.held = c.held ++ held := by
  have hc : s.car? x.id c.n = some c := by simp [State.car?, ht.block, ht.car]
  obtain ⟨g, hg, hu⟩ := hu
  obtain ⟨ep, hgc, -⟩ := id (hg c)
  let w : Caravan → Caravan := fun d => { g d with regs := write (g d) }
  have hwn : ∀ d, (w d).n = d.n := hg.n
  have hmoved : CachesMove (s.modCar x.id c.n w) (u.modCar x.id c.n fun d => { d with regs := write d }) :=
    Laws.modCar_modCar s x.id c.n g (fun d => { d with regs := write d }) hg.n ▸ hu.modCar x.id c.n _
  have hcar : ∀ {v : State} {f : Caravan → Caravan}, CachesMove (s.modCar x.id c.n f) v → (∀ d, (f d).n = d.n) →
      v.car? x.id c.n = some (f c) := by
    rintro v f ⟨cs, ag, rfl, -⟩ hf
    exact (Laws.car?_state_modCar s x.id c.n f hf).trans (congrArg _ hc)
  obtain ⟨g2, ag, hissue, hg2n, hretired, hheld⟩ := issue_held ht hsched hseed (.inl hdst) hchk hag heff (hcar hmoved hwn)
    (by simp only [w, hgc]; exact ht.live) (hg.pend ht.settled)
  have hlast : CachesMove (s.modCar x.id c.n fun d => g2 (w d)) ((u.modCar x.id c.n fun d => { d with regs := write d }).modCar x.id c.n g2) :=
    Laws.modCar_modCar s x.id c.n w g2 hwn ▸ hmoved.modCar x.id c.n g2
  have hgn : ∀ d, (g2 (w d)).n = d.n := fun d => (hg2n _).trans (hwn d)
  obtain ⟨hframe, hbytes⟩ := accessFrame_of_caches ht.block hgn hlast (u.clk + 2) ag
  refine ⟨_, hissue, hbytes, hframe, ⟨g2 (w c), hcar hlast hgn, ?_⟩, g2 (w c), hcar hlast hgn, hheld.trans (hg.held ht.opened)⟩
  obtain ⟨fx, ni, ep', mu, hd⟩ := hretired
  rw [hd]
  refine ⟨?_, rfl, rfl, ?_, ?_, ?_, ?_, ?_, ?_, ?_⟩
  · simp only [w, hgc, hwrite, past, pc_past, hpc]
  all_goals simp only [w, hgc]

/-! ## The obligation's clauses -/

variable {p : Option (BitVec 25)} {neg : Bool} {f : FmtR}

/-- The value of the one lane of an access goes to a uniform register. -/
theorem writeDest_one (hcur : s.cur = .car x.id c.n) (u : State) (want : Want) (r a : Nat) (value : List Seg → Nat) :
    u.writeDest s.cur (.u r) ((s.checkLanes s.cur want [(0, a)] true).2.map fun l => (l.1, value l.2)) = u.modCar x.id c.n fun d =>
      { d with regs := d.regs.wr d.plv r (valueOf ((s.checkLanes s.cur want [(0, a)] true).2.map fun l => (l.1, value l.2)) 0) } := by
  rw [hcur]; rfl

/-- The values of an access's lanes go to a vector register. -/
theorem writeDest_lanes (hcur : s.cur = .car x.id c.n) (u : State) (r : Nat) (mask : W32) (vals : List (Nat × Nat)) :
    u.writeDest s.cur (.v r mask) vals = u.modCar x.id c.n fun d => { d with regs := d.regs.wrV r mask (vtab (valueOf vals)) } := by
  rw [hcur]; rfl

theorem wr_pc (r : CRegs) (plv k : Nat) (v : Word) : (r.wr plv k v).pc = r.pc := by
  unfold CRegs.wr
  split
  · rfl
  · split <;> rfl

/-- A once-only access under a condition that holds. -/
theorem issue_access_once (ht : Turn s x c (immGroup p ++ negpGroup neg)) (hcond : condOk f.pr neg)
    (hholds : condHolds c.regs.c f.pr neg = true) (word : W32) {dst src : List Reg} {eff : Who → List W32 → State → Res}
    (hv : ∀ k, Reg.v k ∉ dst ++ src) (hok : (dst ++ src).all (regOk false) = true) (hdst : dst.length ≤ 1)
    {u : State} {held : List Held} (hu : Accessed x.id c.n held s u) (write : Caravan → CRegs) {r : CRegs}
    (hwrite : ∀ ep, write { c with epochs := ep } = r) (hpc : r.pc = c.regs.pc)
    (heff : eff s.cur (immGroup p ++ negpGroup neg) s = .ok (u.modCar x.id c.n fun d => { d with regs := write d }) none false) :
    ∃ t, issue (opM word f false true dst src) eff s = .next t ∧ BytesKept s t ∧ AccessFrame s t x c ∧ CarIs t x c (past r) ∧
      ∃ d, t.car? x.id c.n = some d ∧ d.held = c.held ++ held := by
  have hchk : checkIssue s s.cur (opM word f false true dst src) = none :=
    checkIssue_once ht hcond rfl (fun _ => rfl) rfl rfl (Laws.namesOk_none s _ _ rfl rfl rfl) hok hv rfl (by split <;> rfl) rfl
  exact issue_access ht (Laws.immMod_sched p neg) (Laws.immMod_seed p neg) hdst hchk rfl hu write hwrite hpc
    ((if_pos (acts_once ht hholds rfl)).trans heff)

theorem uniformLoad (ht : Turn s x c (immGroup p ++ negpGroup neg)) (hcond : condOk f.pr neg) (hholds : condHolds c.regs.c f.pr neg = true)
    (h : LoadOk s { read := true, decode := true, size := 2 ^ f.sz.toNat } [(0, laneAddr c f p true 0)] true) :
    ∃ t, exec (.ldu f) s = .next t ∧ BytesKept s t ∧ AccessFrame s t x c ∧ CarIs t x c (past (c.regs.wr c.plv f.d.toNat (valueOf
      ((s.checkLanes s.cur { read := true, decode := true, size := 2 ^ f.sz.toNat } [(0, laneAddr c f p true 0)] true).2.map
        fun l => (l.1, s.laneValue s.cur true l.2)) 0))) := by
  obtain ⟨u, hu, hload⟩ := loadAt_plain ht.cur (d := .u f.d.toNat) h (hintCp (immGroup p ++ negpGroup neg) == 2)
  replace hload := hload.trans (congrArg (Res.ok · none false) (writeDest_one ht.cur u _ f.d.toNat _ (s.laneValue s.cur true)))
  obtain ⟨t, hissue, hbytes, hframe, hcar, -⟩ := issue_access_once ht hcond hholds (0x98000000 ||| encodeFmtR f)
    (dst := [.u f.d.toNat]) (src := [.u f.a.toNat]) (eff := fun w hs s => loadAt { read := true, decode := true, size := memBytes f }
      [(0, s.offAddr w hs f.a.toNat f.b.toNat (memBytes f) 0)] (.u f.d.toNat) (hintCp hs == 2) w s)
    (by simp) (by simp [regOk_u]) (le_refl 1) hu (fun d => d.regs.wr d.plv f.d.toNat _) (r := c.regs.wr c.plv f.d.toNat _) (fun _ => rfl) (wr_pc ..)
    ((congrArg (fun a => loadAt { read := true, decode := true, size := memBytes f } [(0, a)] (.u f.d.toNat)
      (hintCp (immGroup p ++ negpGroup neg) == 2) s.cur s) (offAddr_turn ht f 0)).trans hload)
  exact ⟨t, hissue, hbytes, hframe, hcar⟩

theorem uniformStore (ht : Turn s x c (immGroup p ++ negpGroup neg)) (hcond : condOk f.pr neg) (hholds : condHolds c.regs.c f.pr neg = true)
    (h : StoreOk s { write := true, size := 2 ^ f.sz.toNat } [(0, laneAddr c f p true 0)] true) :
    ∃ t, exec (.stu f) s = .next t ∧ BytesKept s t ∧ AccessFrame s t x c ∧ CarIs t x c (past c.regs) ∧ ∃ d, t.car? x.id c.n = some d ∧
      d.held = c.held ++ heldStores (2 ^ f.sz.toNat)
        (s.checkLanes s.cur { write := true, size := 2 ^ f.sz.toNat } [(0, laneAddr c f p true 0)] true).2 fun _ => c.regs.rd c.plv f.d.toNat := by
  obtain ⟨u, hu, hstore⟩ := storeAt_plain ht.cur (data := fun _ => (c.regs.rd c.plv f.d.toNat).toNat) h
  exact issue_access_once ht hcond hholds (0x9A000000 ||| encodeFmtR f)
    (dst := []) (src := [.u f.d.toNat, .u f.a.toNat]) (eff := fun w hs s => storeAt { write := true, size := memBytes f }
      [(0, s.offAddr w hs f.a.toNat f.b.toNat (memBytes f) 0)] (fun _ => (s.urd w f.d.toNat).toNat) true w s)
    (by simp) (by simp [regOk_u]) (Nat.zero_le 1) hu (fun d => d.regs) (fun _ => rfl) rfl
    (by rw [offAddr_turn ht f 0, Laws.urd_car ht]; exact hstore.trans (congrArg (Res.ok · none false) (modCar_id u x.id c.n).symm))

theorem uniformConstantLoad (ht : Turn s x c (immGroup p ++ negpGroup neg)) (hcond : condOk f.pr neg)
    (hholds : condHolds c.regs.c f.pr neg = true) (hbinds : Unbound s) (want : Want)
    (hwant : want = { read := true, const := true, size := 2 ^ f.sz.toNat })
    (hchecks : (s.checkLanes s.cur want [(0, laneAddr c f p true 0)] true).1 = none)
    (hmmio : anyMmio (s.checkLanes s.cur want [(0, laneAddr c f p true 0)] true).2 = false)
    (hreach : s.reachTrap s.cur (s.checkLanes s.cur want [(0, laneAddr c f p true 0)] true).2 true true (fun _ => false) = none) :
    ∃ t, exec (.ldcU f) s = .next t ∧ BytesKept s t ∧ AccessFrame s t x c ∧ CarIs t x c (past (c.regs.wr c.plv f.d.toNat (valueOf
      ((s.checkLanes s.cur want [(0, laneAddr c f p true 0)] true).2.map fun l =>
        (l.1, leNat (l.2.flatMap (s.constSeg s.cur (constLaunch s))))) 0))) := by
  subst hwant
  obtain ⟨u, hu, hload⟩ := constAt_plain x c (d := .u f.d.toNat) hbinds hchecks hmmio hreach
  replace hload := hload.trans (congrArg (Res.ok · none false) (writeDest_one ht.cur u _ f.d.toNat _
    fun segs => leNat (segs.flatMap (s.constSeg s.cur (constLaunch s)))))
  obtain ⟨t, hissue, hbytes, hframe, hcar, -⟩ := issue_access_once ht hcond hholds (0xA6000000 ||| encodeFmtR f)
    (dst := [.u f.d.toNat]) (src := [.u f.a.toNat]) (eff := fun w hs s => constAt (memBytes f)
      [(0, s.offAddr w hs f.a.toNat f.b.toNat (memBytes f) 0)] (.u f.d.toNat) w s)
    (by simp) (by simp [regOk_u]) (le_refl 1) hu (fun d => d.regs.wr d.plv f.d.toNat _) (r := c.regs.wr c.plv f.d.toNat _) (fun _ => rfl) (wr_pc ..)
    ((congrArg (fun a => constAt (memBytes f) [(0, a)] (.u f.d.toNat) s.cur s) (offAddr_turn ht f 0)).trans hload)
  exact ⟨t, hissue, hbytes, hframe, hcar⟩

theorem vectorConstantLoad (ht : Turn s x c (negpGroup neg)) (hregs : accessRegs c f neg false) (hbinds : Unbound s) (want : Want)
    (hwant : want = { read := true, const := true, size := 2 ^ f.sz.toNat })
    (hchecks : (s.checkLanes s.cur want (laneAddrs c f none neg false) false).1 = none)
    (hmmio : anyMmio (s.checkLanes s.cur want (laneAddrs c f none neg false) false).2 = false)
    (hreach : s.reachTrap s.cur (s.checkLanes s.cur want (laneAddrs c f none neg false) false).2 true false (fun _ => false) = none) :
    ∃ t, exec (.ldc f) s = .next t ∧ BytesKept s t ∧ AccessFrame s t x c ∧
      CarIs t x c (past (c.regs.wrV f.d.toNat (c.active f.pr.toNat neg) (vtab (valueOf
        ((s.checkLanes s.cur want (laneAddrs c f none neg false) false).2.map fun l =>
          (l.1, leNat (l.2.flatMap (s.constSeg s.cur (constLaunch s))))))))) := by
  subst hwant
  obtain ⟨hd, hb, hneg⟩ := hregs
  obtain ⟨u, hu, hload⟩ := constAt_plain x c (d := .v f.d.toNat (c.active f.pr.toNat neg)) hbinds hchecks hmmio hreach
  replace ht : Turn s x c (immGroup none ++ negpGroup neg) := ht
  have hchk := checkIssue_opM ht (0xA4000000 ||| encodeFmtR f) f false (dst := [.v f.d.toNat]) (src := [.u f.a.toNat, .v f.b.toNat])
    (by simp) hneg (by simpa [or_imp, forall_and] using ⟨hd, hb rfl⟩) (by simp [regOk_u, regOk_v])
  rw [writeDest_lanes ht.cur] at hload
  obtain ⟨t, hissue, hbytes, hframe, hcar, -⟩ := issue_access ht (Laws.immMod_sched none neg) (Laws.immMod_seed none neg) (le_refl 1) hchk rfl hu
    (fun d => d.regs.wrV f.d.toNat (c.active f.pr.toNat neg) _) (r := c.regs.wrV f.d.toNat (c.active f.pr.toNat neg) _) (fun _ => rfl) rfl
    (eff := fun w hs s => constAt (memBytes f) (s.regAddrs w f.a.toNat f.b.toNat (s.activeMask w f.pr.toNat hs))
      (.v f.d.toNat (s.activeMask w f.pr.toNat hs)) w s)
    ((if_pos rfl).trans (Eq.trans (by rw [activeMask_turn ht, regAddrs_turn ht]; rfl) hload))
  exact ⟨t, hissue, hbytes, hframe, hcar⟩

end

/-- Settles O9: no access is slow, so each changes caches, its caravan's epochs and its register alone. -/
theorem uniformAndConstantAccess : Obligations.UniformAndConstantAccess := by
  have hlaunch : ∀ s : State, (match s.launchOf s.cur with | some l => l.id | none => 0) = constLaunch s := fun s => by
    unfold constLaunch
    cases s.launchOf s.cur <;> rfl
  refine ⟨fun s x c p neg f ht hcond hholds => ⟨uniformLoad ht hcond hholds, uniformStore ht hcond hholds⟩, fun s x c p neg f => ⟨?_, ?_⟩⟩
  · rintro ht hregs ⟨hbinds, hchecks, hmmio, hreach⟩
    have h := vectorConstantLoad ht hregs hbinds _ rfl hchecks hmmio hreach
    rw [← hlaunch] at h
    exact h
  · rintro ht hcond hholds ⟨hbinds, hchecks, hmmio, hreach⟩
    have h := uniformConstantLoad ht hcond hholds hbinds _ rfl hchecks hmmio hreach
    rw [← hlaunch] at h
    exact h

end Sys2Proof
end

section
/-! SUPPORT. The failures of an access's lanes and the order of R93. -/
namespace Sys2Proof
open Sys2Proof.Machine Sys2Proof.Claims

/-! ## A failure's rank is its code's place in the order of R93 -/

theorem codeRank_lt (c : Nat) : codeRank c < 9 := by
  unfold codeRank
  split <;> decide

/-- A failure ranked as R93 ranks its code. -/
def RankedByCode (f : Fail) : Prop := f.rank = codeRank f.code

def AllRanked (fs : List Fail) : Prop := ∀ f ∈ fs, RankedByCode f

theorem allRanked_nil : AllRanked [] := List.forall_mem_nil _

theorem allRanked_one {f : Fail} (h : RankedByCode f) : AllRanked [f] := List.forall_mem_singleton.mpr h

theorem AllRanked.append {fs gs : List Fail} (h : AllRanked fs) (h' : AllRanked gs) : AllRanked (fs ++ gs) :=
  List.forall_mem_append.mpr ⟨h, h'⟩

theorem allRanked_flatMap {α : Type} {l : List α} {F : α → List Fail} (h : ∀ a ∈ l, AllRanked (F a)) :
    AllRanked (l.flatMap F) := fun f hf => by
  obtain ⟨a, ha, hf⟩ := List.mem_flatMap.mp hf
  exact h a ha f hf

/-- A failure that a check gives where it holds. -/
theorem allRanked_if {p : Prop} [Decidable p] {f : Fail} (h : RankedByCode f) : AllRanked (if p then [f] else []) := by
  split
  · exact allRanked_one h
  · exact allRanked_nil

/-- The codes of a walk that finds no leaf. -/
def Walk.Fails : Walk → Prop
  | .leaf _ => True
  | .bad c _ => c = 0x10 ∨ c = 0x11

theorem fails_absent : Walk.Fails .absent := .inl rfl

theorem fails_denied : Walk.Fails .denied := .inr rfl

theorem fails_ite {p : Prop} [Decidable p] {a b : Walk} (ha : Walk.Fails a) (hb : Walk.Fails b) : Walk.Fails (if p then a else b) := by
  split
  · exact ha
  · exact hb

theorem fails_readLeaf (s : State) (tenant : Nat) (switched : Bool) (level va lo hi : Nat) :
    Walk.Fails (readLeaf s tenant switched level va lo hi) := by
  unfold readLeaf
  exact fails_ite fails_absent (fails_ite (.inl rfl) (fails_ite fails_denied (fails_ite fails_denied trivial)))

/-- What a walk finds in a table that its tenant owns, where `next` is what it finds through an entry that is not a leaf. -/
def tableEntry (s : State) (tenant : Nat) (switched : Bool) (va level table : Nat) (next : Nat → Nat → Walk) : Walk :=
  if s.ownerOf table != tenant then .denied
  else
    let lo := s.memNat (table + 16 * tableIndex level va) 8
    let hi := s.memNat (table + 16 * tableIndex level va + 8) 8
    if lo % 2 == 0 then .absent
    else if bitsOf lo 1 1 == 1 then readLeaf s tenant switched level va lo hi
    else next lo hi

theorem walkFrom_zero (s : State) (tenant : Nat) (switched : Bool) (va table : Nat) :
    walkFrom s tenant switched va 0 table = tableEntry s tenant switched va 0 table fun _ _ => .absent := rfl

theorem walkFrom_succ (s : State) (tenant : Nat) (switched : Bool) (va level table : Nat) :
    walkFrom s tenant switched va (level + 1) table = tableEntry s tenant switched va (level + 1) table fun lo hi =>
      if hi != 0 || bitsOf lo 63 52 != 0 || bitsOf lo 12 2 != 0 || bitsOf lo 51 13 * 2 ^ 13 % tableSize level != 0 ||
        !inTiers (bitsOf lo 51 13 * 2 ^ 13)
      then .absent else walkFrom s tenant switched va level (bitsOf lo 51 13 * 2 ^ 13) := rfl

theorem fails_tableEntry (s : State) (tenant : Nat) (switched : Bool) (va level table : Nat) {next : Nat → Nat → Walk}
    (h : ∀ lo hi, Walk.Fails (next lo hi)) : Walk.Fails (tableEntry s tenant switched va level table next) := by
  unfold tableEntry
  refine fails_ite fails_denied ?_
  dsimp only
  generalize s.memNat (table + 16 * tableIndex level va) 8 = lo
  generalize s.memNat (table + 16 * tableIndex level va + 8) 8 = hi
  exact fails_ite fails_absent (fails_ite (fails_readLeaf ..) (h lo hi))

theorem fails_walkFrom (s : State) (tenant : Nat) (switched : Bool) (va level table : Nat) :
    Walk.Fails (walkFrom s tenant switched va level table) := by
  induction level generalizing table with
  | zero =>
    rw [walkFrom_zero]
    exact fails_tableEntry _ _ _ _ _ _ fun _ _ => fails_absent
  | succ level ih =>
    rw [walkFrom_succ]
    exact fails_tableEntry _ _ _ _ _ _ fun lo hi => fails_ite fails_absent (ih _)

theorem fails_stewardWalk (s : State) (va : Nat) : Walk.Fails (stewardWalk s va) := by
  unfold stewardWalk
  exact fails_ite (fails_ite trivial fails_denied) (fails_ite trivial fails_absent)

theorem fails_lookup (s : State) (core vf proc va : Nat) : Walk.Fails (s.lookup core vf proc va) := by
  unfold State.lookup State.walk
  split
  · trivial
  · split
    · exact fails_stewardWalk s va
    · split
      · exact .inl rfl
      · split
        · exact .inl rfl
        · split
          · exact .inl rfl
          · exact fails_walkFrom ..

theorem rankedByCode_walkFail {c : Nat} (h : c = 0x10 ∨ c = 0x11) (sub a : Nat) : RankedByCode (walkFail c sub a) := by
  rcases h with rfl | rfl <;> rfl

/-! ## Each check's failures -/

theorem allRanked_streamFail (s : State) (w : Who) (want : Want) (l : Leaf) (va : Nat) : AllRanked (streamFail s w want l va) := by
  unfold streamFail
  split
  · exact allRanked_nil
  · split
    · exact allRanked_one rfl
    · exact allRanked_if (by rfl)

theorem allRanked_scaleFail (s : State) (w : Who) (a : Nat) : AllRanked (scaleFail s w a) := by
  unfold scaleFail
  dsimp only
  split
  · exact allRanked_one rfl
  · have h := fails_lookup s (s.coreOf w) (s.spaceOf w).1 (s.spaceOf w).2 a
    split
    next c sub hbad =>
      rw [hbad] at h
      exact allRanked_one (rankedByCode_walkFail h sub a)
    · exact (((allRanked_if (by rfl)).append (allRanked_if (by rfl))).append (allRanked_if (by rfl))).append (allRanked_if (by rfl))

theorem allRanked_formatFail (s : State) (w : Who) (want : Want) (l : Leaf) (va0 va n : Nat) : AllRanked (formatFail s w want l va0 va n) := by
  unfold formatFail
  dsimp only
  split
  · exact allRanked_one rfl
  · split
    · exact allRanked_one rfl
    · split
      · exact allRanked_nil
      · split
        · exact allRanked_one rfl
        · refine (AllRanked.append ?_ (allRanked_if (by rfl))).append (allRanked_if (by rfl))
          split
          · exact allRanked_one rfl
          · split
            · exact allRanked_flatMap fun a _ => allRanked_scaleFail s w a
            · exact allRanked_nil

theorem allRanked_atomicFail (s : State) (w : Who) (want : Want) (l : Leaf) (va pa : Nat) : AllRanked (atomicFail s w want l va pa) := by
  unfold atomicFail
  split
  · exact allRanked_nil
  · dsimp only
    split
    · exact allRanked_one rfl
    · split
      · exact allRanked_one rfl
      · split
        · exact allRanked_one rfl
        · split
          · exact allRanked_one rfl
          · exact allRanked_if (by rfl)
        · exact allRanked_nil

theorem allRanked_segAt (s : State) (w : Who) (want : Want) (va0 off n : Nat) : AllRanked (s.segAt w want va0 off n).1 := by
  have hhere : ∀ (p : Prop) [Decidable p] (segs : List Seg), AllRanked (if p then
      ((if want.const then [({ rank := 2, code := 0x11, sub := 3, addr := va0, synd := 0 } : Fail)] else []), segs) else ([rangeFail va0], [])).1 :=
    fun p _ segs => by
      split
      · exact allRanked_if (by rfl)
      · exact allRanked_one rfl
  unfold State.segAt
  dsimp only
  split
  · exact allRanked_one rfl
  · split
    · exact hhere _ _
    · split
      · exact allRanked_one rfl
      · split
        · exact hhere _ _
        · split
          · split
            · exact allRanked_one rfl
            · split
              · exact hhere _ _
              · exact allRanked_one rfl
          · split
            · exact allRanked_one rfl
            next x _ _ _ _ _ _ =>
              have h := fails_lookup s x.core (s.spaceOf w).1 (s.spaceOf w).2 (va0 + off)
              split
              next c sub hbad =>
                rw [hbad] at h
                exact allRanked_one (rankedByCode_walkFail h sub va0)
              · exact (((((((allRanked_if (by rfl)).append (allRanked_if (by rfl))).append (allRanked_if (by rfl))).append
                  (allRanked_if (by rfl))).append
                  (allRanked_if (by rfl))).append (allRanked_streamFail _ _ _ _ _)).append
                  (allRanked_formatFail _ _ _ _ _ _ _)).append (allRanked_atomicFail _ _ _ _ _ _)

theorem allRanked_checkLane (s : State) (w : Who) (want : Want) (va : Nat) : AllRanked (s.checkLane w want va).1 :=
  (allRanked_if (by rfl)).append (allRanked_flatMap fun p hp => by
    obtain ⟨q, -, rfl⟩ := List.mem_map.mp hp
    exact allRanked_segAt _ _ _ _ _ _)

/-! ## The failure that decides -/

/-- The failure kept of one so far and one more. -/
def lowerFail (acc : Option Fail) (f : Fail) : Option Fail :=
  match acc with | some g => if f.rank < g.rank then some f else some g | none => some f

theorem firstFail_eq (fs : List Fail) : firstFail fs = fs.foldl lowerFail none := rfl

/-- A failure of a list that no other of it comes before. -/
def Decides (f : Fail) (fs : List Fail) : Prop := f ∈ fs ∧ ∀ g ∈ fs, f.rank ≤ g.rank

theorem foldl_lowerFail (fs : List Fail) (g : Fail) : ∃ f, fs.foldl lowerFail (some g) = some f ∧ Decides f (g :: fs) := by
  induction fs generalizing g with
  | nil => exact ⟨g, rfl, List.mem_singleton_self g, by simp⟩
  | cons h fs ih =>
    by_cases hlt : h.rank < g.rank
    · obtain ⟨f, hf, hmem, hle⟩ := ih h
      refine ⟨f, (congrArg (fs.foldl lowerFail) (if_pos hlt)).trans hf, List.mem_cons_of_mem g hmem, List.forall_mem_cons.mpr ⟨?_, hle⟩⟩
      exact (hle h (List.mem_cons_self ..)).trans hlt.le
    · obtain ⟨f, hf, hmem, hle⟩ := ih g
      obtain ⟨hg, hfs⟩ := List.forall_mem_cons.mp hle
      refine ⟨f, (congrArg (fs.foldl lowerFail) (if_neg hlt)).trans hf, ?_,
        List.forall_mem_cons.mpr ⟨hg, List.forall_mem_cons.mpr ⟨?_, hfs⟩⟩⟩
      · exact (List.mem_cons.mp hmem).elim (fun h0 => h0 ▸ List.mem_cons_self ..)
          fun h0 => List.mem_cons_of_mem _ (List.mem_cons_of_mem _ h0)
      · exact hg.trans (not_lt.mp hlt)

theorem firstFail_decides {fs : List Fail} (h : fs ≠ []) : ∃ f, firstFail fs = some f ∧ Decides f fs := by
  cases fs with
  | nil => exact absurd rfl h
  | cons g fs => exact foldl_lowerFail fs g

theorem decides_of_firstFail {fs : List Fail} {f : Fail} (h : firstFail fs = some f) : Decides f fs := by
  have hne : fs ≠ [] := fun h0 => by
    rw [h0] at h
    cases h
  obtain ⟨g, hg, hdec⟩ := firstFail_decides hne
  obtain rfl : g = f := Option.some.inj (hg.symm.trans h)
  exact hdec

/-! ## The trap of several lanes -/

/-- The mask with thread k's bit set where a test holds of it. -/
def withBit (F : Nat → Bool) (m : W32) (k : Nat) : W32 := if F k then m ||| BitVec.ofNat 32 (2 ^ k) else m

theorem bitAt_withBit (F : Nat → Bool) (m : W32) (k : Nat) {t : Nat} (ht : t < 32) :
    bitAt (withBit F m k) t = (bitAt m t || (decide (k = t) && F k)) := by
  have hbit : (BitVec.ofNat 32 (2 ^ k)).getLsbD t = decide (k = t) := by
    rw [BitVec.getLsbD_ofNat, Nat.testBit_two_pow, decide_eq_true ht, Bool.true_and]
  unfold withBit bitAt
  split
  next h => rw [BitVec.getLsbD_or, hbit, h, Bool.and_true]
  next h => rw [Bool.eq_false_of_not_eq_true h, Bool.and_false, Bool.or_false]

theorem bitAt_maskOf (F : Nat → Bool) {t : Nat} (ht : t < 32) : bitAt (maskOf F) t = F t := by
  have hfold : ∀ (l : List Nat) (m : W32), bitAt (l.foldl (withBit F) m) t = (bitAt m t || l.any fun k => decide (k = t) && F k) := fun l => by
    induction l with
    | nil => simp
    | cons k l ih =>
      intro m
      rw [List.foldl_cons, ih, bitAt_withBit F m k ht, List.any_cons, Bool.or_assoc]
  refine (hfold (List.range 32) 0).trans (Bool.eq_iff_iff.mpr ?_)
  simp [bitAt, ht]

/-- The failing lanes of an access, each with the failure that decides for it. -/
def failing (s : State) (w : Who) (want : Want) (lanes : List (Nat × Nat)) : List (Nat × Fail) :=
  lanes.filterMap fun l => (firstFail (s.checkLane w want l.2).1).map fun f => (l.1, f)

theorem checkLanes_fst (s : State) (w : Who) (want : Want) (lanes : List (Nat × Nat)) (whole : Bool) :
    (s.checkLanes w want lanes whole).1 = failTrap (failing s w want lanes) whole := by
  simp only [State.checkLanes, failing, List.filterMap_map]
  rfl

theorem mem_failing {s : State} {w : Who} {want : Want} {lanes : List (Nat × Nat)} {t : Nat} {f : Fail} :
    (t, f) ∈ failing s w want lanes ↔ ∃ a, (t, a) ∈ lanes ∧ firstFail (s.checkLane w want a).1 = some f := by
  simp only [failing, List.mem_filterMap, Option.map_eq_some_iff, Prod.mk.injEq, Prod.exists]
  constructor
  · rintro ⟨t', a, hmem, g, hg, rfl, rfl⟩
    exact ⟨a, hmem, hg⟩
  · rintro ⟨a, hmem, hf⟩
    exact ⟨t, a, hmem, f, hf, rfl, rfl⟩

/-- The least rank of failures is one of theirs, where each is below 9. -/
theorem lowest_rank (fails : List (Nat × Fail)) : ∀ n, (∀ f ∈ fails, fails.foldl (fun acc f => min acc f.2.rank) n ≤ f.2.rank) ∧
    fails.foldl (fun acc f => min acc f.2.rank) n ≤ n ∧
    (fails.foldl (fun acc f => min acc f.2.rank) n = n ∨ ∃ f ∈ fails, f.2.rank = fails.foldl (fun acc f => min acc f.2.rank) n) := by
  induction fails with
  | nil => exact fun n => ⟨List.forall_mem_nil _, le_refl n, .inl rfl⟩
  | cons g fails ih =>
    intro n
    obtain ⟨hle, hn, heq⟩ := ih (min n g.2.rank)
    refine ⟨List.forall_mem_cons.mpr ⟨hn.trans (min_le_right ..), hle⟩, hn.trans (min_le_left ..), ?_⟩
    rcases heq with heq | ⟨f, hf, hrank⟩
    · rcases min_choice n g.2.rank with hmin | hmin
      · exact .inl (heq.trans hmin)
      · exact .inr ⟨g, List.mem_cons_self .., (heq.trans hmin).symm⟩
    · exact .inr ⟨f, List.mem_cons_of_mem _ hf, hrank⟩

/-- The trap of lanes that fail, and each with a failure ranked by its code: its code is one of theirs, none has a code of lower rank, and it
names the lanes that fail with it. -/
theorem failTrap_lanes {fails : List (Nat × Fail)} (hne : fails ≠ []) (hranked : ∀ x ∈ fails, RankedByCode x.2) :
    ∃ tr, failTrap fails false = some tr ∧ (∃ x ∈ fails, x.2.code = tr.code) ∧ (∀ x ∈ fails, codeRank tr.code ≤ x.2.rank) ∧
      ∀ t, t < 32 → (bitAt tr.lanes t = true ↔ ∃ f, (t, f) ∈ fails ∧ f.code = tr.code) := by
  obtain ⟨hle, -, heq⟩ := lowest_rank fails 9
  unfold failTrap
  generalize fails.foldl (fun acc f => min acc f.2.rank) 9 = low at hle heq
  have hlow : ∃ x ∈ fails, x.2.rank = low := heq.resolve_left fun h9 => by
    obtain ⟨x, hx⟩ := List.exists_mem_of_ne_nil fails hne
    have hlt := codeRank_lt x.2.code
    have := hle x hx
    rw [hranked x hx] at this
    omega
  obtain ⟨x, hx⟩ := Option.isSome_iff_exists.mp (List.find?_isSome (p := fun f : Nat × Fail => f.2.rank == low).mpr
    (hlow.imp fun x hx => ⟨hx.1, beq_iff_eq.mpr hx.2⟩))
  have hmem := List.mem_of_find?_eq_some hx
  have hrank : x.2.rank = low := by simpa using List.find?_some hx
  have hcode : codeRank x.2.code = low := (hranked x hmem).symm.trans hrank
  dsimp only
  rw [hx]
  refine ⟨_, rfl, ⟨x, hmem, rfl⟩, fun y hy => hcode.trans_le (hle y hy), fun t ht => ?_⟩
  simp only [Bool.false_eq_true, if_false, bitAt_maskOf _ ht, List.any_eq_true, Bool.and_eq_true, beq_iff_eq]
  constructor
  · rintro ⟨⟨k, f⟩, hf, ⟨rfl, -⟩, hfc⟩
    exact ⟨f, hf, hfc⟩
  · rintro ⟨f, hf, hfc⟩
    exact ⟨(t, f), hf, ⟨rfl, (hranked _ hf).trans ((congrArg codeRank hfc).trans hcode)⟩, hfc⟩

/-- What R93 says of the trap of an access whose lanes fail a check. -/
def TrapOfLanes (s : State) (want : Want) (lanes : List (Nat × Nat)) (tr : Trap) : Prop :=
  (∃ l ∈ lanes, ∃ e ∈ (s.checkLane s.cur want l.2).1, e.code = tr.code) ∧
  (∀ l ∈ lanes, ∀ e ∈ (s.checkLane s.cur want l.2).1, codeRank tr.code ≤ codeRank e.code) ∧
  ∀ t, t < 32 → (bitAt tr.lanes t = true ↔ ∃ a e, (t, a) ∈ lanes ∧ firstFail (s.checkLane s.cur want a).1 = some e ∧ e.code = tr.code)

theorem checkLanes_traps {s : State} {want : Want} {lanes : List (Nat × Nat)} (h : ∃ l ∈ lanes, (s.checkLane s.cur want l.2).1 ≠ []) :
    ∃ tr, (s.checkLanes s.cur want lanes false).1 = some tr ∧ TrapOfLanes s want lanes tr := by
  have hranked : ∀ x ∈ failing s s.cur want lanes, RankedByCode x.2 := fun x hx => by
    obtain ⟨a, -, hf⟩ := mem_failing.mp hx
    exact allRanked_checkLane s s.cur want a _ (decides_of_firstFail hf).1
  have hfails : ∀ l ∈ lanes, (s.checkLane s.cur want l.2).1 ≠ [] →
      ∃ f, (l.1, f) ∈ failing s s.cur want lanes ∧ Decides f (s.checkLane s.cur want l.2).1 :=
    fun l hl hne => by
      obtain ⟨f, hf, hdec⟩ := firstFail_decides hne
      exact ⟨f, mem_failing.mpr ⟨l.2, hl, hf⟩, hdec⟩
  have hne : failing s s.cur want lanes ≠ [] := by
    obtain ⟨l, hl, hl'⟩ := h
    obtain ⟨f, hf, -⟩ := hfails l hl hl'
    exact List.ne_nil_of_mem hf
  obtain ⟨tr, htrap, ⟨x, hx, hcode⟩, hleast, hlanes⟩ := failTrap_lanes hne hranked
  refine ⟨tr, (checkLanes_fst ..).trans htrap, ?_, fun l hl e he => ?_, fun t ht => (hlanes t ht).trans ?_⟩
  · obtain ⟨a, ha, hf⟩ := mem_failing.mp hx
    exact ⟨(x.1, a), ha, x.2, (decides_of_firstFail hf).1, hcode⟩
  · obtain ⟨f, hf, -, hle⟩ := hfails l hl (List.ne_nil_of_mem he)
    exact (hleast _ hf).trans ((hle e he).trans_eq (allRanked_checkLane s s.cur want l.2 e he))
  · simp only [mem_failing]
    exact ⟨fun ⟨f, ⟨a, ha, hf⟩, hc⟩ => ⟨a, f, ha, hf, hc⟩, fun ⟨a, f, ha, hf, hc⟩ => ⟨f, ⟨a, ha, hf⟩, hc⟩⟩

/-! ## The trap at issue -/

section
variable {s : State} {x : Block} {c : Caravan}

/-- A word whose effect traps does so in the state of before. -/
theorem issue_traps {hs : List W32} (ht : Turn s x c hs) (hsched : hintOf hs 0x7F = none) (hseed : hintSeed hs = none) {o : Op}
    {eff : Who → List W32 → State → Res} (hdst : o.dst.length ≤ 1) (hchk : checkIssue s s.cur o = none)
    (hper : o.perThread = true) {tr : Trap}
    (heff : eff s.cur hs s = .trap tr) : issue o eff s = .next (s.takeTrap s.cur tr) := by
  have hc : s.car? x.id c.n = some c := by simp [State.car?, ht.block, ht.car]
  have hstatus : s.statusOf s.cur = some c.status := by rw [ht.cur]; simp [State.statusOf, hc]
  have hhints : s.hintsOf s.cur = hs := by rw [ht.cur]; simp [State.hintsOf, hc, ht.group]
  have hfix : s.fixOf s.cur = [] := by rw [ht.cur]; simp [State.fixOf, hc, ht.spaced]
  have hprep := Laws.prepare_plain ht o hsched hdst
  have hfree : ({ s with free := s.free + ([] : List Fix).length } : State) = s := rfl
  unfold issue
  simp only [hstatus, hhints, hchk, hprep, hfix, chosen, List.zipIdx_nil, List.map_nil, hfree, List.filter_nil, State.withOld, List.foldr_nil,
    Laws.seeded_none _ _ hseed, hper, Bool.true_or, if_true, heff]

theorem loadAt_traps {want : Want} {lanes : List (Nat × Nat)} {d : Dest} (hio : s.ioOf s.cur = none) (hbinds : Unbound s) {tr : Trap}
    (h : (s.checkLanes s.cur want lanes d.whole).1 = some tr) (bypass : Bool) : loadAt want lanes d bypass s.cur s = .trap tr := by
  unfold loadAt
  simp only [hio, afterBinds_unbound hbinds, h]

theorem storeAt_traps {want : Want} {lanes : List (Nat × Nat)} {whole : Bool} (hio : s.ioOf s.cur = none) (hbinds : Unbound s) {tr : Trap}
    (h : (s.checkLanes s.cur want lanes whole).1 = some tr) (data : Nat → Nat) : storeAt want lanes data whole s.cur s = .trap tr := by
  unfold storeAt
  simp only [hio, afterBinds_unbound hbinds, h]

variable {p : Option (BitVec 25)} {neg offset : Bool} {i : Instr} {f : FmtR} {want : Want} {tr : Trap}

/-- A per-thread load or store whose addresses' checks trap. -/
theorem opM_traps (ht : Turn s x c (immGroup p ++ negpGroup neg)) (word : W32) {imm : Bool} (himm : p.isSome = true → imm = true)
    (hneg : f.pr = 7 → neg = false) {dst src : List Reg} (hdst : dst.length ≤ 1) (hv : ∀ k, Reg.v k ∈ dst ++ src → k < c.vb)
    (hok : (dst ++ src).all (regOk false) = true) {eff : Who → List W32 → State → Res}
    (heff : eff s.cur (immGroup p ++ negpGroup neg) s = .trap tr) :
    issue (opM word f true imm dst src) eff s = .next (s.takeTrap s.cur tr) :=
  issue_traps ht (Laws.immMod_sched p neg) (Laws.immMod_seed p neg) hdst (checkIssue_opM ht word f imm himm hneg hv hok) rfl heff

theorem vectorLoad_traps (hi : VectorLoad i f want offset) (ht : Turn s x c (immGroup p ++ negpGroup neg)) (hp : p.isSome = true → offset = true)
    (hregs : accessRegs c f neg offset) (hio : s.ioOf s.cur = none) (hbinds : Unbound s)
    (h : (s.checkLanes s.cur want (laneAddrs c f p neg offset) false).1 = some tr) : exec i s = .next (s.takeTrap s.cur tr) := by
  obtain ⟨hd, hb, hneg⟩ := hregs
  have hreg : offset = false → ∀ word, loadReg word f want s = .next (s.takeTrap s.cur tr) := fun ho word => by
    subst ho
    refine opM_traps ht word hp hneg (dst := [.v f.d.toNat]) (le_refl 1) (by simpa [or_imp, forall_and] using ⟨hd, hb rfl⟩) (by simp [regOk_u, regOk_v]) ?_
    dsimp only
    rw [activeMask_turn ht, regAddrs_turn ht]
    exact loadAt_traps hio hbinds h _
  have hoff : offset = true → ∀ word, loadOff word f want s = .next (s.takeTrap s.cur tr) := fun ho word => by
    subst ho
    refine opM_traps ht word (fun _ => rfl) hneg (dst := [.v f.d.toNat]) (le_refl 1) (by simpa [or_imp, forall_and] using hd) (by simp [regOk_u, regOk_v]) ?_
    dsimp only
    rw [activeMask_turn ht, offAddrs_turn ht]
    exact loadAt_traps hio hbinds h _
  cases hi with
  | ld => exact hreg rfl _
  | ldOffset => exact hoff rfl _
  | ldl => exact hreg rfl _
  | ldlOffset => exact hoff rfl _

theorem vectorStore_traps (hi : VectorStore i f want offset) (ht : Turn s x c (immGroup p ++ negpGroup neg)) (hp : p.isSome = true → offset = true)
    (hregs : accessRegs c f neg offset) (hio : s.ioOf s.cur = none) (hbinds : Unbound s)
    (h : (s.checkLanes s.cur want (laneAddrs c f p neg offset) false).1 = some tr) : exec i s = .next (s.takeTrap s.cur tr) := by
  obtain ⟨hd, hb, hneg⟩ := hregs
  have hreg : offset = false → ∀ word, storeReg word f want s = .next (s.takeTrap s.cur tr) := fun ho word => by
    subst ho
    refine opM_traps ht word hp hneg (dst := []) (Nat.zero_le 1) (by simpa [or_imp, forall_and] using ⟨hd, hb rfl⟩) (by simp [regOk_u, regOk_v]) ?_
    dsimp only
    rw [activeMask_turn ht, regAddrs_turn ht]
    exact storeAt_traps hio hbinds h _
  have hoff : offset = true → ∀ word, storeOff word f want s = .next (s.takeTrap s.cur tr) := fun ho word => by
    subst ho
    refine opM_traps ht word (fun _ => rfl) hneg (dst := []) (Nat.zero_le 1) (by simpa [or_imp, forall_and] using hd) (by simp [regOk_u, regOk_v]) ?_
    dsimp only
    rw [activeMask_turn ht, offAddrs_turn ht]
    exact storeAt_traps hio hbinds h _
  cases hi with
  | st => exact hreg rfl _
  | stOffset => exact hoff rfl _
  | stl => exact hreg rfl _
  | stlOffset => exact hoff rfl _

end

/-- Settles O10: the checks trap as `checkLanes_traps` says, and loads and stores check before they do anything. -/
theorem failedAccessTrapsBeforeAnyLane : Obligations.FailedAccessTrapsBeforeAnyLane := by
  intro s x c p neg offset i f want hi ht hp hregs hio hbinds hfails
  obtain ⟨tr, htrap, hlanes⟩ := checkLanes_traps hfails
  have hc : s.car? x.id c.n = some c := by simp [State.car?, ht.block, ht.car]
  have hio' : s.ioOf s.cur = none := by rw [ht.cur]; simp [State.ioOf, hc, hio]
  exact ⟨tr, hi.elim (fun h => vectorLoad_traps h ht hp hregs hio' hbinds htrap)
    fun h => vectorStore_traps h ht hp hregs hio' hbinds htrap, hlanes⟩

end Sys2Proof
end

section
/-! SUPPORT. Atomic steps on states that hold the same bytes, and what they leave of their own caravan (R92, R100, R232, R233). -/
namespace Sys2Proof
open Sys2Proof.Machine Sys2Proof.Claims

/-! ## What stops an access asks no caravan -/

theorem block?_modCar_map {α : Type} (s : State) (b n k : Nat) (g : Caravan → Caravan) {P : Block → α}
    (hP : ∀ x : Block, P (x.modCar n g) = P x) :
    ((s.modCar b n g).block? k).map P = (s.block? k).map P := by
  by_cases hk : k = b
  · subst hk
    rw [State.modCar, Laws.block?_modBlock s k (fun x => x.modCar n g) fun _ => rfl, Option.map_map]
    exact congrArg (Option.map · _) (funext hP)
  · rw [State.modCar, Laws.block?_modBlock_other s b k (fun x => x.modCar n g) (fun _ => rfl) hk]

theorem coreOf_eq (s : State) (w : Who) : s.coreOf w = ((s.block? (blkOf w)).map Block.core).getD 0 := by
  unfold State.coreOf
  cases s.block? (blkOf w) <;> rfl

theorem homeOf_ls (s : State) (k o : Nat) : s.homeOf (.ls k o) = .die (((s.block? k).map fun x => dieOf x.core).getD 4) := by
  cases h : s.block? k <;> simp [State.homeOf, h]

/-- The poison of a byte of a local store that is poisoned. -/
def storePoison (o : Nat) (bad : List Nat) : Option Poison := if o ∈ bad then some { pa := o, cause := 0, first := 0, last := 0 } else none

theorem poisonAt_ls (s : State) (k o : Nat) : s.poisonAt (.ls k o) = ((s.block? k).map Block.lsPoison).bind (storePoison o) := by
  cases h : s.block? k <;> simp [State.poisonAt, h, storePoison]

theorem coreOf_modCar (s : State) (b n : Nat) (g : Caravan → Caravan) (w : Who) : (s.modCar b n g).coreOf w = s.coreOf w := by
  rw [coreOf_eq, coreOf_eq, block?_modCar_map s b n _ g fun _ => rfl]

theorem homeOf_modCar (s : State) (b n : Nat) (g : Caravan → Caravan) (l : Loc) : (s.modCar b n g).homeOf l = s.homeOf l := by
  cases l with
  | glob pa => rfl
  | ls k o => rw [homeOf_ls, homeOf_ls, block?_modCar_map s b n k g fun _ => rfl]

theorem hops_modCar (s : State) (b n : Nat) (g : Caravan → Caravan) (dest m at_ : Nat) : (s.modCar b n g).hops dest m at_ = s.hops dest m at_ := by
  induction m generalizing at_ with
  | zero => rfl
  | succ m ih => simp only [State.hops, ih]; rfl

theorem homeLost_modCar (s : State) (b n : Nat) (g : Caravan → Caravan) (die : Nat) (h : Home) :
    (s.modCar b n g).homeLost die h = s.homeLost die h := by
  have hroute : (s.modCar b n g).dieRoute = s.dieRoute := funext fun here => funext fun dest => by simp only [State.dieRoute, hops_modCar]
  cases h <;> simp only [State.homeLost, State.route, hroute] <;> rfl

theorem linkLost_modCar (s : State) (b n : Nat) (g : Caravan → Caravan) (die : Nat) (q : Seg) (write : Bool) :
    (s.modCar b n g).linkLost die q write = s.linkLost die q write := by
  simp only [State.linkLost, State.homeOfSeg, homeOf_modCar, homeLost_modCar]

theorem poisonAt_modCar (s : State) (b n : Nat) (g : Caravan → Caravan) (l : Loc) : (s.modCar b n g).poisonAt l = s.poisonAt l := by
  cases l with
  | glob pa => rfl
  | ls k o => rw [poisonAt_ls, poisonAt_ls, block?_modCar_map s b n k g fun _ => rfl]

theorem reachTrap_modCar (s : State) (b n : Nat) (g : Caravan → Caravan) (w : Who) (lanes : List (Nat × List Seg)) (reads whole : Bool)
    (hidden : Loc → Bool) : (s.modCar b n g).reachTrap w lanes reads whole hidden = s.reachTrap w lanes reads whole hidden := by
  have hclean : (s.modCar b n g).blocks.all (fun x => x.lsPoison.isEmpty) = s.blocks.all fun x => x.lsPoison.isEmpty := by
    simp only [State.modCar, State.modBlock, List.all_map]
    congr 1
    funext x
    simp only [Function.comp]
    split <;> rfl
  simp only [State.reachTrap, State.badByte, coreOf_modCar, linkLost_modCar, poisonAt_modCar, hclean]
  rfl

theorem amoReach_modCar (s : State) (b n : Nat) (g : Caravan → Caravan) (w : Who) (lanes : List (Nat × List Seg)) (whole : Bool) :
    (s.modCar b n g).amoReach w lanes whole = s.amoReach w lanes whole := by
  simp only [State.amoReach, reachTrap_modCar]

/-! ## States that hold the same bytes -/

/-- States that differ in no byte, no function and nothing of the other packages. -/
structure SameStore (s t : State) : Prop where
  bytes : SameBytes s t
  far : t.far = s.far

theorem SameBytes.symm {s t : State} (h : SameBytes s t) : SameBytes t s :=
  ⟨h.mem.symm, h.rekeyed.symm, h.vfs.symm, fun b => (h.stores b).symm⟩

theorem SameStore.refl (s : State) : SameStore s s := ⟨.refl s, rfl⟩

theorem SameStore.symm {s t : State} (h : SameStore s t) : SameStore t s := ⟨h.bytes.symm, h.far.symm⟩

theorem SameStore.trans {s t u : State} (h : SameStore s t) (h' : SameStore t u) : SameStore s u :=
  ⟨h.bytes.trans h'.bytes, h'.far.trans h.far⟩

theorem SameStore.peekN {s t : State} (h : SameStore s t) (l : Loc) (n : Nat) : t.peekN l n = s.peekN l n :=
  List.map_congr_left fun _ _ => h.bytes.peek _

theorem sameStore_modCar (s : State) (b n : Nat) (g : Caravan → Caravan) : SameStore s (s.modCar b n g) := ⟨sameBytes_modCar s b n g, rfl⟩

theorem far_foldl {α : Type} (step : State → α → State) (h : ∀ u a, (step u a).far = u.far) (l : List α) (s : State) :
    (l.foldl step s).far = s.far :=
  List.foldlRecOn (motive := fun u => u.far = s.far) l step rfl fun u hu a _ => (h u a).trans hu

theorem sameStore_dropSharers (s : State) (pa n : Nat) (keep : Option Nat) : SameStore s (s.dropSharers pa n keep) := by
  refine ⟨sameBytes_dropSharers .., ?_⟩
  unfold State.dropSharers
  refine far_foldl _ (fun u x => ?_) _ s
  rfl

theorem sameStore_invalidate (s : State) (by_ : Option Who) (words : List Loc) : SameStore s (s.invalidate by_ words) := by
  refine ⟨sameBytes_invalidate .., far_foldl _ (fun u x => far_foldl _ (fun v c => ?_) _ u) _ s⟩
  split
  · rfl
  · unfold State.rollMarked
    split <;> rfl

theorem sameStore_wake (s : State) (by_ : Option Who) (chunks : List Loc) : SameStore s (s.wake by_ chunks) := ⟨sameBytes_wake .., rfl⟩

/-- A block with bytes written to its local store. -/
def writeStore (o : Nat) (bs : List Byte) (x : Block) : Block :=
  { x with ls := x.ls.writeN o bs, lsPoison := x.lsPoison.filter fun p => p < o || o + bs.length ≤ p }

theorem poke_ls (s : State) (b o : Nat) (bs : List Byte) : s.poke (.ls b o) bs = s.modBlock b (writeStore o bs) := rfl

theorem SameStore.poke {s t : State} (h : SameStore s t) (l : Loc) (bs : List Byte) : SameStore (s.poke l bs) (t.poke l bs) := by
  cases l with
  | glob pa => exact ⟨h.bytes.writeMem pa bs, h.far⟩
  | ls b o =>
    have hls : ∀ (u : State) (k : Nat), ((u.modBlock b (writeStore o bs)).block? k).map (·.ls) =
        if k = b then ((u.block? b).map (·.ls)).map fun m => m.writeN o bs else (u.block? k).map (·.ls) := fun u k => by
      split
      next hk => rw [hk, Laws.block?_modBlock u b (writeStore o bs) fun _ => rfl, Option.map_map, Option.map_map]; rfl
      next hk => rw [Laws.block?_modBlock_other u b k (writeStore o bs) (fun _ => rfl) hk]
    refine ⟨⟨h.bytes.mem, h.bytes.rekeyed, h.bytes.vfs, fun k => ?_⟩, h.far⟩
    exact (hls t k).trans (Eq.trans (by rw [h.bytes.stores, h.bytes.stores]) (hls s k).symm)

theorem SameStore.writeEvent {s t : State} (h : SameStore s t) (by_ : Option Who) (l : Loc) (bs : List Byte) :
    SameStore (s.writeEvent by_ l bs) (t.writeEvent by_ l bs) := by
  have hevent : ∀ u : State, SameStore (u.poke l bs) (u.writeEvent by_ l bs) := fun u => (sameStore_invalidate ..).trans (sameStore_wake ..)
  exact (hevent s).symm.trans ((h.poke l bs).trans (hevent t))

theorem SameStore.putAtomic {s t : State} (h : SameStore s t) (w : Who) (g : Seg) (bs : List Byte) :
    SameStore (s.putAtomic w g bs) (t.putAtomic w g bs) := by
  have hdrop : ∀ (pa n : Nat) {u v : State}, SameStore u v → SameStore (u.dropSharers pa n none) (v.dropSharers pa n none) := fun pa n u v huv =>
    (sameStore_dropSharers ..).symm.trans (huv.trans (sameStore_dropSharers ..))
  have hput : ∀ (second : Option Nat) {u v : State}, SameStore u v →
      SameStore (u.put (some w) g.loc bs second) (v.put (some w) g.loc bs second) :=
    fun second u v huv => by
      have hat : SameStore (u.putAt (some w) g.loc bs) (v.putAt (some w) g.loc bs) := huv.writeEvent (some w) g.loc bs
      cases second with
      | none => exact hat
      | some pa => exact (hdrop pa bs.length hat).writeEvent (some w) (.glob pa) bs
  unfold State.putAtomic
  refine hput _ ?_
  cases g.loc with
  | glob pa => exact hdrop pa bs.length h
  | ls b o => exact h

theorem SameStore.amoStep {s t : State} (h : SameStore s t) (w : Who) (op bytes : Nat) (g : Seg) (d swap : Nat) :
    (t.amoStep w op bytes g d swap).1 = (s.amoStep w op bytes g d swap).1 ∧
      SameStore (s.amoStep w op bytes g d swap).2 (t.amoStep w op bytes g d swap).2 := by
  unfold State.amoStep
  rw [h.peekN]
  dsimp only
  split
  · exact ⟨rfl, h.putAtomic ..⟩
  · exact ⟨rfl, h⟩

/-! ## An atomic step leaves its own caravan as it is -/

/-- Caravan n of block b stands as c. -/
def CarStands (s : State) (b n : Nat) (c : Caravan) : Prop := s.car? b n = some c

theorem carStands_foldl {α : Type} {b n : Nat} {c : Caravan} (step : State → α → State)
    (h : ∀ u a, CarStands u b n c → CarStands (step u a) b n c)
    (l : List α) {s : State} (hs : CarStands s b n c) : CarStands (l.foldl step s) b n c :=
  List.foldlRecOn (motive := fun u => CarStands u b n c) l step hs fun u hu a _ => h u a hu

theorem CarStands.blocks {s t : State} {b n : Nat} {c : Caravan} (hs : CarStands s b n c) (h : t.blocks = s.blocks) : CarStands t b n c := by
  unfold CarStands State.car? State.block? at *
  rwa [h]

theorem CarStands.dropSharers {s : State} {b n : Nat} {c : Caravan} (hs : CarStands s b n c) (pa m : Nat) (keep : Option Nat) :
    CarStands (s.dropSharers pa m keep) b n c := by
  unfold State.dropSharers
  refine carStands_foldl _ (fun u _ hu => ?_) _ hs
  exact hu.blocks rfl

theorem CarStands.poke {s : State} {b n : Nat} {c : Caravan} (hs : CarStands s b n c) (l : Loc) (bs : List Byte) : CarStands (s.poke l bs) b n c := by
  cases l with
  | glob pa => exact hs.blocks rfl
  | ls k o =>
    rw [poke_ls]
    unfold CarStands State.car? at *
    by_cases hk : b = k
    · subst hk
      rw [Laws.block?_modBlock s b (writeStore o bs) fun _ => rfl, Option.bind_map]
      exact hs
    · rwa [Laws.block?_modBlock_other s k b (writeStore o bs) (fun _ => rfl) hk]

theorem CarStands.invalidate {s : State} {b n : Nat} {c : Caravan} (hs : CarStands s b n c) (words : List Loc) :
    CarStands (s.invalidate (some (.car b n)) words) b n c := by
  unfold State.invalidate
  refine carStands_foldl _ (fun u x hu => carStands_foldl _ (fun v d hv => ?_) _ hu) _ hs
  split
  · exact hv
  next hne =>
    unfold State.rollMarked
    split
    · exact hv
    next k _ =>
      have hmod : CarStands (v.modCar x.id d.n fun z => z.rollTo k true) b n c :=
        (car?_state_modCar_other v (fun z => rollTo_n z k true) fun h => hne (by rw [h.1, h.2])).trans hv
      exact hmod.blocks rfl

theorem CarStands.mapCars {s : State} {b n : Nat} {c : Caravan} (hs : CarStands s b n c) (F : Block → Caravan → Caravan)
    (hn : ∀ x d, (F x d).n = d.n) (hF : ∀ x d, x.id = b → d.n = n → F x d = d) {t : State}
    (ht : t.blocks = s.blocks.map fun x => { x with cars := x.cars.map (F x) }) : CarStands t b n c := by
  obtain ⟨x, hx, hc⟩ := Option.bind_eq_some_iff.mp hs
  have hid : x.id = b := by simpa using List.find?_some hx
  have hcn : c.n = n := by simpa using List.find?_some hc
  have hblock : t.block? b = some { x with cars := x.cars.map (F x) } := by
    unfold State.block?
    rw [ht, List.find?_map]
    exact congrArg _ hx
  have hcar : ({ x with cars := x.cars.map (F x) } : Block).car? n = some (F x c) := by
    have hkey : (fun d : Caravan => d.n == n) ∘ F x = fun d => d.n == n := funext fun d => by simp only [Function.comp, hn]
    unfold Block.car?
    rw [List.find?_map, hkey]
    exact congrArg (Option.map (F x)) hc
  unfold CarStands State.car?
  rw [hblock, Option.bind_some, hcar, hF x c hid hcn]

theorem CarStands.wake {s : State} {b n : Nat} {c : Caravan} (hs : CarStands s b n c) (chunks : List Loc) :
    CarStands (s.wake (some (.car b n)) chunks) b n c := by
  refine hs.mapCars _ (fun x d => ?_) (fun x d hx hd => ?_) rfl
  · split
    · rfl
    · split
      · split <;> rfl
      · rfl
  · exact if_pos (by rw [hx, hd])

theorem CarStands.writeEvent {s : State} {b n : Nat} {c : Caravan} (hs : CarStands s b n c) (l : Loc) (bs : List Byte) :
    CarStands (s.writeEvent (some (.car b n)) l bs) b n c := ((hs.poke l bs).invalidate _).wake _

theorem CarStands.amoStep {s : State} {b n : Nat} {c : Caravan} (hs : CarStands s b n c) (op bytes : Nat) (g : Seg) (d swap : Nat) :
    CarStands (s.amoStep (.car b n) op bytes g d swap).2 b n c := by
  have hput : ∀ {u : State} (bs : List Byte) (second : Option Nat), CarStands u b n c →
      CarStands (u.put (some (.car b n)) g.loc bs second) b n c := fun {u} bs second hu => by
    have hat : CarStands (u.putAt (some (.car b n)) g.loc bs) b n c := hu.writeEvent g.loc bs
    cases second with
    | none => exact hat
    | some pa => exact (hat.dropSharers pa bs.length none).writeEvent (.glob pa) bs
  unfold State.amoStep State.putAtomic
  dsimp only
  split
  · refine hput _ _ ?_
    cases g.loc with
    | glob pa => exact hs.dropSharers ..
    | ls k o => exact hs
  · exact hs

/-! ## The lanes of an atomic -/

/-- What the lanes of an atomic are. -/
def amoLane (data : Nat → Nat × Nat) (x : Nat × Seg) : AmoLane :=
  { lane := x.1, seg := x.2, operand := (data x.1).1, swap := (data x.1).2 }

/-- A lane's step, its old value behind those of the lanes before. -/
def stepLane (w : Who) (op bytes : Nat) (acc : List (Nat × Word) × State) (x : AmoLane) : List (Nat × Word) × State :=
  (acc.1 ++ [(x.lane, BitVec.ofNat 64 (acc.2.amoStep w op bytes x.seg x.operand x.swap).1)], (acc.2.amoStep w op bytes x.seg x.operand x.swap).2)

theorem amoLanes_eq (w : Who) (op bytes : Nat) (lanes : List AmoLane) (s : State) :
    amoLanes w op bytes lanes s = lanes.foldl (stepLane w op bytes) ([], s) := rfl

/-- An old value as the registers take it. -/
def oldWord (x : Nat × Nat) : Nat × Word := (x.1, BitVec.ofNat 64 x.2)

/-- Lanes performed by the model and the steps of the claim get the same values, and leave the same bytes and their caravan as it is. -/
theorem foldl_stepLane (op bytes : Nat) (data : Nat → Nat × Nat) {b n : Nat} {c : Caravan} (places : List (Nat × Seg)) {s u : State}
    (acc : List (Nat × Word)) (hstore : SameStore s u) (hs : CarStands u b n c) : ∃ v,
    (places.map (amoLane data)).foldl (stepLane (.car b n) op bytes) (acc, u) =
      (acc ++ (atomicRun (.car b n) op bytes data places s).1.map oldWord, v) ∧
    SameStore (atomicRun (.car b n) op bytes data places s).2 v ∧ CarStands v b n c := by
  induction places generalizing s u acc with
  | nil => exact ⟨u, by simp [atomicRun], hstore, hs⟩
  | cons p places ih =>
    obtain ⟨t, g⟩ := p
    obtain ⟨hold, hstore'⟩ := hstore.amoStep (.car b n) op bytes g (data t).1 (data t).2
    obtain ⟨v, hfold, hv⟩ := ih (acc ++ [oldWord (t, (s.amoStep (.car b n) op bytes g (data t).1 (data t).2).1)]) hstore'
      (hs.amoStep op bytes g (data t).1 (data t).2)
    refine ⟨v, ?_, hv⟩
    rw [List.map_cons, List.foldl_cons]
    have hstep : stepLane (.car b n) op bytes (acc, u) (amoLane data (t, g)) =
        (acc ++ [oldWord (t, (s.amoStep (.car b n) op bytes g (data t).1 (data t).2).1)],
          (u.amoStep (.car b n) op bytes g (data t).1 (data t).2).2) := by
      rw [← hold]; rfl
    rw [hstep, hfold, atomicRun, List.map_cons, List.append_assoc, List.singleton_append]

theorem amoLanes_atomicRun (op bytes : Nat) (data : Nat → Nat × Nat) {b n : Nat} {c : Caravan} (places : List (Nat × Seg)) {s u : State}
    (hstore : SameStore s u) (hs : CarStands u b n c) : ∃ v,
    amoLanes (.car b n) op bytes (places.map (amoLane data)) u = ((atomicRun (.car b n) op bytes data places s).1.map oldWord, v) ∧
    SameStore (atomicRun (.car b n) op bytes data places s).2 v ∧ CarStands v b n c :=
  foldl_stepLane op bytes data places [] hstore hs

end Sys2Proof
end

section
/-! SUPPORT. The issue of an atomic of a caravan that holds nothing (R92, R232, R233). -/
namespace Sys2Proof
open Sys2Proof.Machine Sys2Proof.Claims

section
variable {s : State} {x : Block} {c : Caravan}

theorem valueOf_cons (t a v : Nat) (vals : List (Nat × Nat)) : valueOf ((a, v) :: vals) t = if a = t then BitVec.ofNat 64 v else valueOf vals t := by
  unfold valueOf
  rw [List.find?_cons]
  by_cases h : a = t
  · rw [if_pos h, h, beq_self_eq_true]; rfl
  · rw [if_neg h, beq_false_of_ne h]

/-- The values read back from the registers' words are those values. -/
theorem valueOf_oldWord (l : List (Nat × Nat)) : valueOf ((l.map oldWord).map fun y => (y.1, y.2.toNat)) = valueOf l := by
  funext t
  induction l with
  | nil => rfl
  | cons y l ih =>
    obtain ⟨a, v⟩ := y
    rw [List.map_cons, List.map_cons, valueOf_cons, ih]
    exact (if_congr Iff.rfl (BitVec.ofNat_toNat .. ▸ rfl) rfl).trans (valueOf_cons t a v l).symm

/-- The first value of lanes that are all lane 0. -/
theorem valueOf_zero {l : List (Nat × Nat)} (h : ∀ y ∈ l, y.1 = 0) : valueOf l 0 = BitVec.ofNat 64 ((l.head?.map (·.2)).getD 0) := by
  cases l with
  | nil => rfl
  | cons y l =>
    obtain ⟨a, v⟩ := y
    rw [valueOf_cons, if_pos (h (a, v) (List.mem_cons_self ..))]; rfl

theorem atomicRun_lanes (w : Who) (op bytes : Nat) (data : Nat → Nat × Nat) (places : List (Nat × Seg)) (s : State) :
    (atomicRun w op bytes data places s).1.map (·.1) = places.map (·.1) := by
  induction places generalizing s with
  | nil => rfl
  | cons p places ih => exact congrArg (p.1 :: ·) (ih _)

/-- A caravan that waits for no access. -/
def ioDone (z : Caravan) : Caravan := { z with io := none }

/-- What an atomic does whose lanes pass their checks: the steps of its lanes, then its destination takes the old values. -/
theorem amoAt_performs (ht : s.cur = .car x.id c.n) (hc : s.car? x.id c.n = some c) (hp : ∀ e ∈ c.epochs, e.pend = []) (hq : Quiet c)
    (hlate : c.late = []) {op bytes : Nat} {lanes : List (Nat × Nat)} {d : Dest} (h : AtomicOk s op bytes lanes d.whole)
    (data : Nat → Nat × Nat) :
    ∃ (v : State) (y : Caravan), amoAt op bytes lanes data d s.cur s = .ok (v.writeDest s.cur d
        (((atomicRun s.cur op bytes data (atomicPlaces s op bytes lanes d.whole) s).1.map oldWord).map fun z => (z.1, z.2.toNat))) none true ∧
      SameStore (atomicRun s.cur op bytes data (atomicPlaces s op bytes lanes d.whole) s).2 v ∧ v.car? x.id c.n = some y ∧ StaysQuiet c y := by
  obtain ⟨hchecks, hreach, hhost, hio⟩ := h
  have hio0 : c.io = none := by rw [ht] at hio; simpa [State.ioOf, hc] using hio
  have hbinds : s.afterBinds s.cur = s := by rw [ht]; simp [State.afterBinds, heldOf_quiet hc hlate hq]
  obtain ⟨g, hsettle, hgn, hquiet⟩ := settleWho_quiet hc hp hq true
  rw [if_pos rfl, ← ht] at hsettle
  have hgc : CarStands (s.modCar x.id c.n g) x.id c.n (g c) := (Laws.car?_state_modCar s x.id c.n g hgn).trans (congrArg _ hc)
  have hlanes : ((s.checkLanes s.cur { read := true, write := true, atomic := some op, size := bytes } lanes d.whole).2.flatMap fun l =>
      l.2.map fun g => amoLane data (l.1, g)) = (atomicPlaces s op bytes lanes d.whole).map (amoLane data) := by
    simp only [atomicPlaces, List.map_flatMap, List.map_map]
    rfl
  have hnone : ((atomicPlaces s op bytes lanes d.whole).map (amoLane data)).any (fun z => z.seg.host) = false := by
    rw [List.any_map, List.any_eq_false]
    rintro ⟨t, g⟩ hg
    obtain ⟨l, hl, hg⟩ := List.mem_flatMap.mp hg
    obtain ⟨g', hg', heq⟩ := List.mem_map.mp hg
    obtain ⟨-, rfl⟩ := Prod.mk.inj heq
    exact Bool.eq_false_iff.mp (hhost l hl g' hg')
  obtain ⟨v, hrun, hstore, hv⟩ := amoLanes_atomicRun op bytes data (atomicPlaces s op bytes lanes d.whole) (sameStore_modCar s x.id c.n g) hgc
  rw [← ht] at hrun hstore
  refine ⟨v.modCar x.id c.n ioDone, ioDone (g c), ?_, hstore.trans (sameStore_modCar v x.id c.n ioDone), ?_, ?_⟩
  · unfold amoAt amoCheck
    simp only [hio, hbinds, hchecks, hsettle, amoReach_modCar, hreach]
    rw [← hlanes] at hnone hrun
    simp only [amoLane] at hnone hrun
    simp only [amoPerform, hnone, hrun, Bool.false_eq_true, if_false, State.writeIo, IoWait.values]
    rw [ht]; rfl
  · exact (Laws.car?_state_modCar v x.id c.n ioDone fun _ => rfl).trans (congrArg _ hv)
  · obtain ⟨ep, rb, esc, k, hy, hk, hep⟩ := hquiet
    refine ⟨ep, rb, esc, k, ?_, hk, hep⟩
    rw [hy]
    simp only [ioDone, ← hio0]

/-! ## Vector and uniform atomics -/

/-- What a vector atomic asks of its issue. -/
def amoVOp (word : W32) (f : FmtZ1DA) (op : Nat) : Op :=
  { word := word, st := f.st.toNat, pr := f.pr.toNat, perThread := true, ok := op != 9 || f.d.toNat % 2 == 0,
    dst := [.v f.d.toNat], src := [.v f.d.toNat, .v f.a.toNat] ++ if op = 9 then [Reg.v (f.d.toNat + 1)] else [] }

/-- What a uniform atomic asks of its issue. -/
def amoUOp (word : W32) (f : FmtZ1DA) (op : Nat) : Op :=
  { word := word, st := f.st.toNat, pr := f.pr.toNat, ok := op != 9 || f.d.toNat % 2 == 0,
    dst := [.u f.d.toNat], src := [.u f.d.toNat, .u f.a.toNat] ++ if op = 9 then [Reg.u (f.d.toNat + 1)] else [] }

theorem amoV_eq (word : W32) (f : FmtZ1DA) (op : Nat) (s : State) : amoV word f op s = issue (amoVOp word f op) (fun w hs s =>
    amoAt op (amoBytes f.z1) ((lanesOf (s.activeMask w f.pr.toNat hs)).map fun t => (t, (s.vlane w f.a.toNat t).toNat))
      (fun t => ((s.vlane w f.d.toNat t).toNat, (s.vlane w (f.d.toNat + 1) t).toNat)) (.v f.d.toNat (s.activeMask w f.pr.toNat hs)) w s) s := rfl

theorem amoU_eq (word : W32) (f : FmtZ1DA) (op : Nat) (s : State) : amoU word f op s = issue (amoUOp word f op) (fun w _ s =>
    amoAt op (amoBytes f.z1) [(0, (s.urd w f.a.toNat).toNat)]
      (fun _ => ((s.urd w f.d.toNat).toNat, (s.urd w (f.d.toNat + 1)).toNat)) (.u f.d.toNat) w s) s := rfl

variable {neg : Bool} {f : FmtZ1DA} {op : Nat}

theorem ok_of_even (h : op = 9 → f.d.toNat % 2 = 0) : (op != 9 || f.d.toNat % 2 == 0) = true := by
  by_cases h9 : op = 9
  · simp [h h9]
  · simp [h9]

theorem checkIssue_amoV (ht : Turn s x c (negpGroup neg)) (word : W32) (hneg : f.pr = 7 → neg = false) (heven : op = 9 → f.d.toNat % 2 = 0)
    (hd : f.d.toNat < c.vb) (ha : f.a.toNat < c.vb) (hswap : op = 9 → f.d.toNat + 1 < c.vb) : checkIssue s s.cur (amoVOp word f op) = none := by
  have hhints := Laws.accepts_imm (amoVOp word f op) false none neg (fun h => nomatch h) fun hn => ⟨rfl, pr_ne_of_negp hneg rfl hn⟩
  refine Laws.checkIssue_car ht _ hhints (ok_of_even heven) (Laws.namesOk_none s _ _ rfl rfl rfl) ?_ (.inl rfl) rfl (by split <;> rfl)
    (level_contains ht) ?_
  · by_cases h9 : op = 9 <;> simp [Op.regs, amoVOp, h9, regOk_v]
  · by_cases h9 : op = 9
    · simpa [Op.regs, amoVOp, h9, or_imp, forall_and] using ⟨hd, ha, hswap h9⟩
    · simpa [Op.regs, amoVOp, h9, or_imp, forall_and] using ⟨hd, ha⟩

theorem checkIssue_amoU (ht : Turn s x c (negpGroup neg)) (word : W32) (hcond : condOk f.pr neg) (heven : op = 9 → f.d.toNat % 2 = 0) :
    checkIssue s s.cur (amoUOp word f op) = none := by
  refine checkIssue_once (p := none) ht hcond rfl (fun h => nomatch h) rfl (ok_of_even heven) (Laws.namesOk_none s _ _ rfl rfl rfl) ?_ ?_ rfl
    (by split <;> rfl) rfl
  · by_cases h9 : op = 9
    · have hd := f.d.isLt
      have hswap : regOk false (.u (f.d.toNat + 1)) = true := decide_eq_true (by have := heven h9; omega)
      simp [Op.regs, amoUOp, h9, regOk_u, hswap]
    · simp [Op.regs, amoUOp, h9, regOk_u]
  · by_cases h9 : op = 9 <;> simp [Op.regs, amoUOp, h9]

/-- ESC is no part of the level. -/
theorem plv_eq {k k' : Word} (h : k &&& ~~~8 = k' &&& ~~~8) : bitsOf k.toNat 5 4 = bitsOf k'.toNat 5 4 := by
  have hlevel : ∀ w : Word, (w &&& ~~~8).extractLsb' 4 2 = w.extractLsb' 4 2 := fun w => by
    rw [BitVec.extractLsb'_and, show (~~~(8 : Word)).extractLsb' 4 2 = BitVec.allOnes 2 by decide, BitVec.and_allOnes]
  have hbits : ∀ w : Word, bitsOf w.toNat 5 4 = (w.extractLsb' 4 2).toNat := fun w => by
    rw [BitVec.extractLsb'_toNat, Nat.shiftRight_eq_div_pow]; rfl
  rw [hbits, hbits, ← hlevel k, h, hlevel]

theorem StaysQuiet.plv {c d : Caravan} (h : StaysQuiet c d) : d.plv = c.plv := by
  obtain ⟨ep, rb, esc, k, rfl, hk, -⟩ := h
  exact plv_eq hk

/-- The issue of a word whose effect ends with its caravan's registers written. -/
theorem issue_writes {hs : List W32} (ht : Turn s x c hs) (hsched : hintOf hs 0x7F = none) (hseed : hintSeed hs = none) {o : Op}
    {eff : Who → List W32 → State → Res} (hdst : o.dst.length ≤ 1) (hchk : checkIssue s s.cur o = none) (hag : o.again = false)
    {v : State} {y : Caravan} (hv : v.car? x.id c.n = some y) (hy : StaysQuiet c y) (write : Caravan → CRegs) {r : CRegs}
    (hwrite : write y = r) (hpc : r.pc = c.regs.pc)
    (heff : (if o.perThread || s.condTrue s.cur o.pr (hintNegp hs) then eff s.cur hs s else .ok s none false) =
      .ok (v.modCar x.id c.n fun d => { d with regs := write d }) none true) :
    ∃ (g : Caravan → Caravan) (ag : List Instr), issue o eff s = .next { v.modCar x.id c.n g with clk := v.clk + 2, agenda := ag } ∧
      CarIs { v.modCar x.id c.n g with clk := v.clk + 2, agenda := ag } x c (past r) := by
  have hcar : (v.modCar x.id c.n fun d => { d with regs := write d }).car? x.id c.n = some { y with regs := r } := by
    rw [Laws.car?_state_modCar v x.id c.n (fun d => { d with regs := write d }) fun _ => rfl, hv, ← hwrite]; rfl
  obtain ⟨g, ag, hissue, -, his⟩ := issue_quiet ht hsched hseed (.inl hdst) hchk hag heff hcar hy hpc
  rw [Laws.modCar_modCar v x.id c.n (fun d => { d with regs := write d }) g fun _ => rfl] at hissue his
  exact ⟨_, ag, hissue, his⟩

/-- Such an issue leaves the bytes that its effect left. -/
theorem issue_stored {hs : List W32} (ht : Turn s x c hs) (hsched : hintOf hs 0x7F = none) (hseed : hintSeed hs = none) {o : Op}
    {eff : Who → List W32 → State → Res} (hdst : o.dst.length ≤ 1) (hchk : checkIssue s s.cur o = none) (hag : o.again = false)
    {u v : State} {y : Caravan} (hstore : SameStore u v) (hv : v.car? x.id c.n = some y) (hy : StaysQuiet c y) (write : Caravan → CRegs)
    {r : CRegs} (hwrite : write y = r) (hpc : r.pc = c.regs.pc)
    (heff : (if o.perThread || s.condTrue s.cur o.pr (hintNegp hs) then eff s.cur hs s else .ok s none false) =
      .ok (v.modCar x.id c.n fun d => { d with regs := write d }) none true) :
    ∃ t, issue o eff s = .next t ∧ t.far = u.far ∧ (∀ l, t.peek l = u.peek l) ∧ CarIs t x c (past r) := by
  obtain ⟨g, ag, hissue, his⟩ := issue_writes ht hsched hseed hdst hchk hag hv hy write hwrite hpc heff
  exact ⟨_, hissue, hstore.far, fun l => (Laws.peek_modCar ..).trans (hstore.bytes.peek l), his⟩

theorem uwr_turn (hcur : s.cur = .car x.id c.n) (v : State) (r : Nat) (a : Word) :
    v.uwr s.cur r a = v.modCar x.id c.n fun d => { d with regs := d.regs.wr d.plv r a } := by
  rw [hcur]; rfl

theorem issue_amoV (ht : Turn s x c (negpGroup neg)) (hq : Quiet c) (word : W32) (hneg : f.pr = 7 → neg = false)
    (heven : op = 9 → f.d.toNat % 2 = 0) (hd : f.d.toNat < c.vb) (ha : f.a.toNat < c.vb) (hswap : op = 9 → f.d.toNat + 1 < c.vb)
    {lanes : List (Nat × Nat)} (hlanes : lanes = (lanesOf (c.active f.pr.toNat neg)).map fun t => (t, (lane c.regs f.a t).toNat))
    (h : AtomicOk s op (4 * 2 ^ f.z1.toNat) lanes false) {r : List (Nat × Nat) × State}
    (hr : r = atomicRun s.cur op (4 * 2 ^ f.z1.toNat) (fun t => ((lane c.regs f.d t).toNat, (vget (vget c.regs.v (f.d.toNat + 1)) t).toNat))
      (atomicPlaces s op (4 * 2 ^ f.z1.toNat) lanes false) s) :
    ∃ t, amoV word f op s = .next t ∧ t.far = r.2.far ∧ (∀ l, t.peek l = r.2.peek l) ∧
      CarIs t x c (past (c.regs.wrV f.d.toNat (c.active f.pr.toNat neg) (vtab (valueOf r.1)))) := by
  subst hr hlanes
  replace ht : Turn s x c (immGroup none ++ negpGroup neg) := ht
  have hc : s.car? x.id c.n = some c := by simp [State.car?, ht.block, ht.car]
  have hvlane : ∀ r t, s.vlane s.cur r t = vget (vget c.regs.v r) t := fun r t => by rw [ht.cur]; simp only [State.vlane, State.vreg, hc]
  obtain ⟨v, y, hamo, hstore, hv, hy⟩ := amoAt_performs ht.cur hc ht.settled hq ht.late
    (d := .v f.d.toNat (c.active f.pr.toNat neg)) h fun t => ((lane c.regs f.d t).toNat, (vget (vget c.regs.v (f.d.toNat + 1)) t).toNat)
  rw [writeDest_lanes ht.cur, valueOf_oldWord] at hamo
  obtain ⟨ep, rb, esc, k, rfl, -⟩ := id hy
  rw [amoV_eq]
  refine issue_stored ht (Laws.immMod_sched none neg) (Laws.immMod_seed none neg) (le_refl 1) (checkIssue_amoV ht word hneg heven hd ha hswap)
    rfl hstore hv hy (fun d => d.regs.wrV f.d.toNat (c.active f.pr.toNat neg) _) rfl rfl ((if_pos rfl).trans (Eq.trans ?_ hamo))
  simp only [activeMask_turn ht, hvlane, lane]
  rfl

theorem issue_amoU (ht : Turn s x c (negpGroup neg)) (hq : Quiet c) (word : W32) (hcond : condOk f.pr neg)
    (hholds : condHolds c.regs.c f.pr neg = true) (heven : op = 9 → f.d.toNat % 2 = 0)
    (h : AtomicOk s op (4 * 2 ^ f.z1.toNat) [(0, (c.regs.rd c.plv f.a.toNat).toNat)] true) {r : List (Nat × Nat) × State}
    (hr : r = atomicRun s.cur op (4 * 2 ^ f.z1.toNat) (fun _ => ((c.regs.rd c.plv f.d.toNat).toNat, (c.regs.rd c.plv (f.d.toNat + 1)).toNat))
      (atomicPlaces s op (4 * 2 ^ f.z1.toNat) [(0, (c.regs.rd c.plv f.a.toNat).toNat)] true) s) :
    ∃ t, amoU word f op s = .next t ∧ t.far = r.2.far ∧ (∀ l, t.peek l = r.2.peek l) ∧
      CarIs t x c (past (c.regs.wr c.plv f.d.toNat (valueOf r.1 0))) := by
  subst hr
  have hplaces : ∀ k ∈ (atomicPlaces s op (4 * 2 ^ f.z1.toNat) [(0, (c.regs.rd c.plv f.a.toNat).toNat)] true).map (·.1), k = 0 := by
    simp only [atomicPlaces, State.checkLanes, List.map_cons, List.map_nil, List.flatMap_cons, List.flatMap_nil, List.append_nil, List.map_map]
    rintro k hk
    obtain ⟨g, -, rfl⟩ := List.mem_map.mp hk
    rfl
  replace ht : Turn s x c (immGroup none ++ negpGroup neg) := ht
  have hc : s.car? x.id c.n = some c := by simp [State.car?, ht.block, ht.car]
  obtain ⟨v, y, hamo, hstore, hv, hy⟩ := amoAt_performs ht.cur hc ht.settled hq ht.late (d := .u f.d.toNat) h
    fun _ => ((c.regs.rd c.plv f.d.toNat).toNat, (c.regs.rd c.plv (f.d.toNat + 1)).toNat)
  change _ = Res.ok (v.uwr s.cur f.d.toNat _) none true at hamo
  rw [← valueOf_zero, valueOf_oldWord, uwr_turn ht.cur] at hamo
  · have hwrite : y.regs = c.regs := by
      obtain ⟨ep, rb, esc, k, rfl, -⟩ := hy
      rfl
    rw [amoU_eq]
    refine issue_stored ht (Laws.immMod_sched none neg) (Laws.immMod_seed none neg) (le_refl 1) (checkIssue_amoU ht word hcond heven) rfl
      hstore hv hy (fun d => d.regs.wr d.plv f.d.toNat _) (r := c.regs.wr c.plv f.d.toNat _) (by rw [hy.plv, hwrite]; rfl) (wr_pc ..)
      ((if_pos (acts_once ht hholds rfl)).trans (Eq.trans ?_ hamo))
    simp only [Laws.urd_car ht]
    rfl
  · rw [List.map_map]
    exact List.forall_mem_map.mpr fun z hz => hplaces z.1 (atomicRun_lanes s.cur op _ _ _ s ▸ List.mem_map_of_mem hz)

end

/-- Settles O12: the model's lanes step as the claim's do from a state with the same bytes, the caravan's commits done. -/
theorem atomicStepsLanesInOrder : Obligations.AtomicStepsLanesInOrder := by
  refine ⟨fun s x c neg i f op hi ht hq hneg heven hd ha hswap => ?_, fun s x c neg i f op hi ht hq hcond hholds heven => ?_⟩
  · intro bytes lanes h r
    have hissue : ∀ word, ∃ t, amoV word f op s = .next t ∧ t.far = r.2.far ∧ (∀ l, t.peek l = r.2.peek l) ∧
        CarIs t x c (past (c.regs.wrV f.d.toNat (c.active f.pr.toNat neg) (vtab (valueOf r.1)))) :=
      fun word => issue_amoV ht hq word hneg heven hd ha hswap rfl h rfl
    cases hi <;> exact hissue _
  · intro bytes lanes h r
    have hissue : ∀ word, ∃ t, amoU word f op s = .next t ∧ t.far = r.2.far ∧ (∀ l, t.peek l = r.2.peek l) ∧
        CarIs t x c (past (c.regs.wr c.plv f.d.toNat (valueOf r.1 0))) :=
      fun word => issue_amoU ht hq word hcond hholds heven h rfl
    cases hi <;> exact hissue _

end Sys2Proof
end

section
/-! SUPPORT. Bundles declared, entered and left, and pushes held (R85 to R87, R103, R252 to R259). -/
namespace Sys2Proof
open Sys2Proof.Machine Sys2Proof.Claims

/-! ## What is held at issue -/

section
variable {s : State} {x : Block} {c : Caravan} {pr : BitVec 3} {neg : Bool}

/-- A caravan whose open epoch holds an operation besides. -/
def withAct (op : Held) (d : Caravan) : Caravan :=
  { d with epochs := d.epochs.dropLast ++ (d.epochs.getLast?.map fun e => { e with acts := e.acts ++ [op] }).toList }

/-- A once-only word whose effect is to hold an operation: its caravan holds it besides, and nothing else has changed. -/
theorem issue_holds (h : Runs s x c pr neg) {o : Op} (hopr : o.pr = pr.toNat) {eff : Who → List W32 → State → Res} (op : Held)
    (hdst : o.dst.length ≤ 1) (hchk : checkIssue s s.cur o = none) (hag : o.again = false)
    (heff : eff s.cur (negpGroup neg) s = .ok (s.hold s.cur op) none false) :
    ∃ t d, issue o eff s = .next t ∧ RegsBecome s t x c c.regs ∧ BytesKept s t ∧ t.car? x.id c.n = some d ∧ d.held = c.held ++ [op] := by
  obtain ⟨ht, hcond, hholds⟩ := h
  replace ht : Turn s x c (immGroup none ++ negpGroup neg) := ht
  have hc : s.car? x.id c.n = some c := by simp [State.car?, ht.block, ht.car]
  let f := withAct op
  have hf : AddsHeld [op] f := addsHeld_last (fun _ => rfl) fun _ => rfl
  have hhold : s.hold s.cur op = s.modCar x.id c.n f := by rw [ht.cur]; rfl
  have hcar : (s.modCar x.id c.n f).car? x.id c.n = some (f c) := (Laws.car?_state_modCar s x.id c.n f hf.n).trans (congrArg _ hc)
  obtain ⟨g, ag, hissue, hgn, ⟨fx, ni, ep, mu, hgc⟩, hheld⟩ := issue_held ht (Laws.immMod_sched none neg) (Laws.immMod_seed none neg)
    (.inl hdst) hchk hag ((if_pos (acts_once ht hholds hopr)).trans (heff.trans (congrArg (Res.ok · none false) hhold))) hcar ht.live (hf.pend ht.settled)
  rw [Laws.modCar_modCar s x.id c.n f g hf.n] at hissue
  have hgf : ∀ d, (g (f d)).n = d.n := fun d => (hgn _).trans (hf.n d)
  obtain ⟨hregs, hbytes⟩ := Laws.regsBecome_modCar ht.block ht.car (fun d => g (f d)) hgf (s.clk + 2) ag c.regs fx ni ep mu
    (hgc.trans (by simp only [f, withAct, pc_past]))
  exact ⟨_, g (f c), hissue, hregs, hbytes, (Laws.car?_state_modCar s x.id c.n (fun d => g (f d)) hgf).trans (congrArg _ hc),
    hheld.trans (hf.held ht.opened)⟩

variable {f : FmtDA} {g : FmtA}

theorem bentr_holds (h : Runs s x c f.pr neg) (hbar : f.d.toNat < x.nbar) (hinit : (vget x.bars f.d.toNat).n ≠ 0) {u : Bundle}
    (hown : s.ownHandle s.cur (c.regs.rd c.plv f.a.toNat).toNat = some u)
    (hroom : x.handles.contains (c.regs.rd c.plv f.a.toNat).toNat = true ∨ x.handles.length < 32) :
    ∃ t d, exec (.bentr f) s = .next t ∧ RegsBecome s t x c c.regs ∧ BytesKept s t ∧ t.car? x.id c.n = some d ∧
      d.held = c.held ++ [.bentr (c.regs.rd c.plv f.a.toNat).toNat f.d.toNat] := by
  have ht : Turn s x c (immGroup none ++ negpGroup neg) := h.turn
  have hblock : s.block? (blkOf s.cur) = some x := by rw [ht.cur]; exact ht.block
  rw [Laws.exec_bentr, execBentr]
  refine issue_holds h rfl _ (Nat.zero_le 1)
    (checkIssue_once ht h.cond rfl (fun h => nomatch h) rfl rfl ?_ ?_ ?_ rfl ?_ rfl) rfl ?_
  · simp [State.namesOk, hblock, opS, hbar]
  · simp [Op.regs, opS, regOk_u]
  · simp [Op.regs, opS]
  · split <;> rfl
  · have hfull : (!(x.handles.contains (c.regs.rd c.plv f.a.toNat).toNat) && decide (32 ≤ x.handles.length)) = false := by
      rcases hroom with h | h
      · rw [h]; rfl
      · rw [decide_eq_false (not_le.mpr h), Bool.and_false]
    simp only [bentrAt, Laws.urd_car ht, hblock, hinit, hown, hfull, Bool.false_eq_true, if_false]

theorem bleav_holds (h : Runs s x c g.pr neg) {u : Bundle} (hown : s.ownHandle s.cur (c.regs.rd c.plv g.a.toNat).toNat = some u) :
    ∃ t d, exec (.bleav g) s = .next t ∧ RegsBecome s t x c c.regs ∧ BytesKept s t ∧ t.car? x.id c.n = some d ∧
      d.held = c.held ++ [.bleav (c.regs.rd c.plv g.a.toNat).toNat] := by
  have ht : Turn s x c (immGroup none ++ negpGroup neg) := h.turn
  rw [Laws.exec_bleav, execBleav]
  refine issue_holds h rfl _ (Nat.zero_le 1)
    (checkIssue_once ht h.cond rfl (fun h => nomatch h) rfl rfl (Laws.namesOk_none s _ _ rfl rfl rfl) ?_ ?_ rfl ?_ rfl) rfl ?_
  · simp [Op.regs, opS, regOk_u]
  · simp [Op.regs, opS]
  · split <;> rfl
  · simp only [bleavAt, Laws.urd_car ht, hown]

theorem qpush_holds (h : Runs s x c f.pr neg) (hfour : f.d.toNat % 4 = 0) (hlow : 4 ≤ f.d.toNat) {l : Launch} {p : Pipe}
    (hpipe : s.pipeFor s.cur f.a.toNat true = .ok (l, p)) (hopen : s.pipeClosed l f.a.toNat = false) (hdrain : p.drain = 0)
    (hroom : s.pipeUsed l f.a.toNat < p.depth) :
    ∃ t d, exec (.qpush f) s = .next t ∧ RegsBecome s t x c c.regs ∧ BytesKept s t ∧ t.car? x.id c.n = some d ∧
      d.held = c.held ++ [.qpush f.a.toNat ((List.range 4).flatMap fun j => leBytes 8 (c.regs.rd c.plv (f.d.toNat + j)).toNat)] := by
  have ht : Turn s x c (immGroup none ++ negpGroup neg) := h.turn
  have hd := f.d.isLt
  rw [Laws.exec_qpush, execQpush]
  refine issue_holds h rfl _ (Nat.zero_le 1)
    (checkIssue_once ht h.cond rfl (fun h => nomatch h) rfl ?_ (Laws.namesOk_none s _ _ rfl rfl rfl) ?_ ?_ rfl ?_ rfl) rfl ?_
  · simp [hfour, hlow]
  · rw [List.all_eq_true]
    rintro r hr
    obtain ⟨j, hj, rfl⟩ := List.mem_map.mp hr
    have hj4 := List.mem_range.mp hj
    exact decide_eq_true (by omega)
  · rintro k hk
    obtain ⟨j, -, hj⟩ := List.mem_map.mp hk
    cases hj
  · split <;> rfl
  · simp only [qpushAt, hpipe, hopen, hdrain, State.entryRegs, Laws.urd_car ht, not_le.mpr hroom, Bool.false_eq_true, if_false,
      bne_self_eq_false, Bool.false_and]

end

end Sys2Proof
end

section
/-! SUPPORT. A bundle declared: what its descriptor's reads leave as it is, and the handle or the refusal (R85, R252). -/
namespace Sys2Proof
open Sys2Proof.Machine Sys2Proof.Claims

/-! ## What reading words leaves as it is -/

/-- Blocks, launches and functions' tenants are what they were. -/
structure ReadKeeps (s t : State) : Prop where
  blocks : t.blocks = s.blocks
  launches : t.launches = s.launches
  tenants : ∀ v, t.vfTenant v = s.vfTenant v

theorem ReadKeeps.refl (s : State) : ReadKeeps s s := ⟨rfl, rfl, fun _ => rfl⟩

theorem ReadKeeps.trans {s t u : State} (h : ReadKeeps s t) (h' : ReadKeeps t u) : ReadKeeps s u :=
  ⟨h'.blocks.trans h.blocks, h'.launches.trans h.launches, fun v => (h'.tenants v).trans (h.tenants v)⟩

theorem readKeeps_of_caches {s t : State} (h : CachesMove s t) : ReadKeeps s t := by
  obtain ⟨cs, ag, rfl, -⟩ := h
  exact ⟨rfl, rfl, fun _ => rfl⟩

/-- A fold whose steps each give bytes and a state. -/
theorem readKeeps_foldl {α β : Type} (step : β × State → α → β × State) (h : ∀ acc a, ReadKeeps acc.2 (step acc a).2) (l : List α)
    (acc : β × State) : ReadKeeps acc.2 (l.foldl step acc).2 :=
  List.foldlRecOn (motive := fun r => ReadKeeps acc.2 r.2) l step (.refl _) fun r hr a _ => hr.trans (h r a)

theorem readKeeps_modQueue (s : State) (v q : Nat) (f : Queue → Queue) : ReadKeeps s (s.modQueue v q f) := by
  let g : Vf → Vf := fun x => if x.id == v then { x with queues := x.queues.map fun y => if y.q == q then f y else y } else x
  have hg : ∀ x, (g x).id = x.id ∧ (g x).tenant = x.tenant := fun x => by
    simp only [g]
    split <;> exact ⟨rfl, rfl⟩
  have hvf : ∀ w, ((s.modQueue v q f).vf? w) = (s.vf? w).map g := fun w => by
    have hkey : (fun x : Vf => x.id == w) ∘ g = fun x => x.id == w := funext fun x => by simp only [Function.comp, (hg x).1]
    exact (List.find?_map ..).trans (by rw [hkey]; rfl)
  refine ⟨rfl, rfl, fun w => ?_⟩
  unfold State.vfTenant
  rw [hvf]
  cases s.vf? w with
  | none => rfl
  | some x => exact (hg x).2

theorem readKeeps_emitTo (s : State) (vf q : Nat) (e : List Byte) : ReadKeeps s (s.emitTo vf q e) := by
  unfold State.emitTo
  split
  · exact .refl s
  · split
    · exact readKeeps_modQueue ..
    · exact (readKeeps_modQueue ..).trans (readKeeps_of_caches (cachesMove_queueEvent _ _))

theorem readKeeps_streamEvent (s : State) (tenant slot : Nat) (places : List (Nat × Nat)) :
    ReadKeeps s (s.streamEvent tenant slot places none).2 := by
  unfold State.streamEvent
  split
  · exact List.foldlRecOn (motive := ReadKeeps s) _ _ ⟨rfl, rfl, fun _ => rfl⟩ fun u hu e _ => hu.trans (readKeeps_emitTo ..)
  · exact .refl s

theorem readKeeps_streamAccess (s : State) (tenant slot pa page len : Nat) :
    ReadKeeps s (s.streamAccess tenant slot pa page none len).2 := by
  unfold State.streamAccess
  refine readKeeps_foldl _ (fun acc a => ?_) _ ([], s)
  exact readKeeps_streamEvent acc.2 tenant slot _

theorem readKeeps_readSeg (s : State) (w : Who) (held : List Held) (g : Seg) : ReadKeeps s (s.readSeg w held g).2 := by
  have hcache : ReadKeeps s (s.cacheRead w false g) := readKeeps_of_caches (cachesMove_cacheRead ..)
  unfold State.readSeg
  split
  · split
    · exact readKeeps_streamAccess ..
    · exact hcache
  · exact hcache

theorem readKeeps_readUnits (s : State) (w : Who) (held : List Held) (u a n : Nat) : ReadKeeps s (s.readUnits w held u a n).2.2 := by
  induction n with
  | zero => exact .refl s
  | succ n ih =>
    unfold State.readUnits
    generalize s.readUnits w held u a n = r at ih
    obtain ⟨bad, bs, v⟩ := r
    dsimp only
    split
    · exact ih
    · split
      · exact ih
      · refine ih.trans (readKeeps_foldl _ (fun acc g => ?_) _ ([], v))
        exact readKeeps_readSeg acc.2 w held g

theorem readKeeps_readWords {s t : State} {w : Who} {held : List Held} {a n : Nat} {bad : Option Trap} {bs : List Byte}
    (h : s.readWords w held a n = (bad, bs, t)) : ReadKeeps s t := by
  have := readKeeps_readUnits s w held 8 a n
  rwa [show s.readUnits w held 8 a n = (bad, bs, t) from h] at this

/-! ## The declaration -/

section
variable {s : State} {x : Block} {c : Caravan} {neg : Bool} {f : FmtDA}

theorem refusal_word : BitVec.ofNat 64 (refusal 1) = (0 - 255 : Word) := by decide

/-- A declaration changes bundles alone. -/
theorem declareBundle_blocks (s : State) (launch tenant : Nat) (look : Nat → Walk) (ranges : List (Nat × Nat)) :
    (s.declareBundle launch tenant look ranges).2.blocks = s.blocks := by
  unfold State.declareBundle
  dsimp only
  repeat' split
  all_goals rfl

/-- A once-only word of a caravan that holds nothing, whose effect ends with a value for an s register. -/
theorem issue_answers {pr : BitVec 3} (h : Runs s x c pr neg) {o : Op} (hopr : o.pr = pr.toNat) 
    {eff : Who → List W32 → State → Res} (hdst : o.dst.length ≤ 1)
    (hchk : checkIssue s s.cur o = none) (hag : o.again = false) {v : State} {d : Caravan} (hv : v.car? x.id c.n = some d)
    (hd : StaysQuiet c d) (r : Nat) {a : Word} (heff : eff s.cur (negpGroup neg) s = .ok (v.uwr s.cur r a) none true) :
    ∃ t, issue o eff s = .next t ∧ t.bundles = v.bundles ∧ CarIs t x c (past (c.regs.wr c.plv r a)) := by
  have ht : Turn s x c (immGroup none ++ negpGroup neg) := h.turn
  have hregs : d.regs = c.regs := by
    obtain ⟨ep, rb, esc, q, rfl, -⟩ := hd
    rfl
  rw [uwr_turn ht.cur] at heff
  obtain ⟨g, ag, hissue, his⟩ := issue_writes ht (Laws.immMod_sched none neg) (Laws.immMod_seed none neg) hdst hchk hag hv hd
    (fun d => d.regs.wr d.plv r a) (by rw [hd.plv, hregs]) (wr_pc ..) ((if_pos (acts_once ht h.holds hopr)).trans heff)
  exact ⟨_, hissue, rfl, his⟩

/-- A declaration that gives its register a value, once its effect is done. -/
theorem issue_bdecl (h : Runs s x c f.pr neg) {v : State} {d : Caravan} (hv : v.car? x.id c.n = some d) (hd : StaysQuiet c d) {k : Nat}
    (heff : bdeclAt f.d.toNat (c.regs.rd c.plv f.a.toNat).toNat s.cur s = .ok (v.uwr s.cur f.d.toNat (BitVec.ofNat 64 k)) none true) :
    ∃ t, exec (.bdecl f) s = .next t ∧ t.bundles = v.bundles ∧ CarIs t x c (past (c.regs.wr c.plv f.d.toNat (BitVec.ofNat 64 k))) := by
  have ht : Turn s x c (immGroup none ++ negpGroup neg) := h.turn
  rw [Laws.exec_bdecl, execBdecl]
  refine issue_answers h rfl (le_refl 1)
    (checkIssue_once ht h.cond rfl (fun h => nomatch h) rfl rfl (Laws.namesOk_none s _ _ rfl rfl rfl) ?_ ?_ rfl ?_ rfl) rfl hv hd f.d.toNat ?_
  · simp [Op.regs, opS, regOk_u]
  · simp [Op.regs, opS]
  · split <;> rfl
  · simpa only [Laws.urd_car ht] using heff

/-- What the agent of a turn asks its block and launch stays what it is while its descriptor is read. -/
theorem launchOf_readKeeps (hcur : s.cur = .car x.id c.n) (hb : s.block? x.id = some x) {g : Caravan → Caravan} {u : State}
    (h : ReadKeeps (s.modCar x.id c.n g) u) : u.block? x.id = some (x.modCar c.n g) ∧ u.launchOf s.cur = s.launchOf s.cur := by
  have hblock : u.block? x.id = some (x.modCar c.n g) := by
    unfold State.block?
    rw [h.blocks]
    exact (Laws.block?_modBlock s x.id (fun y => y.modCar c.n g) fun _ => rfl).trans (congrArg _ hb)
  have hlaunch : ∀ l, u.launch? l = s.launch? l := fun l => by
    unfold State.launch?
    rw [h.launches]; rfl
  refine ⟨hblock, ?_⟩
  unfold State.launchOf
  rw [hcur]
  simp only [blkOf, hblock, hb, Option.bind_some, hlaunch]
  rfl

/-- The descriptor of a bundle is read by a caravan that holds nothing. -/
theorem bdecl_reads (h : Runs s x c f.pr neg) (hq : Quiet c) : ∃ g : Caravan → Caravan, s.settleWho s.cur = s.modCar x.id c.n g ∧
    StaysQuiet c (g c) ∧ ∀ u, ReadKeeps (s.settleWho s.cur) u → u.car? x.id c.n = some (g c) ∧ u.launchOf s.cur = s.launchOf s.cur ∧
      u.spaceOf s.cur = s.spaceOf s.cur ∧ u.tenantOfWho s.cur = s.tenantOfWho s.cur ∧ u.coreOf s.cur = x.core := by
  obtain ⟨ht, -, -⟩ := h
  have hc : s.car? x.id c.n = some c := by simp [State.car?, ht.block, ht.car]
  obtain ⟨g, hsettle, hgn, hquiet⟩ := settleWho_quiet hc ht.settled hq true
  rw [if_pos rfl, ← ht.cur] at hsettle
  refine ⟨g, hsettle, hquiet, fun u hu => ?_⟩
  rw [hsettle] at hu
  obtain ⟨hblock, hlaunch⟩ := launchOf_readKeeps ht.cur ht.block hu
  have hspace : u.spaceOf s.cur = s.spaceOf s.cur := by unfold State.spaceOf; rw [hlaunch]
  refine ⟨?_, hlaunch, hspace, ?_, ?_⟩
  · rw [State.car?, hblock]
    exact (Laws.car?_modCar x c.n g hgn).trans (congrArg _ ht.car)
  · unfold State.tenantOfWho
    rw [hspace, hu.tenants]; rfl
  · unfold State.coreOf
    rw [ht.cur]
    simp only [blkOf, hblock]
    rfl

theorem bdecl_refused (h : Runs s x c f.pr neg) (hq : Quiet c) {s1 : State} {head : List Byte}
    (haligned : (c.regs.rd c.plv f.a.toNat).toNat % 8 = 0)
    (hhead : (s.settleWho s.cur).readWords s.cur [] (c.regs.rd c.plv f.a.toNat).toNat 1 = (none, head, s1))
    (hcount : leNat head = 0 ∨ 16 < leNat head) :
    ∃ t, exec (.bdecl f) s = .next t ∧ CarIs t x c (past (c.regs.wr c.plv f.d.toNat (0 - 255))) := by
  obtain ⟨g, -, hquiet, hkeeps⟩ := bdecl_reads h hq
  obtain ⟨hcar, -⟩ := hkeeps s1 (readKeeps_readWords hhead)
  obtain ⟨t, hissue, -, his⟩ := issue_bdecl h hcar hquiet (k := refusal 1) (by
    simp only [bdeclAt, haligned, hhead, if_pos hcount, bne_self_eq_false, Bool.false_eq_true, if_false])
  exact ⟨t, hissue, refusal_word ▸ his⟩

theorem bdecl_declares (h : Runs s x c f.pr neg) (hq : Quiet c) {s1 s2 : State} {head bs : List Byte}
    (haligned : (c.regs.rd c.plv f.a.toNat).toNat % 8 = 0)
    (hhead : (s.settleWho s.cur).readWords s.cur [] (c.regs.rd c.plv f.a.toNat).toNat 1 = (none, head, s1))
    (hlow : 0 < leNat head) (hhigh : leNat head ≤ 16)
    (hbs : s1.readWords s.cur [] (c.regs.rd c.plv f.a.toNat).toNat (1 + 2 * leNat head) = (none, bs, s2)) {r : Nat × State}
    (hr : r = s2.declareBundle x.launch (s.tenantOfWho s.cur) (s2.lookup x.core (s.spaceOf s.cur).1 (s.spaceOf s.cur).2) (descRanges bs))
    (hlaunch : (s.launch? x.launch).map (·.id) = some x.launch) : ∃ t, exec (.bdecl f) s = .next t ∧ t.bundles = r.2.bundles ∧
      CarIs t x c (past (c.regs.wr c.plv f.d.toNat (BitVec.ofNat 64 r.1))) := by
  obtain ⟨g, -, hquiet, hkeeps⟩ := bdecl_reads h hq
  obtain ⟨hcar, hlaunchOf, hspace, htenant, hcore⟩ := hkeeps s2 ((readKeeps_readWords hhead).trans (readKeeps_readWords hbs))
  obtain ⟨l, hl, hid⟩ := Option.map_eq_some_iff.mp hlaunch
  have hlaunchOf' : s.launchOf s.cur = some l := by
    unfold State.launchOf
    rw [h.turn.cur]
    simp only [blkOf, h.turn.block, Option.bind_some, hl]
  have hcount : ¬(leNat head = 0 ∨ 16 < leNat head) := by omega
  have hcar' : r.2.car? x.id c.n = some (g c) := by
    unfold State.car? State.block? at hcar ⊢
    rwa [hr, declareBundle_blocks]
  refine issue_bdecl h hcar' hquiet ?_
  subst hr
  simp only [bdeclAt, haligned, hhead, if_neg hcount, hbs, hlaunchOf, hlaunchOf', hspace, htenant, hcore, hid, bne_self_eq_false,
    Bool.false_eq_true, if_false]

end

/-- Settles O23: a descriptor's reads leave blocks, launches and tenants, and what is held changes epochs alone. -/
theorem bundleIsDeclaredEnteredAndLeft : Obligations.BundleIsDeclaredEnteredAndLeft := by
  refine ⟨fun s x c neg f s1 head h hq => ?_, fun s x c neg f g u l p => ⟨?_, ?_, ?_⟩⟩
  · intro a n haligned hhead
    refine ⟨fun hcount => bdecl_refused h hq haligned hhead hcount, fun hlow hhigh bs s2 hbs => ?_⟩
    intro r _ hlaunch
    exact bdecl_declares h hq haligned hhead hlow hhigh hbs rfl hlaunch
  · exact fun h hbar hinit hown hroom => bentr_holds h hbar hinit hown hroom
  · exact fun h hown => bleav_holds h hown
  · exact fun h hfour hlow hpipe hopen hdrain hroom => qpush_holds h hfour hlow hpipe hopen hdrain hroom

end Sys2Proof
end
